-- ==== Sys2Proof/Word.lean ====
section
/-! DEFINITION. The plain words of the machine: bytes, 32-bit and 64-bit words, 96-lane masks (R3, R5-R7 of
spec/00_scope.md; R10 of spec/01_group.md). Only abbreviations; every operation on them is in Decode.lean or
under Machine/. -/

namespace Sys2Proof

/-- One byte of memory (R3). -/
abbrev Byte := BitVec 8

/-- A 32-bit register or memory word. -/
abbrev Word := BitVec 32

/-- A 64-bit pair, address or code address. -/
abbrev Dword := BitVec 64

/-- A mask over the 96 lanes of a group, lane `i` at bit `i` (R10, R84). -/
abbrev Mask := BitVec 96

end Sys2Proof
end

