-- ==== Sys2Proof/Syntax.lean ====
section
/-! DEFINITION. The syntax of the machine's steps: one constructor of `Instr` per row of spec/opcode_table.json,
226 instruction words (R26-R46 of spec/02_encoding.md) and 114 rows of what the machine and its surroundings do
between instructions (spec/95_what_each_step_holds.md). An instruction word's operands are its encoded fields, the
ones that name a set of things turned into that set. An event row's operands are what the spec leaves to its agent
(firmware's frames, a packet's contents, the order of arrivals) and the index of what it acts on. -/

namespace Sys2Proof

/-- Integer conditions of ICMP and SCMP (R78). -/
inductive Cond where
  | eq | ne | lt | le | ltn | len | tstz | tstnz
  deriving DecidableEq, Repr

/-- FP32 conditions of FCMP (R89). -/
inductive FCond where
  | eq | ne | lt | le | un | ord | ltu | leu
  deriving DecidableEq, Repr

/-- The rounding field (R58); `illegal` is value 7, refused with ILLRM. -/
inductive Rm where
  | dyn | rne | rz | rdn | rup | rna | rsto | illegal
  deriving DecidableEq, Repr

/-- The four spaces of FM and RED (R38). -/
inductive Space where
  | priv | loc | clu | glob
  deriving DecidableEq, Repr

/-- The SZ field of FM (R38); `illegal` is 111. -/
inductive Size where
  | n8 | i8 | n16 | i16 | b32 | b64 | b128 | illegal
  deriving DecidableEq, Repr

/-- Operations of ATOM, ATOMC and ATOMG (R133). -/
inductive AOp where
  | add | min | max | and | or | xor | xchg | cas
  deriving DecidableEq, Repr

/-- Operations of ATOMX (R133). -/
inductive XOp where
  | add64 | min64 | max64 | cas64 | fadd | fadd2bf | fmin | fmax
  deriving DecidableEq, Repr

/-- Operations of RED (R135). -/
inductive ROp where
  | add | min | max | and | or | xor | fadd | add64
  deriving DecidableEq, Repr

/-- Levels of cache maintenance (R136); `illegal` is 11. -/
inductive Level where
  | l1 | llc | msc | illegal
  deriving DecidableEq, Repr

/-- The kind of a FENCE (R137); `illegal` is 11. -/
inductive FKind where
  | full | acq | rel | illegal
  deriving DecidableEq, Repr

/-- The scope of a FENCE (R6, R137); 6 and 7 are illegal. -/
inductive Scope where
  | grp | core | clu | die | pkg | sys | illegal6 | illegal7
  deriving DecidableEq, Repr

/-- What a fabric request packet asks of its target (R308, R309, R311). -/
inductive PktKind where
  /-- XWR, and the data packets of a landing-row write. -/
  | write
  /-- XRD. -/
  | read
  /-- XRED with its OP. -/
  | red (op : BitVec 4)
  /-- XATOM with its OP. -/
  | atom (op : BitVec 4)
  /-- The fetch-add of a landing-row write (R311). -/
  | land
  /-- XMLR with its OP. -/
  | mcrRead (op : BitVec 4)
  /-- XMST. -/
  | mcrWrite
  /-- The packet without data that a card of length 0 with TC = 1 sends (R309). -/
  | tcOnly (needs : BitVec 4)
  deriving DecidableEq, Repr

/-- One request packet of the fabric (R300, R312). `addr` is the target's PA, or the MCR offset for XMLR and XMST.
`card` and `npkts` let the target tell when every packet of a card is performed (TC of R309). -/
structure Packet where
  src : Nat
  dst : Nat
  tctx : Nat
  seq : Word
  kind : PktKind
  addr : Nat
  len : Nat
  data : List Byte
  tc : Option Nat
  card : Nat
  npkts : Nat
  group : Nat
  /-- For a packet of another package: the plane it has come by. -/
  plane : Nat := 0
  deriving DecidableEq, Repr

/-- How a request packet was answered (R305, R310, R312, R326). -/
inductive ReplySt where
  | ok
  /-- A refusal by a target range check, or by a switch with no route (R305). -/
  | denied
  /-- The sequence number lay outside the window (R312). -/
  | xseq
  /-- Remote data poisoned (R240, R326). -/
  | poison
  /-- Members absent (R326). -/
  | absent
  /-- A failed element of a mixer merge, with its cause (R330). -/
  | failed (cause : BitVec 7)
  deriving DecidableEq, Repr

/-- A reply of the fabric. `mark` is the congestion mark of R314, `flags` the mixer's flags (R327),
`gone` the absent members (R326). -/
structure Reply where
  st : ReplySt
  data : List Byte
  mark : Bool
  flags : BitVec 7
  gone : List Nat
  deriving DecidableEq, Repr

/-- What a mixer takes from one member for one packet (R326). `self` stands for this package's own aperture. -/
inductive Contrib where
  | self
  | data (dev : Nat) (bytes : List Byte)
  | refused (dev : Nat) (poisoned : Bool)
  | absent (dev : Nat)
  deriving DecidableEq, Repr

/-- What the switch makes of an MCR packet (R313, R314, R328): the order in which it takes the members' contributions, whether the reply
carries a congestion mark, or that it has dropped the packet eight times. -/
structure Turn where
  order : List Contrib
  mark : Bool := false
  lost : Bool := false
  /-- For a collective's card: the packet, counted among those not performed yet, which come in any order (R300). -/
  at_ : Nat := 0
  deriving DecidableEq, Repr

/-- The two ways this package meets an MCR packet in the switch (R326): its own outstanding packet `k` is reduced
or multicast, the others' contributions given in their order of arrival, or another member's packet reads or writes
this package's aperture. -/
inductive McrTurn where
  | own (k : Nat) (turn : Turn)
  | member (p : Packet)
  deriving DecidableEq, Repr

/-- The digest of the opening rendezvous (R335). -/
structure CollDigest where
  kind : BitVec 4
  op : BitVec 4
  alg : BitVec 3
  count : Word
  root : BitVec 10
  tshp : Word
  deriving DecidableEq, Repr

/-- How another member stands at a rendezvous (R335). -/
inductive MemberState where
  | absent (dev : Nat)
  | arrived (dev : Nat) (d : CollDigest) (entryCause : BitVec 7)
  deriving DecidableEq, Repr

/-- The contents of the signed configuration block that the model keeps (R293). -/
structure ConfigBlock where
  /-- For each compute die, the physical cluster (0-25) that is its spare. -/
  spare : List Nat
  /-- HBM4E remap tables: rows and channels that a spare stands for, as (stack, channel, row). -/
  remap : List (Nat × Nat × Nat) := []
  memEncrypt : Bool
  /-- Measurement policy: the digests registers 1 to 4 must hold; empty means no demand. -/
  policy : List (BitVec 512)
  deriving DecidableEq, Repr

/-- The switch and fabric tables of boot stage 4: the device identifiers that the planes hold routes for (R305), target range entries
keyed 16 x source device + entry (R305), MCR groups (R324) by group, peer windows as (context, window, entry) (R304). -/
structure FabricTables where
  routes : List Nat := []
  ranges : List (Nat × BitVec 64) := []
  mcr : List (Nat × BitVec 1024) := []
  peer : List (Nat × Nat × BitVec 128) := []
  deriving DecidableEq, Repr

/-- What the boot stages read from the module flash (R292): for stages 1 to 4, whether the signature verifies and
the SHAKE256 digest of the image; the configuration block; register 0 as fixed at manufacture; the device. -/
structure BootInput where
  sigOk : List Bool
  digest : List (BitVec 512)
  block : ConfigBlock
  fabric : FabricTables := {}
  reg0 : BitVec 512
  device : Nat
  serial : List Byte
  deriving DecidableEq, Repr

/-- Where a work-group is put on its core: group slots, SPB, BB and PRIVB (R270). -/
structure Placement where
  slots : List Nat
  spb : Nat
  bb : Nat
  privb : Dword
  deriving DecidableEq, Repr

/-- An engine that can be lost (R115 ENGDEAD): a core's matrix engine, a cluster's copy engine, or an I/O die's
collective sequencer. -/
inductive EngineRef where
  | matrix (core : Nat)
  | copy (cluster : Nat)
  | sequencer (io : Nat)
  deriving DecidableEq, Repr

/-- Mappings that firmware makes (R229): for a context, each an address and a frame, with new tables; and the access of the group whose lanes
are to be replayed. -/
structure FaultMap where
  ctx : Nat
  access : Nat
  pages : List (Nat × Nat)
  tables : List Nat
  deriving DecidableEq, Repr

/-- What a copy engine does on a channel's head card (R169): a read of the source side, or a write. The reads come in any order (R168): one
for the part of the card, or for the packet, that is `k` ahead, and there the line `j` of those still to be read. -/
inductive CardMove where
  | read (ch k j : Nat)
  | write (ch : Nat)
  deriving DecidableEq, Repr

/-- A frame on a fabric link (R302): its text as sent, and its tag. -/
structure Frame where
  text : List Byte
  tag : BitVec 128
  deriving DecidableEq, Repr

/-- One step of the machine: an instruction word, or an event row of spec/opcode_table.json. -/
inductive Instr where
  /-- IADD (R75). -/
  | iadd (d : BitVec 7) (a : BitVec 7) (b : BitVec 7)
  /-- ISUB (R75). -/
  | isub (d : BitVec 7) (a : BitVec 7) (b : BitVec 7)
  /-- IMUL (R75). -/
  | imul (d : BitVec 7) (a : BitVec 7) (b : BitVec 7)
  /-- IMULH (R75). -/
  | imulh (d : BitVec 7) (a : BitVec 7) (b : BitVec 7)
  /-- IMULHN (R75). -/
  | imulhn (d : BitVec 7) (a : BitVec 7) (b : BitVec 7)
  /-- IMIN (R75). -/
  | imin (d : BitVec 7) (a : BitVec 7) (b : BitVec 7)
  /-- IMAX (R75). -/
  | imax (d : BitVec 7) (a : BitVec 7) (b : BitVec 7)
  /-- IABSD (R75). -/
  | iabsd (d : BitVec 7) (a : BitVec 7) (b : BitVec 7)
  /-- AND (R75). -/
  | and (d : BitVec 7) (a : BitVec 7) (b : BitVec 7)
  /-- OR (R75). -/
  | or (d : BitVec 7) (a : BitVec 7) (b : BitVec 7)
  /-- XOR (R75). -/
  | xor (d : BitVec 7) (a : BitVec 7) (b : BitVec 7)
  /-- ANDN (R75). -/
  | andn (d : BitVec 7) (a : BitVec 7) (b : BitVec 7)
  /-- SHL (R75). -/
  | shl (d : BitVec 7) (a : BitVec 7) (b : BitVec 7)
  /-- SHR (R75). -/
  | shr (d : BitVec 7) (a : BitVec 7) (b : BitVec 7)
  /-- SAR (R75). -/
  | sar (d : BitVec 7) (a : BitVec 7) (b : BitVec 7)
  /-- ROTL (R75). -/
  | rotl (d : BitVec 7) (a : BitVec 7) (b : BitVec 7)
  /-- IMINN (R76). -/
  | iminn (d : BitVec 7) (a : BitVec 7) (b : BitVec 7)
  /-- IMAXN (R76). -/
  | imaxn (d : BitVec 7) (a : BitVec 7) (b : BitVec 7)
  /-- POPC (R76). -/
  | popc (d : BitVec 7) (a : BitVec 7)
  /-- CLZ (R76). -/
  | clz (d : BitVec 7) (a : BitVec 7)
  /-- BREV (R76). -/
  | brev (d : BitVec 7) (a : BitVec 7)
  /-- BFX (R76). -/
  | bfx (d : BitVec 7) (a : BitVec 7) (b : BitVec 7)
  /-- BFI (R76). -/
  | bfi (d : BitVec 7) (a : BitVec 7) (b : BitVec 7)
  /-- PRMT (R76). -/
  | prmt (d : BitVec 7) (a : BitVec 7) (b : BitVec 7)
  /-- IADDI (R77). -/
  | iaddi (d : BitVec 7) (a : BitVec 7) (i : BitVec 8)
  /-- ANDI (R77). -/
  | andi (d : BitVec 7) (a : BitVec 7) (i : BitVec 8)
  /-- ORI (R77). -/
  | ori (d : BitVec 7) (a : BitVec 7) (i : BitVec 8)
  /-- XORI (R77). -/
  | xori (d : BitVec 7) (a : BitVec 7) (i : BitVec 8)
  /-- SHLI (R77). -/
  | shli (d : BitVec 7) (a : BitVec 7) (i : BitVec 8)
  /-- SHRI (R77). -/
  | shri (d : BitVec 7) (a : BitVec 7) (i : BitVec 8)
  /-- SARI (R77). -/
  | sari (d : BitVec 7) (a : BitVec 7) (i : BitVec 8)
  /-- IMULI (R77). -/
  | imuli (d : BitVec 7) (a : BitVec 7) (i : BitVec 8)
  /-- ICMP (R78). -/
  | icmp (d : BitVec 7) (a : BitVec 7) (b : BitVec 7) (k : Cond)
  /-- SEL (R79). -/
  | sel (d : BitVec 6) (a : BitVec 6) (b : BitVec 6) (q : BitVec 6)
  /-- MOV (R80). -/
  | mov (d : BitVec 7) (a : BitVec 7)
  /-- VBC (R80). -/
  | vbc (d : BitVec 7) (a : BitVec 7)
  /-- VTOS (R80). -/
  | vtos (d : BitVec 7) (a : BitVec 7) (n : BitVec 7)
  /-- LANE (R80). -/
  | lane (d : BitVec 7)
  /-- SHFL (R80). -/
  | shfl (d : BitVec 7) (a : BitVec 7) (b : BitVec 7)
  /-- SHFLX (R80). -/
  | shflx (d : BitVec 7) (a : BitVec 7) (b : BitVec 7)
  /-- SHFLUP (R80). -/
  | shflup (d : BitVec 7) (a : BitVec 7) (b : BitVec 7)
  /-- SHFLDN (R80). -/
  | shfldn (d : BitVec 7) (a : BitVec 7) (b : BitVec 7)
  /-- REDADD (R81). -/
  | redadd (d : BitVec 7) (a : BitVec 7)
  /-- REDMIN (R81). -/
  | redmin (d : BitVec 7) (a : BitVec 7)
  /-- REDMAX (R81). -/
  | redmax (d : BitVec 7) (a : BitVec 7)
  /-- REDOR (R81). -/
  | redor (d : BitVec 7) (a : BitVec 7)
  /-- SCANADD (R81). -/
  | scanadd (d : BitVec 7) (a : BitVec 7)
  /-- SCANADDX (R81). -/
  | scanaddx (d : BitVec 7) (a : BitVec 7)
  /-- MATCH (R81). -/
  | matchLead (d : BitVec 7) (a : BitVec 7)
  /-- MATCHC (R81). -/
  | matchCount (d : BitVec 7) (a : BitVec 7)
  /-- SADD (R82). -/
  | sadd (d : BitVec 7) (a : BitVec 7) (b : BitVec 7)
  /-- SSUB (R82). -/
  | ssub (d : BitVec 7) (a : BitVec 7) (b : BitVec 7)
  /-- SMUL (R82). -/
  | smul (d : BitVec 7) (a : BitVec 7) (b : BitVec 7)
  /-- SAND (R82). -/
  | sand (d : BitVec 7) (a : BitVec 7) (b : BitVec 7)
  /-- SOR (R82). -/
  | sor (d : BitVec 7) (a : BitVec 7) (b : BitVec 7)
  /-- SXOR (R82). -/
  | sxor (d : BitVec 7) (a : BitVec 7) (b : BitVec 7)
  /-- SSHL (R82). -/
  | sshl (d : BitVec 7) (a : BitVec 7) (b : BitVec 7)
  /-- SSHR (R82). -/
  | sshr (d : BitVec 7) (a : BitVec 7) (b : BitVec 7)
  /-- SADDI (R82). -/
  | saddi (d : BitVec 7) (a : BitVec 7) (i : BitVec 8)
  /-- SANDI (R82). -/
  | sandi (d : BitVec 7) (a : BitVec 7) (i : BitVec 8)
  /-- SORI (R82). -/
  | sori (d : BitVec 7) (a : BitVec 7) (i : BitVec 8)
  /-- SSHLI (R82). -/
  | sshli (d : BitVec 7) (a : BitVec 7) (i : BitVec 8)
  /-- SCMP (R82). -/
  | scmp (d : BitVec 7) (a : BitVec 7) (b : BitVec 7) (k : Cond)
  /-- SADD64 (R83). -/
  | sadd64 (d : BitVec 7) (a : BitVec 7) (b : BitVec 7)
  /-- SSUB64 (R83). -/
  | ssub64 (d : BitVec 7) (a : BitVec 7) (b : BitVec 7)
  /-- IADD64 (R83). -/
  | iadd64 (d : BitVec 7) (a : BitVec 7) (b : BitVec 7)
  /-- ISUB64 (R83). -/
  | isub64 (d : BitVec 7) (a : BitVec 7) (b : BitVec 7)
  /-- ISEXT (R83). -/
  | isext (d : BitVec 7) (a : BitVec 7)
  /-- IZEXT (R83). -/
  | izext (d : BitVec 7) (a : BitVec 7)
  /-- IMULW (R83). -/
  | imulw (d : BitVec 7) (a : BitVec 7) (b : BitVec 7)
  /-- IMULWN (R83). -/
  | imulwn (d : BitVec 7) (a : BitVec 7) (b : BitVec 7)
  /-- MAND (R84). -/
  | mand (d : BitVec 7) (a : BitVec 7) (b : BitVec 7)
  /-- MOR (R84). -/
  | mor (d : BitVec 7) (a : BitVec 7) (b : BitVec 7)
  /-- MXOR (R84). -/
  | mxor (d : BitVec 7) (a : BitVec 7) (b : BitVec 7)
  /-- MANDN (R84). -/
  | mandn (d : BitVec 7) (a : BitVec 7) (b : BitVec 7)
  /-- MNOT (R84). -/
  | mnot (d : BitVec 7) (a : BitVec 7)
  /-- MPOPC (R84). -/
  | mpopc (d : BitVec 7) (a : BitVec 7)
  /-- MFFS (R84). -/
  | mffs (d : BitVec 7) (a : BitVec 7)
  /-- MSETA (R84). -/
  | mseta (d : BitVec 7)
  /-- FADD (R86). -/
  | fadd (d : BitVec 7) (a : BitVec 7) (b : BitVec 7) (r : Rm)
  /-- FSUB (R86). -/
  | fsub (d : BitVec 7) (a : BitVec 7) (b : BitVec 7) (r : Rm)
  /-- FMUL (R86). -/
  | fmul (d : BitVec 7) (a : BitVec 7) (b : BitVec 7) (r : Rm)
  /-- FMAC (R86). -/
  | fmac (d : BitVec 7) (a : BitVec 7) (b : BitVec 7) (r : Rm)
  /-- FMA (R87). -/
  | fma (d : BitVec 6) (a : BitVec 6) (b : BitVec 6) (e : BitVec 6)
  /-- FMIN (R88). -/
  | fmin (d : BitVec 7) (a : BitVec 7) (b : BitVec 7)
  /-- FMAX (R88). -/
  | fmax (d : BitVec 7) (a : BitVec 7) (b : BitVec 7)
  /-- FMINM (R88). -/
  | fminm (d : BitVec 7) (a : BitVec 7) (b : BitVec 7)
  /-- FMAXM (R88). -/
  | fmaxm (d : BitVec 7) (a : BitVec 7) (b : BitVec 7)
  /-- FABS (R88). -/
  | fabs (d : BitVec 7) (a : BitVec 7)
  /-- FNEG (R88). -/
  | fneg (d : BitVec 7) (a : BitVec 7)
  /-- FCPSGN (R88). -/
  | fcpsgn (d : BitVec 7) (a : BitVec 7) (b : BitVec 7)
  /-- FCLASS (R88). -/
  | fclass (d : BitVec 7) (a : BitVec 7)
  /-- FCMP (R89). -/
  | fcmp (d : BitVec 7) (a : BitVec 7) (b : BitVec 7) (k : FCond)
  /-- FCVT (R62). -/
  | fcvt (d : BitVec 7) (a : BitVec 7) (t : BitVec 4) (u : BitVec 3) (r : Rm)
  /-- EX2 (R90). -/
  | ex2 (d : BitVec 7) (a : BitVec 7)
  /-- LG2 (R90). -/
  | lg2 (d : BitVec 7) (a : BitVec 7)
  /-- RCP (R90). -/
  | rcp (d : BitVec 7) (a : BitVec 7)
  /-- RSQ (R90). -/
  | rsq (d : BitVec 7) (a : BitVec 7)
  /-- SQRT (R90). -/
  | sqrt (d : BitVec 7) (a : BitVec 7)
  /-- SIN (R90). -/
  | sin (d : BitVec 7) (a : BitVec 7)
  /-- COS (R90). -/
  | cos (d : BitVec 7) (a : BitVec 7)
  /-- TANH (R90). -/
  | tanh (d : BitVec 7) (a : BitVec 7)
  /-- HADD2_BF16 (R91). -/
  | hadd2Bf16 (d : BitVec 7) (a : BitVec 7) (b : BitVec 7)
  /-- HMUL2_BF16 (R91). -/
  | hmul2Bf16 (d : BitVec 7) (a : BitVec 7) (b : BitVec 7)
  /-- HMAC2_BF16 (R91). -/
  | hmac2Bf16 (d : BitVec 7) (a : BitVec 7) (b : BitVec 7)
  /-- HADD2_F16 (R91). -/
  | hadd2F16 (d : BitVec 7) (a : BitVec 7) (b : BitVec 7)
  /-- HMUL2_F16 (R91). -/
  | hmul2F16 (d : BitVec 7) (a : BitVec 7) (b : BitVec 7)
  /-- HMAC2_F16 (R91). -/
  | hmac2F16 (d : BitVec 7) (a : BitVec 7) (b : BitVec 7)
  /-- HPACK (R91). -/
  | hpack (d : BitVec 7) (a : BitVec 7) (b : BitVec 7)
  /-- FDIV (R86). -/
  | fdiv (d : BitVec 7) (a : BitVec 7) (b : BitVec 7) (r : Rm)
  /-- TMENT (R93). -/
  | tment (d : BitVec 7) (a : BitVec 7)
  /-- TMMRG (R93). -/
  | tmmrg (d : BitVec 7) (a : BitVec 7) (b : BitVec 7)
  /-- TMEXT (R93). -/
  | tmext (d : BitVec 7) (a : BitVec 7)
  /-- TMLD (R95). -/
  | tmld (a : BitVec 7) (k : BitVec 7)
  /-- TMRED (R94). -/
  | tmred (d : BitVec 7) (a : BitVec 7)
  /-- SKDEF (R256). -/
  | skdef (a : BitVec 7) (b : BitVec 7)
  /-- SKUNDEF (R257). -/
  | skundef (a : BitVec 7)
  /-- SKMERGE (R258). -/
  | skmerge (a : BitVec 7) (b : BitVec 7)
  /-- SKFOLD (R259). -/
  | skfold (a : BitVec 7) (b : BitVec 7)
  /-- SKCLR (R260). -/
  | skclr (a : BitVec 7)
  /-- SKSTAT (R261). -/
  | skstat (d : BitVec 7) (a : BitVec 7)
  /-- SKSNAP (R262). -/
  | sksnap (a : BitVec 7) (b : BitVec 7)
  /-- SKQV (R263). -/
  | skqv (d : BitVec 7) (a : BitVec 7) (b : BitVec 7)
  /-- PIN (R234). -/
  | pin (d : BitVec 7) (a : BitVec 7) (b : BitVec 7)
  /-- UNPIN (R234). -/
  | unpin (a : BitVec 7)
  /-- PTOUCH (R234). -/
  | ptouch (a : BitVec 7)
  /-- PSTAT (R234). -/
  | pstat (d : BitVec 7) (a : BitVec 7)
  /-- SPAWN (R276). -/
  | spawn (a : BitVec 7)
  /-- SPAWNR (R276). -/
  | spawnr (a : BitVec 7)
  /-- JDEC (R275). -/
  | jdec (a : BitVec 7)
  /-- QSTAT (R276). -/
  | qstat (d : BitVec 7) (a : BitVec 7)
  /-- FRAME (R276). -/
  | frame (d : BitVec 7) (a : BitVec 7)
  /-- BRA (R96). -/
  | bra (f : BitVec 15)
  /-- BZ (R96). -/
  | bz (q : BitVec 6) (f : BitVec 15)
  /-- BNZ (R96). -/
  | bnz (q : BitVec 6) (f : BitVec 15)
  /-- BRM (R12). -/
  | brm (q : BitVec 6) (f : BitVec 15)
  /-- BANY (R96). -/
  | bany (q : BitVec 6) (f : BitVec 15)
  /-- BALL (R96). -/
  | ball (q : BitVec 6) (f : BitVec 15)
  /-- BALW (R96). -/
  | balw (q : BitVec 6) (f : BitVec 15)
  /-- BNONE (R96). -/
  | bnone (q : BitVec 6) (f : BitVec 15)
  /-- CALL (R99). -/
  | call (o : BitVec 24)
  /-- CALLI (R100). -/
  | calli (a : BitVec 7)
  /-- JMPI (R99). -/
  | jmpi (a : BitVec 7)
  /-- CALLS (R99). -/
  | calls (a : BitVec 7)
  /-- RECONV (R101). -/
  | reconv (o : BitVec 24)
  /-- REP (R44). -/
  | rep (n : BitVec 6) (d : BitVec 1) (a : BitVec 1) (b : BitVec 1) (t : BitVec 2)
  /-- LIT (R45). -/
  | lit (v : BitVec 24)
  /-- XWR (R308). -/
  | xwr (d : BitVec 7) (a : BitVec 7) (b : BitVec 7)
  /-- XRD (R308). -/
  | xrd (d : BitVec 7) (a : BitVec 7) (b : BitVec 7)
  /-- XRED (R308). -/
  | xred (d : BitVec 7) (a : BitVec 7) (b : BitVec 7)
  /-- XATOM (R308). -/
  | xatom (d : BitVec 7) (a : BitVec 7) (b : BitVec 7)
  /-- XMLR (R308). -/
  | xmlr (d : BitVec 7) (a : BitVec 7) (b : BitVec 7)
  /-- XMST (R308). -/
  | xmst (d : BitVec 7) (a : BitVec 7) (b : BitVec 7)
  /-- XTRIG (R319). -/
  | xtrig (a : BitVec 7) (b : BitVec 7)
  /-- XCNT (R321). -/
  | xcnt (d : BitVec 7) (a : BitVec 7) (b : BitVec 7)
  /-- ALWR (R317). -/
  | alwr (d : BitVec 7) (a : BitVec 7)
  /-- COLL (R334). -/
  | coll (d : BitVec 7) (a : BitVec 7)
  /-- XWAIT (R322). -/
  | xwait (d : BitVec 7) (a : BitVec 7) (b : BitVec 7)
  /-- XSTAT (R323). -/
  | xstat (d : BitVec 7) (a : BitVec 7) (b : BitVec 7)
  /-- LD (R132). -/
  | ld (d : BitVec 7) (a : BitVec 7) (p : Space) (z : Size) (o : BitVec 5)
  /-- ST (R132). -/
  | st (d : BitVec 7) (a : BitVec 7) (p : Space) (z : Size) (o : BitVec 5)
  /-- LDS (R132). -/
  | lds (d : BitVec 7) (a : BitVec 7) (p : Space) (z : Size) (o : BitVec 5)
  /-- STS (R132). -/
  | sts (d : BitVec 7) (a : BitVec 7) (p : Space) (z : Size) (o : BitVec 5)
  /-- ATOM (R133). -/
  | atom (d : BitVec 7) (a : BitVec 7) (b : BitVec 7) (o : AOp)
  /-- ATOMC (R133). -/
  | atomc (d : BitVec 7) (a : BitVec 7) (b : BitVec 7) (o : AOp)
  /-- ATOMG (R133). -/
  | atomg (d : BitVec 7) (a : BitVec 7) (b : BitVec 7) (o : AOp)
  /-- ATOMX (R133). -/
  | atomx (d : BitVec 7) (a : BitVec 7) (b : BitVec 7) (o : XOp)
  /-- RED (R135). -/
  | red (p : Space) (a : BitVec 7) (b : BitVec 7) (o : ROp)
  /-- CCLEAN (R136). -/
  | cclean (l : Level) (a : BitVec 7) (b : BitVec 7)
  /-- CINV (R136). -/
  | cinv (l : Level) (a : BitVec 7) (b : BitVec 7)
  /-- CFLUSH (R136). -/
  | cflush (l : Level) (a : BitVec 7) (b : BitVec 7)
  /-- PREF (R136). -/
  | pref (l : Level) (a : BitVec 7) (b : BitVec 7)
  /-- FENCE (R137). -/
  | fence (k : FKind) (t : BitVec 1) (p : Scope)
  /-- TRY (R141). -/
  | tryBegin (l : BitVec 1) (o : BitVec 23)
  /-- ABORT (R155). -/
  | abortTry (a : BitVec 7)
  /-- TSTAT (R154). -/
  | tstat (d : BitVec 7)
  /-- TDEPTH (R154). -/
  | tdepth (d : BitVec 7)
  /-- BARARV (R140). -/
  | bararv (d : BitVec 7) (a : BitVec 7)
  /-- BARWT (R140). -/
  | barwt (d : BitVec 7) (a : BitVec 7) (b : BitVec 7)
  /-- BARAW (R140). -/
  | baraw (d : BitVec 7) (a : BitVec 7)
  /-- BARINIT (R140). -/
  | barinit (a : BitVec 7) (b : BitVec 7)
  /-- BARST (R140). -/
  | barst (d : BitVec 7) (a : BitVec 7)
  /-- BAREXP (R140). -/
  | barexp (a : BitVec 7) (b : BitVec 7)
  /-- RGINIT (R182). -/
  | rginit (a : BitVec 7) (b : BitVec 7)
  /-- RGACQ (R182). -/
  | rgacq (d : BitVec 7) (a : BitVec 7) (b : BitVec 7)
  /-- RGPUB (R182). -/
  | rgpub (d : BitVec 7) (a : BitVec 7) (b : BitVec 7)
  /-- RGWAIT (R182). -/
  | rgwait (d : BitVec 7) (a : BitVec 7) (b : BitVec 7)
  /-- RGREL (R182). -/
  | rgrel (d : BitVec 7) (a : BitVec 7) (b : BitVec 7)
  /-- RGSTAT (R182). -/
  | rgstat (d : BitVec 7) (a : BitVec 7)
  /-- CPY (R189). -/
  | cpy (d : BitVec 7) (a : BitVec 7) (b : BitVec 7)
  /-- CPY2 (R189). -/
  | cpy2 (d : BitVec 7) (a : BitVec 7) (b : BitVec 7)
  /-- CPYT (R189). -/
  | cpyt (d : BitVec 7) (a : BitVec 7) (b : BitVec 7)
  /-- CPYG (R189). -/
  | cpyg (d : BitVec 7) (a : BitVec 7) (b : BitVec 7)
  /-- CPYS (R189). -/
  | cpys (d : BitVec 7) (a : BitVec 7) (b : BitVec 7)
  /-- CPYWP (R190). -/
  | cpywp (d : BitVec 7) (a : BitVec 7)
  /-- CPYWT (R190). -/
  | cpywt (d : BitVec 7) (a : BitVec 7) (b : BitVec 7)
  /-- CPYST (R190). -/
  | cpyst (d : BitVec 7) (a : BitVec 7) (b : BitVec 7)
  /-- MMA (R207). -/
  | mma (d : BitVec 7) (a : BitVec 7) (b : BitVec 7) (n : BitVec 3)
  /-- MLOOP (R210). -/
  | mloop (d : BitVec 7) (n : BitVec 3)
  /-- MZERO (R212). -/
  | mzero (d : BitVec 7) (a : BitVec 7)
  /-- MZERO_REL (R212). -/
  | mzeroRel (d : BitVec 7) (a : BitVec 7)
  /-- MLDA (R213). -/
  | mlda (d : BitVec 7) (a : BitVec 7) (b : BitVec 7)
  /-- MSTA (R213). -/
  | msta (d : BitVec 7) (a : BitVec 7) (b : BitVec 7)
  /-- MAV (R214). -/
  | mav (d : BitVec 7) (a : BitVec 7) (b : BitVec 7)
  /-- MVA (R214). -/
  | mva (d : BitVec 7) (a : BitVec 7) (b : BitVec 7)
  /-- MWAIT (R215). -/
  | mwait (a : BitVec 7)
  /-- MSYNC (R215). -/
  | msync (a : BitVec 7)
  /-- MCFG (R220). -/
  | mcfg (a : BitVec 7)
  /-- MAUD (R220). -/
  | maud (d : BitVec 7) (a : BitVec 7)
  /-- MJOIN (R222). -/
  | mjoin (a : BitVec 7)
  /-- TRAP (R119). -/
  | trap (n : BitVec 7)
  /-- RTT (R114). -/
  | rtt (t : BitVec 1)
  /-- MFS (R120). -/
  | mfs (d : BitVec 7) (a : BitVec 7)
  /-- MTS (R120). -/
  | mts (d : BitVec 7) (a : BitVec 7)
  /-- BKPT (R119). -/
  | bkpt (n : BitVec 7)
  /-- WIDF (R121). -/
  | widf (d : BitVec 7) (k : BitVec 7)
  /-- ENDG (R114). -/
  | endg (r : BitVec 1)
  /-- ISSUE_CYCLE (R122): Each cycle the core builds candidates and issues bundles whose pipes are free. -/
  | issueCycle (core : Nat)
  /-- RESULT_WRITE (R31): An outstanding register result lands. -/
  | resultWrite (grp k : Nat) (lanes : Mask)
  /-- RESPONSE_ARRIVE (R163): A response moves from a home to its core. -/
  | responseArrive (k : Nat)
  /-- HOME_PERFORM (R163): A home performs one arrived access and marks watchers invalidated. -/
  | homePerform (k : Nat) (ecc : List Nat) (evict : List (Nat × Nat))
  /-- L1_WRITE_BACK (R163): The L1 moves dirty bytes towards their home. -/
  | l1WriteBack (core k : Nat) (bytes : BitVec 128)
  /-- REFRESH_REQUEUE_TIMER (R238): The channel re-queues the request after 32 x h ns. -/
  | refreshRequeueTimer (k : Nat)
  /-- REQUEST_DELIVER (R163): The head entry of a request queue moves to its home. -/
  | requestDeliver (k : Nat)
  /-- ISSUE_QUEUE_LEAVE (R162): An access entry leaves the issue queue once nothing holds it back. -/
  | issueQueueLeave (grp k : Nat)
  /-- FENCE_COMPLETE (R165): A fence's parts complete after acknowledgements arrive. -/
  | fenceComplete (grp : Nat)
  /-- FAULT_SERVICE_MAP (R229): Firmware makes a mapping and the faulting lanes are replayed. -/
  | faultServiceMap (grp : Nat) (m : FaultMap)
  /-- FAULT_SERVICE_DECLINE (R229): Firmware declines and the lanes raise PFNP or PFWP. -/
  | faultServiceDecline (grp k : Nat)
  /-- DEFERRED_FAULT_RETURN (R103): A store completion returns with a fault, raising a class D trap. -/
  | deferredFaultReturn (grp : Nat)
  /-- TRAP_DELIVER (R102): After the wait, the group records trap state and delivers the cause. -/
  | trapDeliver (grp : Nat)
  /-- TRY_CONFLICT_ABORT (R152): A conflict reaching a group-mode region aborts it after the wait. -/
  | tryConflictAbort (grp : Nat)
  /-- HANG_LIMIT_EXPIRY (R123): A slot's hang clock passes the hang limit and raises HANG. -/
  | hangLimitExpiry (grp : Nat) (slotB : Bool)
  /-- MATRIX_STEP (R205): The matrix engine performs one step of an admitted stream head. -/
  | matrixStep (core k : Nat) (cached : Bool)
  /-- COPY_CARD_ADMIT (R169): The footprint scheduler admits a card, taking ring slots. -/
  | copyCardAdmit (cl ch : Nat)
  /-- CHANNEL_ALLOWANCE_CHARGE (R314): A channel charges further units once allowance suffices. -/
  | channelAllowanceCharge (cl ch : Nat)
  /-- COPY_CARD_FAULT (R193): A card faults in delivery and halts its channel. -/
  | copyCardFault (cl ch : Nat)
  /-- COPY_DELIVERY_WRITE (R185): A card write is performed and WP and barrier TX advance. -/
  | copyDeliveryWrite (cl : Nat) (m : CardMove)
  /-- COPY_CARD_COMPLETE (R188): A card signals its barrier, counter or write pointer. -/
  | copyCardComplete (cl ch : Nat)
  /-- CARD_QUOTA_RESUME (R185): A fired card waiting for the context quota proceeds. -/
  | cardQuotaResume (cl ch : Nat)
  /-- WORKGROUP_END (R173): A work-group's global bytes are acknowledged and its slots freed. -/
  | workgroupEnd (wg : Nat)
  /-- WORKGROUP_SAVE (R281): A work-group is stopped, drained and written to a save image. -/
  | workgroupSave (wg : Nat) (image : Dword)
  /-- LAUNCH_TAKE (R268): The device takes a launch record and pushes a range record. -/
  | launchTake (ctx : Nat)
  /-- PANTRY_TAKE (R272): A core takes and splits a pantry record once resources fit. -/
  | pantryTake (core : Nat) (place : Placement)
  /-- TIME_SLICE_EXPIRY (R279): A context's resident time reaches TSLICE. -/
  | timeSliceExpiry (core ctx : Nat)
  /-- RET (R99). -/
  | ret
  /-- COMMIT (R156). -/
  | commitTry
  /-- SPFEN (R215). -/
  | spfen
  /-- MLEAVE (R222). -/
  | mleave
  /-- NOP (R117). -/
  | nop
  /-- EXIT (R118). -/
  | exit
  /-- YIELD (R117). -/
  | yield
  /-- REPLAY (R114). -/
  | replay
  /-- EMRET (R114). -/
  | emret
  /-- L1_DROP (R163): The L1 drops a line with no dirty bytes. -/
  | l1Drop (core k : Nat)
  /-- THROUGHPUT_FAULT_TIMEOUT (R229): Service not done 10 us after the fault: the work-group is saved. -/
  | throughputFaultTimeout (grp : Nat) (image : Dword)
  /-- LAUNCH_QUEUE_TAIL_WRITE (R266): Host writes TAIL, making launch records available. -/
  | launchQueueTailWrite (ctx : Nat) (tail : Word)
  /-- STEAL_REQUEST (R273): An idle core sends a steal request to a drawn victim. -/
  | stealRequest (core : Nat)
  /-- STEAL_ANSWER (R273): The victim's queue engine answers with a split tail record or no work. -/
  | stealAnswer (core : Nat) (place : Placement)
  /-- STEAL_RETRY_TIMER (R273): After no work, the thief draws again after 256 ns. -/
  | stealRetryTimer (core : Nat)
  /-- AGING_PERIOD_EXPIRY (R280): A waiting record moves up one level. -/
  | agingPeriodExpiry (core level k : Nat)
  /-- PREEMPT_DRAIN_REQUEST (R283): PREQ 1 moves the context to DRAIN. -/
  | preemptDrainRequest (ctx : Nat)
  /-- PREEMPT_SAVE_REQUEST (R283): PREQ 2 moves the context to SAVE. -/
  | preemptSaveRequest (ctx : Nat)
  /-- PREEMPT_RESUME_REQUEST (R283): PREQ 3 moves a STOPPED context to RUN. -/
  | preemptResumeRequest (ctx : Nat)
  /-- PREEMPT_DEADLINE_EXPIRY (R284): DLINE passes before STOPPED. -/
  | preemptDeadlineExpiry (ctx : Nat)
  /-- COPY_QUEUE_ROOM (R185): A post parked on a full channel queue proceeds. -/
  | copyQueueRoom (grp : Nat) (slotB : Bool)
  /-- RING_PARK_RESUME (R182): A slot parked in RGACQ, RGWAIT or RGINIT proceeds. -/
  | ringParkResume (grp : Nat) (slotB : Bool)
  /-- MATRIX_QUEUE_ROOM (R205): A slot parked on a full matrix queue proceeds. -/
  | matrixQueueRoom (grp : Nat) (slotB : Bool)
  /-- HBM_REFRESH_RETRY (R238): A base die answers a request colliding with refresh with a retry. -/
  | hbmRefreshRetry (k : Nat) (hint : BitVec 4)
  /-- PAGE_FREEZE (R242): Firmware freezes a page for migration. -/
  | pageFreeze (ctx : Nat) (va : Dword)
  /-- PAGE_THAW (R242): Firmware writes the new frame and thaws the page. -/
  | pageThaw (ctx : Nat) (va : Dword) (frame : Nat)
  /-- FROZEN_WRITE_RETRY (R242): A retried write to a frozen page is re-sent every 16 us. -/
  | frozenWriteRetry (k : Nat)
  /-- FROZEN_LIMIT (R242): After 64 retries or 1 ms the lanes raise FROZEN. -/
  | frozenLimit (k : Nat)
  /-- PIN_BACKGROUND_LOAD (R232): Lines of a pinned window are loaded and pinned. -/
  | pinBackgroundLoad (ctx w : Nat) (line : Nat)
  /-- FADE_PERIOD_EXPIRY (R233): Untouched windows lose fade; windows at 0 are released. -/
  | fadePeriodExpiry (ctx : Nat)
  /-- TOKEN_BUCKET_GRANT (R236): A regulated request proceeds once its bucket holds the tokens. -/
  | tokenBucketGrant (ctx cls res bytes : Nat)
  /-- HOST_BAR2_ACCESS (R287): Host read or write through a BAR2 window. -/
  | hostBar2Access (off len : Nat) (wr : Option (List Byte)) (ecc : List Nat)
  /-- HOST_REGISTER_WRITE (R287): Host write of a BAR0 register with no row of its own. -/
  | hostRegisterWrite (off : Nat) (val : Word)
  /-- CSET_WRITE (R274): Host writes a context's core set; an all-zero write is ignored. -/
  | csetWrite (ctx : Nat) (val : BitVec 128)
  /-- SRQ_DOORBELL (R290): Host rings the service request doorbell. -/
  | srqDoorbell (seq : Word)
  /-- CTX_CREATE (R291): Create a context with pools and page table. -/
  | ctxCreate (id root : Nat) (poolVa : Dword) (frames tables : List Nat)
  /-- CTX_DESTROY (R291): Destroy a stopped or killed context. -/
  | ctxDestroy
  /-- MAP (R291): Allocate, zero and map a range. -/
  | mapPages (frames tables : List Nat)
  /-- UNMAP (R291): Unmap and free a range. -/
  | unmapPages
  /-- PROTECT (R291): Set W and X of present pages. -/
  | protectPages
  /-- PEERWIN (R291): Write a peer window entry. -/
  | peerwin
  /-- TRANGE (R291): Write a target range entry. -/
  | trange
  /-- MCRGROUP (R291): Write an MCR group entry on every live plane. -/
  | mcrgroup
  /-- MCRMEMBER (R291): Write this package's member record of a group. -/
  | mcrmember
  /-- EXPORTPA (R291): Return the fabric physical address of an EXPORT page. -/
  | exportpa
  /-- SRQ_UNKNOWN_CODE (R291): An unassigned request code completes with STATUS 1. -/
  | srqUnknownCode
  /-- PCIE_LINK_ERROR (R286): Uncorrectable link error or link down posts HOSTERR. -/
  | pcieLinkError
  /-- PCIE_LINK_RETRAIN (R286): Link retrains and pending MSI-X messages are sent. -/
  | pcieLinkRetrain
  /-- POWER_UP_BOOT (R292): Boot stages are verified, measured and run. -/
  | powerUpBoot (b : BootInput)
  /-- MEASUREMENT_EXTEND (R292): Firmware extends a run-time measurement register. -/
  | measurementExtend (r : Nat) (d : BitVec 512)
  /-- GET_VERSION (R294): SPDM version request. -/
  | getVersion
  /-- GET_CAPABILITIES (R294): SPDM capabilities request. -/
  | getCapabilities
  /-- NEGOTIATE_ALGORITHMS (R294): SPDM algorithm negotiation. -/
  | negotiateAlgorithms
  /-- GET_DIGESTS (R294): SPDM certificate digests request. -/
  | getDigests
  /-- GET_CERTIFICATE (R294): SPDM certificate request. -/
  | getCertificate
  /-- CHALLENGE (R294): SPDM challenge, signed with a committed one-time index. -/
  | challenge (nonce : BitVec 256)
  /-- GET_MEASUREMENTS (R294): SPDM measurement report, signed. -/
  | getMeasurements (nonce : BitVec 256)
  /-- SPDM_UNSUPPORTED_REQUEST (R294): Session and key-exchange requests answered UnsupportedRequest. -/
  | spdmUnsupportedRequest
  /-- TAMPER_MESH_BREACH (R295): Tamper mesh breach raises the security alarm. -/
  | tamperMeshBreach
  /-- VOLTAGE_CLOCK_GLITCH (R295): A voltage or clock glitch raises the security alarm. -/
  | voltageClockGlitch
  /-- ISLAND_CLOCK_STOP (R296): Firmware stops an idle core island's clock. -/
  | islandClockStop (island : Nat)
  /-- ISLAND_CLOCK_START (R296): Firmware starts a core island's clock. -/
  | islandClockStart (island : Nat)
  /-- ISLAND_VOLTAGE_SET (R296): Firmware sets an island's supply voltage. -/
  | islandVoltageSet (island mv : Nat)
  /-- ISSUE_CYCLE_WITHHOLD (R296): Firmware withholds issue cycles over design power. -/
  | issueCycleWithhold (island : Nat)
  /-- CLUSTER_FAILURE (R297): A failed cluster is replaced by the spare; its work-groups end LOSTWG. -/
  | clusterFailure (die clus : Nat)
  /-- HBM_FAILURE (R297): A failed HBM row or channel is spared or remapped. -/
  | hbmFailure (stack chan row : Nat)
  /-- SERDES_LANE_FAILURE (R297): A failed SerDes lane is replaced by a spare. -/
  | serdesLaneFailure (port lane : Nat)
  /-- PACKAGE_FAILURE (R297): A failed package is replaced by the standby at the switch; `standby` is 0 while the standby has
  not taken the identifier yet (R305). -/
  | packageFailure (dev standby : Nat)
  /-- SERVICE_CORE_FAILURE (R285): A failed service core's duties pass to others and MGMT is reported. -/
  | serviceCoreFailure (cl core : Nat)
  /-- EVICTION_PREPARE (R298): EVICT posted and every context enters SAVE. -/
  | evictionPrepare (neighbour standby : Nat)
  /-- EVICTION_COPY (R298): Context state is streamed to the neighbour. -/
  | evictionCopy
  /-- EVICTION_DRAIN (R298): Planes remove the package and the standby takes its identifier. -/
  | evictionDrain
  /-- EVICTION_RELEASE (R298): LATCH_OK rises and the eviction record is written. -/
  | evictionRelease (time : Dword)
  /-- EVICTION_TIMEOUT (R298): The handshake has not completed within 30 s. -/
  | evictionTimeout (time : Dword)
  /-- MGMT_REQUEST (R299): A management request posts MGMT to a context. -/
  | mgmtRequest (ctx : Nat)
  /-- IDENTITY_EEPROM_READ (R299): A read of the identity EEPROM over I2C. -/
  | identityEepromRead (addr : BitVec 8)
  /-- PLANE_LOSS (R301): A plane is taken out of the live list and outstanding packets resent. -/
  | planeLoss (plane : Nat)
  /-- PLANE_RETURN (R301): A retrained plane rejoins the live list. -/
  | planeReturn (plane : Nat)
  /-- LINK_KEY_EXCHANGE (R302): Link training agrees an authenticated key. -/
  | linkKeyExchange (plane : Nat) (key : BitVec 256) (authOk : Bool)
  /-- LINK_REKEY (R302): A new link key is agreed every 2^40 flits. -/
  | linkRekey (plane : Nat) (key : BitVec 256)
  /-- LINK_FRAME_RECEIVE (R302): A frame arrives; a bad tag discards it for link resend. -/
  | linkFrameReceive (plane : Nat) (f : Frame)
  /-- REQUEST_PACKET_ARRIVE (R312): A request packet arrives at the target, is checked and performed once. -/
  | requestPacketArrive (p : Packet)
  /-- CARD_FIRE_QUEUE_ROOM (R318): A fired card waiting for a full channel queue is posted. -/
  | cardFireQueueRoom (cl ch : Nat)
  /-- SWITCH_ROUTE_REFUSAL (R305): A switch refuses a packet for an unrouted device. -/
  | switchRouteRefusal (k : Nat)
  /-- SWITCH_MCR_PACKET (R326): The switch reads or writes every member for an XMLR or XMST packet. -/
  | switchMcrPacket (t : McrTurn)
  /-- REPLY_ARRIVE (R314): A reply returns to the source, adjusting OUT, CAP and WP. -/
  | replyArrive (k : Nat) (r : Reply)
  /-- SWITCH_QUEUE_TIMEOUT (R313): A 100 us head timer expires and the head packet is dropped. -/
  | switchQueueTimeout (k : Nat)
  /-- DROP_NOTICE_ARRIVE (R313): A drop notice reaches the source; the eighth completes XTMO. -/
  | dropNoticeArrive (k : Nat)
  /-- DROP_RESEND_TIMER (R313): A dropped packet is resent after 2^k us. -/
  | dropResendTimer (k : Nat)
  /-- ALLOWANCE_WAIT_END (R316): A slot in allowance wait has its card charged and posted. -/
  | allowanceWaitEnd (grp : Nat) (slotB : Bool)
  /-- ALWDL_TIMEOUT (R316): An allowance wait exceeds 2^WL us and raises ALWDL. -/
  | alwdlTimeout (grp : Nat) (slotB : Bool)
  /-- COLL_ENTRY_STEP (R337): Inputs at XIN are entered into partials at SOFF. -/
  | collEntryStep (ctx k : Nat)
  /-- OPENING_RENDEZVOUS (R335): All members have arrived with digests; the steps begin or fail. -/
  | openingRendezvous (ctx k : Nat) (others : List MemberState)
  /-- COLL_CARD_STEP (R336): A sequencer XMLR or XMST step completes and the next is posted. -/
  | collCardStep (ctx k : Nat) (turns : List Turn)
  /-- CLOSING_RENDEZVOUS (R335): Every member's steps done; status written and COMPL signalled. -/
  | closingRendezvous (ctx k : Nat) (gone : List Nat)
  /-- ENGINE_LOST (R115): An engine is lost and ENGDEAD (class A, delivery Q) ends the work-groups that depend on it. -/
  | engineLost (e : EngineRef)
  deriving DecidableEq, Repr

/-- A decoded word: its chain bit C, its sync marker S, its instruction, its bits (R26). -/
structure DWord where
  c : Bool
  s : Bool
  instr : Instr
  raw : Word
  deriving DecidableEq, Repr

end Sys2Proof
end

