-- ==== Sys2Proof/Machine/Kinds.lean ====
section
/-! DEFINITION. Bit fields, and the kinds of the operand fields of every instruction word (R34), from each entry's
encoding row. What a kind forbids is what R17, R34, R35 and the entries say: ILLOP for a value outside the kind,
ILLRM for rounding 7, ILLTRI for a triple above 14. Event rows have no fields. -/

namespace Sys2Proof

/-- Bits `lo + n - 1` down to `lo` of a number. -/
def fld (w lo n : Nat) : Nat := w / 2 ^ lo % 2 ^ n

/-- Kinds of R34, and the further ones that entries name. -/
inductive Opnd where
  /-- Vector register. -/
  | v (n : Nat)
  /-- Vector pair. -/
  | vp (n : Nat)
  /-- Vector quad. -/
  | vq (n : Nat)
  /-- Partial of R92. -/
  | part (n : Nat)
  /-- Scalar. -/
  | s (n : Nat)
  /-- Scalar or constant; it forbids nothing. -/
  | sc (n : Nat)
  /-- Scalar or constant in a pair position (R34, R83). -/
  | scp (n : Nat)
  /-- Scalar pair. -/
  | sp (n : Nat)
  /-- Lane-mask triple. -/
  | q (n : Nat)
  /-- Rounding field. -/
  | rm (r : Rm)
  /-- A number from `lo` to `hi`. -/
  | num (n lo hi : Nat)
  /-- Eight scalars from a multiple of 8 up to `hi` (R186, R209). -/
  | card (n hi : Nat)
  /-- Four scalars from a multiple of 4 up to `hi` (R182). -/
  | mul4 (n hi : Nat)
  /-- A combination of fields that the entry refuses with ILLOP. -/
  | bad
  deriving DecidableEq, Repr

/-- The operand breaks its kind with ILLOP. -/
def Opnd.illop : Opnd → Bool
  | .vp n => n % 2 ≠ 0
  | .vq n => n % 4 ≠ 0
  | .part n => 125 < n
  | .s n => 63 < n
  | .scp n => n < 64 && n % 2 ≠ 0
  | .sp n => n % 2 ≠ 0 || 62 < n
  | .num n lo hi => n < lo || hi < n
  | .card n hi => n % 8 ≠ 0 || hi < n
  | .mul4 n hi => n % 4 ≠ 0 || hi < n
  | .bad => true
  | _ => false

/-- The operand is the illegal rounding value. -/
def Opnd.illrm : Opnd → Bool
  | .rm r => r = .illegal
  | _ => false

/-- The operand is a triple above 14. -/
def Opnd.illtri : Opnd → Bool
  | .q n => 14 < n
  | _ => false

/-- Vector registers that an operand names, from the first to one past the last (R16). -/
def Opnd.vregs : Opnd → Option (Nat × Nat)
  | .v n => some (n, n + 1)
  | .vp n => some (n, n + 2)
  | .vq n => some (n, n + 4)
  | .part n => some (n, n + 3)
  | _ => none

/-- The scalar registers that an operand names, as a range. -/
def Opnd.sregs : Opnd → Option (Nat × Nat)
  | .s n => some (n, n + 1)
  | .sc n => if n < 64 then some (n, n + 1) else none
  | .scp n => if n < 64 then some (n, n + 2) else none
  | .sp n => some (n, n + 2)
  | .q n => some (4 * n, 4 * n + 3)
  | .card n _ => some (n, n + 8)
  | .mul4 n _ => some (n, n + 4)
  | _ => none

/-- Size of an access in bytes (R38); 0 for the illegal code. -/
def Size.bytes : Size → Nat
  | .n8 => 1 | .i8 => 1 | .n16 => 2 | .i16 => 2 | .b32 => 4 | .b64 => 8 | .b128 => 16 | .illegal => 0

/-- Data register of LD and ST by size (R38). -/
def Size.vdata (z : Size) (d : Nat) : Opnd :=
  match z with
  | .b64 => .vp d | .b128 => .vq d | .illegal => .bad | _ => .v d

/-- Data register of LDS and STS by size; b128 is refused (R132). -/
def Size.sdata (z : Size) (d : Nat) : Opnd :=
  match z with
  | .b64 => .sp d | .b128 => .bad | .illegal => .bad | _ => .s d

/-- Address register of LD, ST and RED by space (R38). -/
def Space.vaddr (p : Space) (a : Nat) : Opnd :=
  match p with
  | .glob => .vp a | _ => .v a

/-- Address register of LDS and STS by space; the private space is refused (R132). -/
def Space.saddr (p : Space) (a : Nat) : Opnd :=
  match p with
  | .glob => .sp a | .priv => .bad | _ => .s a

/-- ST and STS refuse the signed sizes (R132). -/
def Size.stored (z : Size) : List Opnd :=
  match z with
  | .i8 => [.bad] | .i16 => [.bad] | _ => []

/-- Operand fields of an instruction word with their kinds. -/
def Instr.opnds : Instr → List Opnd
  | .iadd d a b => [.v d.toNat, .v a.toNat, .v b.toNat]
  | .isub d a b => [.v d.toNat, .v a.toNat, .v b.toNat]
  | .imul d a b => [.v d.toNat, .v a.toNat, .v b.toNat]
  | .imulh d a b => [.v d.toNat, .v a.toNat, .v b.toNat]
  | .imulhn d a b => [.v d.toNat, .v a.toNat, .v b.toNat]
  | .imin d a b => [.v d.toNat, .v a.toNat, .v b.toNat]
  | .imax d a b => [.v d.toNat, .v a.toNat, .v b.toNat]
  | .iabsd d a b => [.v d.toNat, .v a.toNat, .v b.toNat]
  | .and d a b => [.v d.toNat, .v a.toNat, .v b.toNat]
  | .or d a b => [.v d.toNat, .v a.toNat, .v b.toNat]
  | .xor d a b => [.v d.toNat, .v a.toNat, .v b.toNat]
  | .andn d a b => [.v d.toNat, .v a.toNat, .v b.toNat]
  | .shl d a b => [.v d.toNat, .v a.toNat, .v b.toNat]
  | .shr d a b => [.v d.toNat, .v a.toNat, .v b.toNat]
  | .sar d a b => [.v d.toNat, .v a.toNat, .v b.toNat]
  | .rotl d a b => [.v d.toNat, .v a.toNat, .v b.toNat]
  | .iminn d a b => [.v d.toNat, .v a.toNat, .v b.toNat]
  | .imaxn d a b => [.v d.toNat, .v a.toNat, .v b.toNat]
  | .popc d a => [.v d.toNat, .v a.toNat]
  | .clz d a => [.v d.toNat, .v a.toNat]
  | .brev d a => [.v d.toNat, .v a.toNat]
  | .bfx d a b => [.v d.toNat, .v a.toNat, .v b.toNat]
  | .bfi d a b => [.v d.toNat, .v a.toNat, .v b.toNat]
  | .prmt d a b => [.v d.toNat, .v a.toNat, .v b.toNat]
  | .iaddi d a _ => [.v d.toNat, .v a.toNat]
  | .andi d a _ => [.v d.toNat, .v a.toNat]
  | .ori d a _ => [.v d.toNat, .v a.toNat]
  | .xori d a _ => [.v d.toNat, .v a.toNat]
  | .shli d a _ => [.v d.toNat, .v a.toNat]
  | .shri d a _ => [.v d.toNat, .v a.toNat]
  | .sari d a _ => [.v d.toNat, .v a.toNat]
  | .imuli d a _ => [.v d.toNat, .v a.toNat]
  | .icmp d a b _ => [.q d.toNat, .v a.toNat, .v b.toNat]
  | .sel d a b q => [.v d.toNat, .v a.toNat, .v b.toNat, .q q.toNat]
  | .mov d a => [.v d.toNat, .v a.toNat]
  | .vbc d a => [.v d.toNat, .sc a.toNat]
  | .vtos d a n => [.s d.toNat, .v a.toNat, .num n.toNat 0 95]
  | .lane d => [.v d.toNat]
  | .shfl d a b => [.v d.toNat, .v a.toNat, .v b.toNat]
  | .shflx d a b => [.v d.toNat, .v a.toNat, .sc b.toNat]
  | .shflup d a b => [.v d.toNat, .v a.toNat, .sc b.toNat]
  | .shfldn d a b => [.v d.toNat, .v a.toNat, .sc b.toNat]
  | .redadd d a => [.s d.toNat, .v a.toNat]
  | .redmin d a => [.s d.toNat, .v a.toNat]
  | .redmax d a => [.s d.toNat, .v a.toNat]
  | .redor d a => [.s d.toNat, .v a.toNat]
  | .scanadd d a => [.v d.toNat, .v a.toNat]
  | .scanaddx d a => [.v d.toNat, .v a.toNat]
  | .matchLead d a => [.v d.toNat, .v a.toNat]
  | .matchCount d a => [.v d.toNat, .v a.toNat]
  | .sadd d a b => [.s d.toNat, .sc a.toNat, .sc b.toNat]
  | .ssub d a b => [.s d.toNat, .sc a.toNat, .sc b.toNat]
  | .smul d a b => [.s d.toNat, .sc a.toNat, .sc b.toNat]
  | .sand d a b => [.s d.toNat, .sc a.toNat, .sc b.toNat]
  | .sor d a b => [.s d.toNat, .sc a.toNat, .sc b.toNat]
  | .sxor d a b => [.s d.toNat, .sc a.toNat, .sc b.toNat]
  | .sshl d a b => [.s d.toNat, .sc a.toNat, .sc b.toNat]
  | .sshr d a b => [.s d.toNat, .sc a.toNat, .sc b.toNat]
  | .saddi d a _ => [.s d.toNat, .sc a.toNat]
  | .sandi d a _ => [.s d.toNat, .sc a.toNat]
  | .sori d a _ => [.s d.toNat, .sc a.toNat]
  | .sshli d a _ => [.s d.toNat, .sc a.toNat]
  | .scmp d a b _ => [.s d.toNat, .sc a.toNat, .sc b.toNat]
  | .sadd64 d a b => [.sp d.toNat, .scp a.toNat, .scp b.toNat]
  | .ssub64 d a b => [.sp d.toNat, .scp a.toNat, .scp b.toNat]
  | .iadd64 d a b => [.vp d.toNat, .vp a.toNat, .vp b.toNat]
  | .isub64 d a b => [.vp d.toNat, .vp a.toNat, .vp b.toNat]
  | .isext d a => [.vp d.toNat, .v a.toNat]
  | .izext d a => [.vp d.toNat, .v a.toNat]
  | .imulw d a b => [.vp d.toNat, .v a.toNat, .v b.toNat]
  | .imulwn d a b => [.vp d.toNat, .v a.toNat, .v b.toNat]
  | .mand d a b => [.q d.toNat, .q a.toNat, .q b.toNat]
  | .mor d a b => [.q d.toNat, .q a.toNat, .q b.toNat]
  | .mxor d a b => [.q d.toNat, .q a.toNat, .q b.toNat]
  | .mandn d a b => [.q d.toNat, .q a.toNat, .q b.toNat]
  | .mnot d a => [.q d.toNat, .q a.toNat]
  | .mpopc d a => [.s d.toNat, .q a.toNat]
  | .mffs d a => [.s d.toNat, .q a.toNat]
  | .mseta d => [.q d.toNat]
  | .fadd d a b r => [.v d.toNat, .v a.toNat, .v b.toNat, .rm r]
  | .fsub d a b r => [.v d.toNat, .v a.toNat, .v b.toNat, .rm r]
  | .fmul d a b r => [.v d.toNat, .v a.toNat, .v b.toNat, .rm r]
  | .fmac d a b r => [.v d.toNat, .v a.toNat, .v b.toNat, .rm r]
  | .fma d a b e => [.v d.toNat, .v a.toNat, .v b.toNat, .v e.toNat]
  | .fmin d a b => [.v d.toNat, .v a.toNat, .v b.toNat]
  | .fmax d a b => [.v d.toNat, .v a.toNat, .v b.toNat]
  | .fminm d a b => [.v d.toNat, .v a.toNat, .v b.toNat]
  | .fmaxm d a b => [.v d.toNat, .v a.toNat, .v b.toNat]
  | .fabs d a => [.v d.toNat, .v a.toNat]
  | .fneg d a => [.v d.toNat, .v a.toNat]
  | .fcpsgn d a b => [.v d.toNat, .v a.toNat, .v b.toNat]
  | .fclass d a => [.v d.toNat, .v a.toNat]
  | .fcmp d a b _ => [.q d.toNat, .v a.toNat, .v b.toNat]
  | .fcvt d a t _ r => [.v d.toNat, .v a.toNat, .num t.toNat 0 12, .rm r]
  | .ex2 d a => [.v d.toNat, .v a.toNat]
  | .lg2 d a => [.v d.toNat, .v a.toNat]
  | .rcp d a => [.v d.toNat, .v a.toNat]
  | .rsq d a => [.v d.toNat, .v a.toNat]
  | .sqrt d a => [.v d.toNat, .v a.toNat]
  | .sin d a => [.v d.toNat, .v a.toNat]
  | .cos d a => [.v d.toNat, .v a.toNat]
  | .tanh d a => [.v d.toNat, .v a.toNat]
  | .hadd2Bf16 d a b => [.v d.toNat, .v a.toNat, .v b.toNat]
  | .hmul2Bf16 d a b => [.v d.toNat, .v a.toNat, .v b.toNat]
  | .hmac2Bf16 d a b => [.v d.toNat, .v a.toNat, .v b.toNat]
  | .hadd2F16 d a b => [.v d.toNat, .v a.toNat, .v b.toNat]
  | .hmul2F16 d a b => [.v d.toNat, .v a.toNat, .v b.toNat]
  | .hmac2F16 d a b => [.v d.toNat, .v a.toNat, .v b.toNat]
  | .hpack d a b => [.v d.toNat, .v a.toNat, .v b.toNat]
  | .fdiv d a b r => [.v d.toNat, .v a.toNat, .v b.toNat, .rm r]
  | .tment d a => [.part d.toNat, .v a.toNat]
  | .tmmrg d a b => [.part d.toNat, .part a.toNat, .part b.toNat]
  | .tmext d a => [.v d.toNat, .part a.toNat]
  | .tmld a k => [.sp a.toNat, .num k.toNat 0 15]
  | .tmred d a => [.part d.toNat, .part a.toNat]
  | .skdef a b => [.sp a.toNat, .sp b.toNat]
  | .skundef a => [.sp a.toNat]
  | .skmerge a b => [.sp a.toNat, .sp b.toNat]
  | .skfold a b => [.sp a.toNat, .sc b.toNat]
  | .skclr a => [.sp a.toNat]
  | .skstat d a => [.sp d.toNat, .sp a.toNat]
  | .sksnap a b => [.sp a.toNat, .sp b.toNat]
  | .skqv d a b => [.vp d.toNat, .sp a.toNat, .v b.toNat]
  | .pin d a b => [.sp d.toNat, .sp a.toNat, .sc b.toNat]
  | .unpin a => [.sc a.toNat]
  | .ptouch a => [.sc a.toNat]
  | .pstat d a => [.sp d.toNat, .sc a.toNat]
  | .spawn a => [.sp a.toNat]
  | .spawnr a => [.sp a.toNat]
  | .jdec a => [.sp a.toNat]
  | .qstat d a => [.sp d.toNat, .sc a.toNat]
  | .frame d a => [.sp d.toNat, .sc a.toNat]
  | .bra _ => []
  | .bz q _ => [.s q.toNat]
  | .bnz q _ => [.s q.toNat]
  | .brm q _ => [.q q.toNat]
  | .bany q _ => [.q q.toNat]
  | .ball q _ => [.q q.toNat]
  | .balw q _ => [.s q.toNat]
  | .bnone q _ => [.q q.toNat]
  | .call _ => []
  | .ret => []
  | .calli a => [.vp a.toNat]
  | .jmpi a => [.scp a.toNat]
  | .calls a => [.scp a.toNat]
  | .reconv _ => []
  | .rep _ _ _ _ _ => []
  | .lit _ => []
  | .xwr d a b => [.s d.toNat, .card a.toNat 48, .sc b.toNat]
  | .xrd d a b => [.s d.toNat, .card a.toNat 48, .sc b.toNat]
  | .xred d a b => [.s d.toNat, .card a.toNat 48, .sc b.toNat]
  | .xatom d a b => [.s d.toNat, .card a.toNat 48, .sc b.toNat]
  | .xmlr d a b => [.s d.toNat, .card a.toNat 48, .sc b.toNat]
  | .xmst d a b => [.s d.toNat, .card a.toNat 48, .sc b.toNat]
  | .xtrig a b => [.card a.toNat 48, .sp b.toNat]
  | .xcnt d a b => [.s d.toNat, .sc a.toNat, .sc b.toNat]
  | .alwr d a => [.s d.toNat, .sc a.toNat]
  | .coll d a => [.s d.toNat, .sp a.toNat]
  | .xwait d a b => [.s d.toNat, .sc a.toNat, .sc b.toNat]
  | .xstat d a b => [.sp d.toNat, .sc a.toNat, .sc b.toNat]
  | .ld d a p z _ => [z.vdata d.toNat, p.vaddr a.toNat]
  | .st d a p z _ => [z.vdata d.toNat, p.vaddr a.toNat] ++ z.stored
  | .lds d a p z _ => [z.sdata d.toNat, p.saddr a.toNat]
  | .sts d a p z _ => [z.sdata d.toNat, p.saddr a.toNat] ++ z.stored
  | .atom d a b o => [.v d.toNat, .v a.toNat, if o = .cas then .vp b.toNat else .v b.toNat]
  | .atomc d a b o => [.v d.toNat, .v a.toNat, if o = .cas then .vp b.toNat else .v b.toNat]
  | .atomg d a b o => [.v d.toNat, .vp a.toNat, if o = .cas then .vp b.toNat else .v b.toNat]
  | .atomx d a b o => match o with
    | .add64 => [.vp d.toNat, .vp a.toNat, .vp b.toNat]
    | .min64 => [.vp d.toNat, .vp a.toNat, .vp b.toNat]
    | .max64 => [.vp d.toNat, .vp a.toNat, .vp b.toNat]
    | .cas64 => [.vp d.toNat, .vp a.toNat, .vq b.toNat]
    | _ => [.v d.toNat, .vp a.toNat, .v b.toNat]
  | .red p a b o => (if p = .priv then [.bad] else []) ++
    [p.vaddr a.toNat, if o = .add64 then .vp b.toNat else .v b.toNat]
  | .cclean _ a b => [.sp a.toNat, .sc b.toNat]
  | .cinv _ a b => [.sp a.toNat, .sc b.toNat]
  | .cflush _ a b => [.sp a.toNat, .sc b.toNat]
  | .pref _ a b => [.sp a.toNat, .sc b.toNat]
  | .fence k _ p => (if k = .illegal ∨ p = .illegal6 ∨ p = .illegal7 then [.bad] else [])
  | .tryBegin _ _ => []
  | .commitTry => []
  | .abortTry a => [.sc a.toNat]
  | .tstat d => [.q d.toNat]
  | .tdepth d => [.s d.toNat]
  | .bararv d a => [.s d.toNat, .sc a.toNat]
  | .barwt d a b => [.s d.toNat, .sc a.toNat, .sc b.toNat]
  | .baraw d a => [.s d.toNat, .sc a.toNat]
  | .barinit a b => [.sc a.toNat, .sc b.toNat]
  | .barst d a => [.sp d.toNat, .sc a.toNat]
  | .barexp a b => [.sc a.toNat, .sc b.toNat]
  | .rginit a b => [.sc a.toNat, .sp b.toNat]
  | .rgacq d a b => [.sp d.toNat, .sc a.toNat, .sc b.toNat]
  | .rgpub d a b => [.num d.toNat 1 64, .sc a.toNat, .sc b.toNat]
  | .rgwait d a b => [.sp d.toNat, .sc a.toNat, .sc b.toNat]
  | .rgrel d a b => [.num d.toNat 1 64, .sc a.toNat, .sc b.toNat]
  | .rgstat d a => [.mul4 d.toNat 60, .sc a.toNat]
  | .cpy d a b => [.s d.toNat, .card a.toNat 48, .sc b.toNat]
  | .cpy2 d a b => [.s d.toNat, .card a.toNat 48, .sc b.toNat]
  | .cpyt d a b => [.s d.toNat, .card a.toNat 48, .sc b.toNat]
  | .cpyg d a b => [.s d.toNat, .card a.toNat 48, .sc b.toNat]
  | .cpys d a b => [.s d.toNat, .card a.toNat 48, .sc b.toNat]
  | .cpywp d a => [.s d.toNat, .sc a.toNat]
  | .cpywt d a b => [.s d.toNat, .sc a.toNat, .sc b.toNat]
  | .cpyst d a b => [.s d.toNat, .sc a.toNat, .sc b.toNat]
  | .mma d _ _ _ => [.s d.toNat]
  | .mloop d _ => [.card d.toNat 56]
  | .mzero d a => [.num d.toNat 0 7, .sc a.toNat]
  | .mzeroRel d a => [.num d.toNat 0 7, .sc a.toNat]
  | .mlda d a b => [.num d.toNat 0 7, .sc a.toNat, .sc b.toNat]
  | .msta d a b => [.num d.toNat 0 7, .sc a.toNat, .sc b.toNat]
  | .mav d a b => [.v d.toNat, .sc a.toNat, .num b.toNat 0 7]
  | .mva d a b => [.num d.toNat 0 7, .v a.toNat, .sc b.toNat]
  | .mwait a => [.sc a.toNat]
  | .msync a => [.sc a.toNat]
  | .spfen => []
  | .mcfg a => [.sc a.toNat]
  | .maud d a => [.s d.toNat, .sc a.toNat]
  | .mjoin a => [.sc a.toNat]
  | .mleave => []
  | .nop => []
  | .exit => []
  | .trap _ => []
  | .rtt _ => []
  | .mfs _ _ => []
  | .mts _ _ => []
  | .yield => []
  | .bkpt _ => []
  | .widf d k => [.v d.toNat, .num k.toNat 0 5]
  | .replay => []
  | .endg _ => []
  | .emret => []
  | .issueCycle ..
  | .resultWrite ..
  | .trapDeliver ..
  | .hangLimitExpiry ..
  | .deferredFaultReturn ..
  | .issueQueueLeave ..
  | .requestDeliver ..
  | .homePerform ..
  | .responseArrive ..
  | .l1WriteBack ..
  | .l1Drop ..
  | .fenceComplete ..
  | .tryConflictAbort ..
  | .faultServiceMap ..
  | .faultServiceDecline ..
  | .throughputFaultTimeout ..
  | .workgroupSave ..
  | .workgroupEnd ..
  | .launchQueueTailWrite ..
  | .launchTake ..
  | .pantryTake ..
  | .stealRequest ..
  | .stealAnswer ..
  | .stealRetryTimer ..
  | .timeSliceExpiry ..
  | .agingPeriodExpiry ..
  | .preemptDrainRequest ..
  | .preemptSaveRequest ..
  | .preemptResumeRequest ..
  | .preemptDeadlineExpiry ..
  | .copyCardAdmit ..
  | .copyDeliveryWrite ..
  | .copyCardComplete ..
  | .copyCardFault ..
  | .copyQueueRoom ..
  | .cardQuotaResume ..
  | .ringParkResume ..
  | .matrixStep ..
  | .matrixQueueRoom ..
  | .hbmRefreshRetry ..
  | .refreshRequeueTimer ..
  | .pageFreeze ..
  | .pageThaw ..
  | .frozenWriteRetry ..
  | .frozenLimit ..
  | .pinBackgroundLoad ..
  | .fadePeriodExpiry ..
  | .tokenBucketGrant ..
  | .hostBar2Access ..
  | .hostRegisterWrite ..
  | .csetWrite ..
  | .srqDoorbell ..
  | .ctxCreate ..
  | .ctxDestroy ..
  | .mapPages ..
  | .unmapPages ..
  | .protectPages ..
  | .peerwin ..
  | .trange ..
  | .mcrgroup ..
  | .mcrmember ..
  | .exportpa ..
  | .srqUnknownCode ..
  | .pcieLinkError ..
  | .pcieLinkRetrain ..
  | .powerUpBoot ..
  | .measurementExtend ..
  | .getVersion ..
  | .getCapabilities ..
  | .negotiateAlgorithms ..
  | .getDigests ..
  | .getCertificate ..
  | .challenge ..
  | .getMeasurements ..
  | .spdmUnsupportedRequest ..
  | .tamperMeshBreach ..
  | .voltageClockGlitch ..
  | .islandClockStop ..
  | .islandClockStart ..
  | .islandVoltageSet ..
  | .issueCycleWithhold ..
  | .clusterFailure ..
  | .hbmFailure ..
  | .serdesLaneFailure ..
  | .packageFailure ..
  | .serviceCoreFailure ..
  | .evictionPrepare ..
  | .evictionCopy ..
  | .evictionDrain ..
  | .evictionRelease ..
  | .evictionTimeout ..
  | .mgmtRequest ..
  | .identityEepromRead ..
  | .planeLoss ..
  | .planeReturn ..
  | .linkKeyExchange ..
  | .linkRekey ..
  | .linkFrameReceive ..
  | .requestPacketArrive ..
  | .cardFireQueueRoom ..
  | .switchRouteRefusal ..
  | .switchMcrPacket ..
  | .replyArrive ..
  | .switchQueueTimeout ..
  | .dropNoticeArrive ..
  | .dropResendTimer ..
  | .channelAllowanceCharge ..
  | .allowanceWaitEnd ..
  | .alwdlTimeout ..
  | .collEntryStep ..
  | .openingRendezvous ..
  | .collCardStep ..
  | .closingRendezvous ..
  | .engineLost .. => []

/-- The encoding an operand breaks, by the order of R43: ILLOP (0x00), ILLRM (0x02), ILLTRI (0x04). (DEDUCED, log 88) -/
def Instr.kindCause (i : Instr) : Option (BitVec 7) :=
  if i.opnds.any Opnd.illop then some 0x00
  else if i.opnds.any Opnd.illrm then some 0x02
  else if i.opnds.any Opnd.illtri then some 0x04
  else none

end Sys2Proof
end

