-- ==== Sys2Proof/WellFormed.lean ====
section
/-! DEFINITION. When an instruction, as syntax, is well formed: it is an instruction word and its operand fields keep
the kinds of R34 and the ranges of its entry. The fields whose legality depends on the running group (budgets,
privilege, the special register's kind, a long immediate) are checked at issue, in Machine/Issue.lean. -/

namespace Sys2Proof

/-- The instruction is one of the 226 words, not an event row. -/
def Instr.isWord : Instr → Bool
  | .issueCycle ..
  | .resultWrite ..
  | .trapDeliver ..
  | .hangLimitExpiry ..
  | .deferredFaultReturn ..
  | .issueQueueLeave ..
  | .requestDeliver ..
  | .homePerform ..
  | .responseArrive ..
  | .l1WriteBack ..
  | .l1Drop ..
  | .fenceComplete ..
  | .tryConflictAbort ..
  | .faultServiceMap ..
  | .faultServiceDecline ..
  | .throughputFaultTimeout ..
  | .workgroupSave ..
  | .workgroupEnd ..
  | .launchQueueTailWrite ..
  | .launchTake ..
  | .pantryTake ..
  | .stealRequest ..
  | .stealAnswer ..
  | .stealRetryTimer ..
  | .timeSliceExpiry ..
  | .agingPeriodExpiry ..
  | .preemptDrainRequest ..
  | .preemptSaveRequest ..
  | .preemptResumeRequest ..
  | .preemptDeadlineExpiry ..
  | .copyCardAdmit ..
  | .copyDeliveryWrite ..
  | .copyCardComplete ..
  | .copyCardFault ..
  | .copyQueueRoom ..
  | .cardQuotaResume ..
  | .ringParkResume ..
  | .matrixStep ..
  | .matrixQueueRoom ..
  | .hbmRefreshRetry ..
  | .refreshRequeueTimer ..
  | .pageFreeze ..
  | .pageThaw ..
  | .frozenWriteRetry ..
  | .frozenLimit ..
  | .pinBackgroundLoad ..
  | .fadePeriodExpiry ..
  | .tokenBucketGrant ..
  | .hostBar2Access ..
  | .hostRegisterWrite ..
  | .csetWrite ..
  | .srqDoorbell ..
  | .ctxCreate ..
  | .ctxDestroy ..
  | .mapPages ..
  | .unmapPages ..
  | .protectPages ..
  | .peerwin ..
  | .trange ..
  | .mcrgroup ..
  | .mcrmember ..
  | .exportpa ..
  | .srqUnknownCode ..
  | .pcieLinkError ..
  | .pcieLinkRetrain ..
  | .powerUpBoot ..
  | .measurementExtend ..
  | .getVersion ..
  | .getCapabilities ..
  | .negotiateAlgorithms ..
  | .getDigests ..
  | .getCertificate ..
  | .challenge ..
  | .getMeasurements ..
  | .spdmUnsupportedRequest ..
  | .tamperMeshBreach ..
  | .voltageClockGlitch ..
  | .islandClockStop ..
  | .islandClockStart ..
  | .islandVoltageSet ..
  | .issueCycleWithhold ..
  | .clusterFailure ..
  | .hbmFailure ..
  | .serdesLaneFailure ..
  | .packageFailure ..
  | .serviceCoreFailure ..
  | .evictionPrepare ..
  | .evictionCopy ..
  | .evictionDrain ..
  | .evictionRelease ..
  | .evictionTimeout ..
  | .mgmtRequest ..
  | .identityEepromRead ..
  | .planeLoss ..
  | .planeReturn ..
  | .linkKeyExchange ..
  | .linkRekey ..
  | .linkFrameReceive ..
  | .requestPacketArrive ..
  | .cardFireQueueRoom ..
  | .switchRouteRefusal ..
  | .switchMcrPacket ..
  | .replyArrive ..
  | .switchQueueTimeout ..
  | .dropNoticeArrive ..
  | .dropResendTimer ..
  | .channelAllowanceCharge ..
  | .allowanceWaitEnd ..
  | .alwdlTimeout ..
  | .collEntryStep ..
  | .openingRendezvous ..
  | .collCardStep ..
  | .closingRendezvous ..
  | .engineLost .. => false
  | .iadd ..
  | .isub ..
  | .imul ..
  | .imulh ..
  | .imulhn ..
  | .imin ..
  | .imax ..
  | .iabsd ..
  | .and ..
  | .or ..
  | .xor ..
  | .andn ..
  | .shl ..
  | .shr ..
  | .sar ..
  | .rotl ..
  | .iminn ..
  | .imaxn ..
  | .popc ..
  | .clz ..
  | .brev ..
  | .bfx ..
  | .bfi ..
  | .prmt ..
  | .iaddi ..
  | .andi ..
  | .ori ..
  | .xori ..
  | .shli ..
  | .shri ..
  | .sari ..
  | .imuli ..
  | .icmp ..
  | .sel ..
  | .mov ..
  | .vbc ..
  | .vtos ..
  | .lane ..
  | .shfl ..
  | .shflx ..
  | .shflup ..
  | .shfldn ..
  | .redadd ..
  | .redmin ..
  | .redmax ..
  | .redor ..
  | .scanadd ..
  | .scanaddx ..
  | .matchLead ..
  | .matchCount ..
  | .sadd ..
  | .ssub ..
  | .smul ..
  | .sand ..
  | .sor ..
  | .sxor ..
  | .sshl ..
  | .sshr ..
  | .saddi ..
  | .sandi ..
  | .sori ..
  | .sshli ..
  | .scmp ..
  | .sadd64 ..
  | .ssub64 ..
  | .iadd64 ..
  | .isub64 ..
  | .isext ..
  | .izext ..
  | .imulw ..
  | .imulwn ..
  | .mand ..
  | .mor ..
  | .mxor ..
  | .mandn ..
  | .mnot ..
  | .mpopc ..
  | .mffs ..
  | .mseta ..
  | .fadd ..
  | .fsub ..
  | .fmul ..
  | .fmac ..
  | .fma ..
  | .fmin ..
  | .fmax ..
  | .fminm ..
  | .fmaxm ..
  | .fabs ..
  | .fneg ..
  | .fcpsgn ..
  | .fclass ..
  | .fcmp ..
  | .fcvt ..
  | .ex2 ..
  | .lg2 ..
  | .rcp ..
  | .rsq ..
  | .sqrt ..
  | .sin ..
  | .cos ..
  | .tanh ..
  | .hadd2Bf16 ..
  | .hmul2Bf16 ..
  | .hmac2Bf16 ..
  | .hadd2F16 ..
  | .hmul2F16 ..
  | .hmac2F16 ..
  | .hpack ..
  | .fdiv ..
  | .tment ..
  | .tmmrg ..
  | .tmext ..
  | .tmld ..
  | .tmred ..
  | .skdef ..
  | .skundef ..
  | .skmerge ..
  | .skfold ..
  | .skclr ..
  | .skstat ..
  | .sksnap ..
  | .skqv ..
  | .pin ..
  | .unpin ..
  | .ptouch ..
  | .pstat ..
  | .spawn ..
  | .spawnr ..
  | .jdec ..
  | .qstat ..
  | .frame ..
  | .bra ..
  | .bz ..
  | .bnz ..
  | .brm ..
  | .bany ..
  | .ball ..
  | .balw ..
  | .bnone ..
  | .call ..
  | .ret ..
  | .calli ..
  | .jmpi ..
  | .calls ..
  | .reconv ..
  | .rep ..
  | .lit ..
  | .xwr ..
  | .xrd ..
  | .xred ..
  | .xatom ..
  | .xmlr ..
  | .xmst ..
  | .xtrig ..
  | .xcnt ..
  | .alwr ..
  | .coll ..
  | .xwait ..
  | .xstat ..
  | .ld ..
  | .st ..
  | .lds ..
  | .sts ..
  | .atom ..
  | .atomc ..
  | .atomg ..
  | .atomx ..
  | .red ..
  | .cclean ..
  | .cinv ..
  | .cflush ..
  | .pref ..
  | .fence ..
  | .tryBegin ..
  | .commitTry ..
  | .abortTry ..
  | .tstat ..
  | .tdepth ..
  | .bararv ..
  | .barwt ..
  | .baraw ..
  | .barinit ..
  | .barst ..
  | .barexp ..
  | .rginit ..
  | .rgacq ..
  | .rgpub ..
  | .rgwait ..
  | .rgrel ..
  | .rgstat ..
  | .cpy ..
  | .cpy2 ..
  | .cpyt ..
  | .cpyg ..
  | .cpys ..
  | .cpywp ..
  | .cpywt ..
  | .cpyst ..
  | .mma ..
  | .mloop ..
  | .mzero ..
  | .mzeroRel ..
  | .mlda ..
  | .msta ..
  | .mav ..
  | .mva ..
  | .mwait ..
  | .msync ..
  | .spfen ..
  | .mcfg ..
  | .maud ..
  | .mjoin ..
  | .mleave ..
  | .nop ..
  | .exit ..
  | .trap ..
  | .rtt ..
  | .mfs ..
  | .mts ..
  | .yield ..
  | .bkpt ..
  | .widf ..
  | .replay ..
  | .endg ..
  | .emret .. => true

/-- A well-formed instruction word. -/
def Instr.wellFormed (i : Instr) : Bool :=
  i.isWord && i.kindCause.isNone

end Sys2Proof
end

