-- ==== Sys2Proof/Decode.lean ====
section
/-! DEFINITION. The decoder of instruction words (R26-R46), total on any 32 bits, and the encoder, both from the
encoding rows of spec/02_encoding.md and of the chapters that own the instructions. `decodeRaw` reads the fixed bits
and refuses (none) an unassigned encoding or a non-zero unused field, which is ILLOP (R42, R46); `decode` adds the
checks of the operand fields (R34) and names the cause. -/

namespace Sys2Proof

/-- Cond from its code (R78). -/
def Cond.ofCode : Nat → Cond
  | 0 => .eq
  | 1 => .ne
  | 2 => .lt
  | 3 => .le
  | 4 => .ltn
  | 5 => .len
  | 6 => .tstz
  | _ => .tstnz

/-- Code of a Cond (R78). -/
def Cond.code : Cond → Nat
  | .eq => 0
  | .ne => 1
  | .lt => 2
  | .le => 3
  | .ltn => 4
  | .len => 5
  | .tstz => 6
  | .tstnz => 7

/-- FCond from its code (R89). -/
def FCond.ofCode : Nat → FCond
  | 0 => .eq
  | 1 => .ne
  | 2 => .lt
  | 3 => .le
  | 4 => .un
  | 5 => .ord
  | 6 => .ltu
  | _ => .leu

/-- Code of a FCond (R89). -/
def FCond.code : FCond → Nat
  | .eq => 0
  | .ne => 1
  | .lt => 2
  | .le => 3
  | .un => 4
  | .ord => 5
  | .ltu => 6
  | .leu => 7

/-- Rm from its code (R58). -/
def Rm.ofCode : Nat → Rm
  | 0 => .dyn
  | 1 => .rne
  | 2 => .rz
  | 3 => .rdn
  | 4 => .rup
  | 5 => .rna
  | 6 => .rsto
  | _ => .illegal

/-- Code of a Rm (R58). -/
def Rm.code : Rm → Nat
  | .dyn => 0
  | .rne => 1
  | .rz => 2
  | .rdn => 3
  | .rup => 4
  | .rna => 5
  | .rsto => 6
  | .illegal => 7

/-- Space from its code (R38). -/
def Space.ofCode : Nat → Space
  | 0 => .priv
  | 1 => .loc
  | 2 => .clu
  | _ => .glob

/-- Code of a Space (R38). -/
def Space.code : Space → Nat
  | .priv => 0
  | .loc => 1
  | .clu => 2
  | .glob => 3

/-- Size from its code (R38). -/
def Size.ofCode : Nat → Size
  | 0 => .n8
  | 1 => .i8
  | 2 => .n16
  | 3 => .i16
  | 4 => .b32
  | 5 => .b64
  | 6 => .b128
  | _ => .illegal

/-- Code of a Size (R38). -/
def Size.code : Size → Nat
  | .n8 => 0
  | .i8 => 1
  | .n16 => 2
  | .i16 => 3
  | .b32 => 4
  | .b64 => 5
  | .b128 => 6
  | .illegal => 7

/-- AOp from its code (R133). -/
def AOp.ofCode : Nat → AOp
  | 0 => .add
  | 1 => .min
  | 2 => .max
  | 3 => .and
  | 4 => .or
  | 5 => .xor
  | 6 => .xchg
  | _ => .cas

/-- Code of a AOp (R133). -/
def AOp.code : AOp → Nat
  | .add => 0
  | .min => 1
  | .max => 2
  | .and => 3
  | .or => 4
  | .xor => 5
  | .xchg => 6
  | .cas => 7

/-- XOp from its code (R133). -/
def XOp.ofCode : Nat → XOp
  | 0 => .add64
  | 1 => .min64
  | 2 => .max64
  | 3 => .cas64
  | 4 => .fadd
  | 5 => .fadd2bf
  | 6 => .fmin
  | _ => .fmax

/-- Code of a XOp (R133). -/
def XOp.code : XOp → Nat
  | .add64 => 0
  | .min64 => 1
  | .max64 => 2
  | .cas64 => 3
  | .fadd => 4
  | .fadd2bf => 5
  | .fmin => 6
  | .fmax => 7

/-- ROp from its code (R135). -/
def ROp.ofCode : Nat → ROp
  | 0 => .add
  | 1 => .min
  | 2 => .max
  | 3 => .and
  | 4 => .or
  | 5 => .xor
  | 6 => .fadd
  | _ => .add64

/-- Code of a ROp (R135). -/
def ROp.code : ROp → Nat
  | .add => 0
  | .min => 1
  | .max => 2
  | .and => 3
  | .or => 4
  | .xor => 5
  | .fadd => 6
  | .add64 => 7

/-- Level from its code (R136). -/
def Level.ofCode : Nat → Level
  | 0 => .l1
  | 1 => .llc
  | 2 => .msc
  | _ => .illegal

/-- Code of a Level (R136). -/
def Level.code : Level → Nat
  | .l1 => 0
  | .llc => 1
  | .msc => 2
  | .illegal => 3

/-- FKind from its code (R137). -/
def FKind.ofCode : Nat → FKind
  | 0 => .full
  | 1 => .acq
  | 2 => .rel
  | _ => .illegal

/-- Code of a FKind (R137). -/
def FKind.code : FKind → Nat
  | .full => 0
  | .acq => 1
  | .rel => 2
  | .illegal => 3

/-- Scope from its code (R137). -/
def Scope.ofCode : Nat → Scope
  | 0 => .grp
  | 1 => .core
  | 2 => .clu
  | 3 => .die
  | 4 => .pkg
  | 5 => .sys
  | 6 => .illegal6
  | _ => .illegal7

/-- Code of a Scope (R137). -/
def Scope.code : Scope → Nat
  | .grp => 0
  | .core => 1
  | .clu => 2
  | .die => 3
  | .pkg => 4
  | .sys => 5
  | .illegal6 => 6
  | .illegal7 => 7

/-- Major 0x01 (R46). -/
def dec01 (w : Nat) : Option Instr :=
  match fld w 0 3 with
  | 0 => some (.iadd (.ofNat 7 (fld w 17 7)) (.ofNat 7 (fld w 10 7)) (.ofNat 7 (fld w 3 7)))
  | 1 => some (.isub (.ofNat 7 (fld w 17 7)) (.ofNat 7 (fld w 10 7)) (.ofNat 7 (fld w 3 7)))
  | 2 => some (.imul (.ofNat 7 (fld w 17 7)) (.ofNat 7 (fld w 10 7)) (.ofNat 7 (fld w 3 7)))
  | 3 => some (.imulh (.ofNat 7 (fld w 17 7)) (.ofNat 7 (fld w 10 7)) (.ofNat 7 (fld w 3 7)))
  | 4 => some (.imulhn (.ofNat 7 (fld w 17 7)) (.ofNat 7 (fld w 10 7)) (.ofNat 7 (fld w 3 7)))
  | 5 => some (.imin (.ofNat 7 (fld w 17 7)) (.ofNat 7 (fld w 10 7)) (.ofNat 7 (fld w 3 7)))
  | 6 => some (.imax (.ofNat 7 (fld w 17 7)) (.ofNat 7 (fld w 10 7)) (.ofNat 7 (fld w 3 7)))
  | 7 => some (.iabsd (.ofNat 7 (fld w 17 7)) (.ofNat 7 (fld w 10 7)) (.ofNat 7 (fld w 3 7)))
  | _ => none

/-- Major 0x02 (R46). -/
def dec02 (w : Nat) : Option Instr :=
  match fld w 0 3 with
  | 0 => some (.and (.ofNat 7 (fld w 17 7)) (.ofNat 7 (fld w 10 7)) (.ofNat 7 (fld w 3 7)))
  | 1 => some (.or (.ofNat 7 (fld w 17 7)) (.ofNat 7 (fld w 10 7)) (.ofNat 7 (fld w 3 7)))
  | 2 => some (.xor (.ofNat 7 (fld w 17 7)) (.ofNat 7 (fld w 10 7)) (.ofNat 7 (fld w 3 7)))
  | 3 => some (.andn (.ofNat 7 (fld w 17 7)) (.ofNat 7 (fld w 10 7)) (.ofNat 7 (fld w 3 7)))
  | 4 => some (.shl (.ofNat 7 (fld w 17 7)) (.ofNat 7 (fld w 10 7)) (.ofNat 7 (fld w 3 7)))
  | 5 => some (.shr (.ofNat 7 (fld w 17 7)) (.ofNat 7 (fld w 10 7)) (.ofNat 7 (fld w 3 7)))
  | 6 => some (.sar (.ofNat 7 (fld w 17 7)) (.ofNat 7 (fld w 10 7)) (.ofNat 7 (fld w 3 7)))
  | 7 => some (.rotl (.ofNat 7 (fld w 17 7)) (.ofNat 7 (fld w 10 7)) (.ofNat 7 (fld w 3 7)))
  | _ => none

/-- Major 0x03 (R46). -/
def dec03 (w : Nat) : Option Instr :=
  match fld w 0 3 with
  | 0 => some (.iminn (.ofNat 7 (fld w 17 7)) (.ofNat 7 (fld w 10 7)) (.ofNat 7 (fld w 3 7)))
  | 1 => some (.imaxn (.ofNat 7 (fld w 17 7)) (.ofNat 7 (fld w 10 7)) (.ofNat 7 (fld w 3 7)))
  | 2 => if fld w 3 7 = 0 then some (.popc (.ofNat 7 (fld w 17 7)) (.ofNat 7 (fld w 10 7))) else none
  | 3 => if fld w 3 7 = 0 then some (.clz (.ofNat 7 (fld w 17 7)) (.ofNat 7 (fld w 10 7))) else none
  | 4 => if fld w 3 7 = 0 then some (.brev (.ofNat 7 (fld w 17 7)) (.ofNat 7 (fld w 10 7))) else none
  | 5 => some (.bfx (.ofNat 7 (fld w 17 7)) (.ofNat 7 (fld w 10 7)) (.ofNat 7 (fld w 3 7)))
  | 6 => some (.bfi (.ofNat 7 (fld w 17 7)) (.ofNat 7 (fld w 10 7)) (.ofNat 7 (fld w 3 7)))
  | 7 => some (.prmt (.ofNat 7 (fld w 17 7)) (.ofNat 7 (fld w 10 7)) (.ofNat 7 (fld w 3 7)))
  | _ => none

/-- Major 0x04 (R46). -/
def dec04 (w : Nat) : Option Instr :=
  match fld w 8 2 with
  | 0 => some (.iaddi (.ofNat 7 (fld w 17 7)) (.ofNat 7 (fld w 10 7)) (.ofNat 8 (fld w 0 8)))
  | 1 => some (.andi (.ofNat 7 (fld w 17 7)) (.ofNat 7 (fld w 10 7)) (.ofNat 8 (fld w 0 8)))
  | 2 => some (.ori (.ofNat 7 (fld w 17 7)) (.ofNat 7 (fld w 10 7)) (.ofNat 8 (fld w 0 8)))
  | 3 => some (.xori (.ofNat 7 (fld w 17 7)) (.ofNat 7 (fld w 10 7)) (.ofNat 8 (fld w 0 8)))
  | _ => none

/-- Major 0x05 (R46). -/
def dec05 (w : Nat) : Option Instr :=
  match fld w 8 2 with
  | 0 => some (.shli (.ofNat 7 (fld w 17 7)) (.ofNat 7 (fld w 10 7)) (.ofNat 8 (fld w 0 8)))
  | 1 => some (.shri (.ofNat 7 (fld w 17 7)) (.ofNat 7 (fld w 10 7)) (.ofNat 8 (fld w 0 8)))
  | 2 => some (.sari (.ofNat 7 (fld w 17 7)) (.ofNat 7 (fld w 10 7)) (.ofNat 8 (fld w 0 8)))
  | 3 => some (.imuli (.ofNat 7 (fld w 17 7)) (.ofNat 7 (fld w 10 7)) (.ofNat 8 (fld w 0 8)))
  | _ => none

/-- Major 0x06 (R46). -/
def dec06 (w : Nat) : Option Instr :=
  some (.icmp (.ofNat 7 (fld w 17 7)) (.ofNat 7 (fld w 10 7)) (.ofNat 7 (fld w 3 7)) (.ofCode (fld w 0 3)))

/-- Major 0x07 (R46). -/
def dec07 (w : Nat) : Option Instr :=
  some (.sel (.ofNat 6 (fld w 18 6)) (.ofNat 6 (fld w 12 6)) (.ofNat 6 (fld w 6 6)) (.ofNat 6 (fld w 0 6)))

/-- Major 0x08 (R46). -/
def dec08 (w : Nat) : Option Instr :=
  match fld w 0 3 with
  | 0 => if fld w 3 7 = 0 then some (.mov (.ofNat 7 (fld w 17 7)) (.ofNat 7 (fld w 10 7))) else none
  | 1 => if fld w 3 7 = 0 then some (.vbc (.ofNat 7 (fld w 17 7)) (.ofNat 7 (fld w 10 7))) else none
  | 2 => some (.vtos (.ofNat 7 (fld w 17 7)) (.ofNat 7 (fld w 10 7)) (.ofNat 7 (fld w 3 7)))
  | 3 => if fld w 3 14 = 0 then some (.lane (.ofNat 7 (fld w 17 7))) else none
  | 4 => some (.shfl (.ofNat 7 (fld w 17 7)) (.ofNat 7 (fld w 10 7)) (.ofNat 7 (fld w 3 7)))
  | 5 => some (.shflx (.ofNat 7 (fld w 17 7)) (.ofNat 7 (fld w 10 7)) (.ofNat 7 (fld w 3 7)))
  | 6 => some (.shflup (.ofNat 7 (fld w 17 7)) (.ofNat 7 (fld w 10 7)) (.ofNat 7 (fld w 3 7)))
  | 7 => some (.shfldn (.ofNat 7 (fld w 17 7)) (.ofNat 7 (fld w 10 7)) (.ofNat 7 (fld w 3 7)))
  | _ => none

/-- Major 0x09 (R46). -/
def dec09 (w : Nat) : Option Instr :=
  match fld w 0 3 with
  | 0 => if fld w 3 7 = 0 then some (.redadd (.ofNat 7 (fld w 17 7)) (.ofNat 7 (fld w 10 7))) else none
  | 1 => if fld w 3 7 = 0 then some (.redmin (.ofNat 7 (fld w 17 7)) (.ofNat 7 (fld w 10 7))) else none
  | 2 => if fld w 3 7 = 0 then some (.redmax (.ofNat 7 (fld w 17 7)) (.ofNat 7 (fld w 10 7))) else none
  | 3 => if fld w 3 7 = 0 then some (.redor (.ofNat 7 (fld w 17 7)) (.ofNat 7 (fld w 10 7))) else none
  | 4 => if fld w 3 7 = 0 then some (.scanadd (.ofNat 7 (fld w 17 7)) (.ofNat 7 (fld w 10 7))) else none
  | 5 => if fld w 3 7 = 0 then some (.scanaddx (.ofNat 7 (fld w 17 7)) (.ofNat 7 (fld w 10 7))) else none
  | 6 => if fld w 3 7 = 0 then some (.matchLead (.ofNat 7 (fld w 17 7)) (.ofNat 7 (fld w 10 7))) else none
  | 7 => if fld w 3 7 = 0 then some (.matchCount (.ofNat 7 (fld w 17 7)) (.ofNat 7 (fld w 10 7))) else none
  | _ => none

/-- Major 0x0A (R46). -/
def dec0A (w : Nat) : Option Instr :=
  match fld w 0 3 with
  | 0 => some (.sadd (.ofNat 7 (fld w 17 7)) (.ofNat 7 (fld w 10 7)) (.ofNat 7 (fld w 3 7)))
  | 1 => some (.ssub (.ofNat 7 (fld w 17 7)) (.ofNat 7 (fld w 10 7)) (.ofNat 7 (fld w 3 7)))
  | 2 => some (.smul (.ofNat 7 (fld w 17 7)) (.ofNat 7 (fld w 10 7)) (.ofNat 7 (fld w 3 7)))
  | 3 => some (.sand (.ofNat 7 (fld w 17 7)) (.ofNat 7 (fld w 10 7)) (.ofNat 7 (fld w 3 7)))
  | 4 => some (.sor (.ofNat 7 (fld w 17 7)) (.ofNat 7 (fld w 10 7)) (.ofNat 7 (fld w 3 7)))
  | 5 => some (.sxor (.ofNat 7 (fld w 17 7)) (.ofNat 7 (fld w 10 7)) (.ofNat 7 (fld w 3 7)))
  | 6 => some (.sshl (.ofNat 7 (fld w 17 7)) (.ofNat 7 (fld w 10 7)) (.ofNat 7 (fld w 3 7)))
  | 7 => some (.sshr (.ofNat 7 (fld w 17 7)) (.ofNat 7 (fld w 10 7)) (.ofNat 7 (fld w 3 7)))
  | _ => none

/-- Major 0x0B (R46). -/
def dec0B (w : Nat) : Option Instr :=
  match fld w 8 2 with
  | 0 => some (.saddi (.ofNat 7 (fld w 17 7)) (.ofNat 7 (fld w 10 7)) (.ofNat 8 (fld w 0 8)))
  | 1 => some (.sandi (.ofNat 7 (fld w 17 7)) (.ofNat 7 (fld w 10 7)) (.ofNat 8 (fld w 0 8)))
  | 2 => some (.sori (.ofNat 7 (fld w 17 7)) (.ofNat 7 (fld w 10 7)) (.ofNat 8 (fld w 0 8)))
  | 3 => some (.sshli (.ofNat 7 (fld w 17 7)) (.ofNat 7 (fld w 10 7)) (.ofNat 8 (fld w 0 8)))
  | _ => none

/-- Major 0x0C (R46). -/
def dec0C (w : Nat) : Option Instr :=
  some (.scmp (.ofNat 7 (fld w 17 7)) (.ofNat 7 (fld w 10 7)) (.ofNat 7 (fld w 3 7)) (.ofCode (fld w 0 3)))

/-- Major 0x0D (R46). -/
def dec0D (w : Nat) : Option Instr :=
  match fld w 0 3 with
  | 0 => some (.sadd64 (.ofNat 7 (fld w 17 7)) (.ofNat 7 (fld w 10 7)) (.ofNat 7 (fld w 3 7)))
  | 1 => some (.ssub64 (.ofNat 7 (fld w 17 7)) (.ofNat 7 (fld w 10 7)) (.ofNat 7 (fld w 3 7)))
  | 2 => some (.iadd64 (.ofNat 7 (fld w 17 7)) (.ofNat 7 (fld w 10 7)) (.ofNat 7 (fld w 3 7)))
  | 3 => some (.isub64 (.ofNat 7 (fld w 17 7)) (.ofNat 7 (fld w 10 7)) (.ofNat 7 (fld w 3 7)))
  | 4 => if fld w 3 7 = 0 then some (.isext (.ofNat 7 (fld w 17 7)) (.ofNat 7 (fld w 10 7))) else none
  | 5 => if fld w 3 7 = 0 then some (.izext (.ofNat 7 (fld w 17 7)) (.ofNat 7 (fld w 10 7))) else none
  | 6 => some (.imulw (.ofNat 7 (fld w 17 7)) (.ofNat 7 (fld w 10 7)) (.ofNat 7 (fld w 3 7)))
  | 7 => some (.imulwn (.ofNat 7 (fld w 17 7)) (.ofNat 7 (fld w 10 7)) (.ofNat 7 (fld w 3 7)))
  | _ => none

/-- Major 0x0E (R46). -/
def dec0E (w : Nat) : Option Instr :=
  match fld w 0 3 with
  | 0 => some (.mand (.ofNat 7 (fld w 17 7)) (.ofNat 7 (fld w 10 7)) (.ofNat 7 (fld w 3 7)))
  | 1 => some (.mor (.ofNat 7 (fld w 17 7)) (.ofNat 7 (fld w 10 7)) (.ofNat 7 (fld w 3 7)))
  | 2 => some (.mxor (.ofNat 7 (fld w 17 7)) (.ofNat 7 (fld w 10 7)) (.ofNat 7 (fld w 3 7)))
  | 3 => some (.mandn (.ofNat 7 (fld w 17 7)) (.ofNat 7 (fld w 10 7)) (.ofNat 7 (fld w 3 7)))
  | 4 => if fld w 3 7 = 0 then some (.mnot (.ofNat 7 (fld w 17 7)) (.ofNat 7 (fld w 10 7))) else none
  | 5 => if fld w 3 7 = 0 then some (.mpopc (.ofNat 7 (fld w 17 7)) (.ofNat 7 (fld w 10 7))) else none
  | 6 => if fld w 3 7 = 0 then some (.mffs (.ofNat 7 (fld w 17 7)) (.ofNat 7 (fld w 10 7))) else none
  | 7 => if fld w 3 14 = 0 then some (.mseta (.ofNat 7 (fld w 17 7))) else none
  | _ => none

/-- Major 0x10 (R46). -/
def dec10 (w : Nat) : Option Instr :=
  some (.fadd (.ofNat 7 (fld w 17 7)) (.ofNat 7 (fld w 10 7)) (.ofNat 7 (fld w 3 7)) (.ofCode (fld w 0 3)))

/-- Major 0x11 (R46). -/
def dec11 (w : Nat) : Option Instr :=
  some (.fsub (.ofNat 7 (fld w 17 7)) (.ofNat 7 (fld w 10 7)) (.ofNat 7 (fld w 3 7)) (.ofCode (fld w 0 3)))

/-- Major 0x12 (R46). -/
def dec12 (w : Nat) : Option Instr :=
  some (.fmul (.ofNat 7 (fld w 17 7)) (.ofNat 7 (fld w 10 7)) (.ofNat 7 (fld w 3 7)) (.ofCode (fld w 0 3)))

/-- Major 0x13 (R46). -/
def dec13 (w : Nat) : Option Instr :=
  some (.fmac (.ofNat 7 (fld w 17 7)) (.ofNat 7 (fld w 10 7)) (.ofNat 7 (fld w 3 7)) (.ofCode (fld w 0 3)))

/-- Major 0x14 (R46). -/
def dec14 (w : Nat) : Option Instr :=
  some (.fma (.ofNat 6 (fld w 18 6)) (.ofNat 6 (fld w 12 6)) (.ofNat 6 (fld w 6 6)) (.ofNat 6 (fld w 0 6)))

/-- Major 0x15 (R46). -/
def dec15 (w : Nat) : Option Instr :=
  match fld w 0 3 with
  | 0 => some (.fmin (.ofNat 7 (fld w 17 7)) (.ofNat 7 (fld w 10 7)) (.ofNat 7 (fld w 3 7)))
  | 1 => some (.fmax (.ofNat 7 (fld w 17 7)) (.ofNat 7 (fld w 10 7)) (.ofNat 7 (fld w 3 7)))
  | 2 => some (.fminm (.ofNat 7 (fld w 17 7)) (.ofNat 7 (fld w 10 7)) (.ofNat 7 (fld w 3 7)))
  | 3 => some (.fmaxm (.ofNat 7 (fld w 17 7)) (.ofNat 7 (fld w 10 7)) (.ofNat 7 (fld w 3 7)))
  | 4 => if fld w 3 7 = 0 then some (.fabs (.ofNat 7 (fld w 17 7)) (.ofNat 7 (fld w 10 7))) else none
  | 5 => if fld w 3 7 = 0 then some (.fneg (.ofNat 7 (fld w 17 7)) (.ofNat 7 (fld w 10 7))) else none
  | 6 => some (.fcpsgn (.ofNat 7 (fld w 17 7)) (.ofNat 7 (fld w 10 7)) (.ofNat 7 (fld w 3 7)))
  | 7 => if fld w 3 7 = 0 then some (.fclass (.ofNat 7 (fld w 17 7)) (.ofNat 7 (fld w 10 7))) else none
  | _ => none

/-- Major 0x16 (R46). -/
def dec16 (w : Nat) : Option Instr :=
  some (.fcmp (.ofNat 7 (fld w 17 7)) (.ofNat 7 (fld w 10 7)) (.ofNat 7 (fld w 3 7)) (.ofCode (fld w 0 3)))

/-- Major 0x17 (R46). -/
def dec17 (w : Nat) : Option Instr :=
  some (.fcvt (.ofNat 7 (fld w 17 7)) (.ofNat 7 (fld w 10 7)) (.ofNat 4 (fld w 6 4)) (.ofNat 3 (fld w 3 3)) (.ofCode (fld w 0 3)))

/-- Major 0x18 (R46). -/
def dec18 (w : Nat) : Option Instr :=
  match fld w 0 3 with
  | 0 => if fld w 3 7 = 0 then some (.ex2 (.ofNat 7 (fld w 17 7)) (.ofNat 7 (fld w 10 7))) else none
  | 1 => if fld w 3 7 = 0 then some (.lg2 (.ofNat 7 (fld w 17 7)) (.ofNat 7 (fld w 10 7))) else none
  | 2 => if fld w 3 7 = 0 then some (.rcp (.ofNat 7 (fld w 17 7)) (.ofNat 7 (fld w 10 7))) else none
  | 3 => if fld w 3 7 = 0 then some (.rsq (.ofNat 7 (fld w 17 7)) (.ofNat 7 (fld w 10 7))) else none
  | 4 => if fld w 3 7 = 0 then some (.sqrt (.ofNat 7 (fld w 17 7)) (.ofNat 7 (fld w 10 7))) else none
  | 5 => if fld w 3 7 = 0 then some (.sin (.ofNat 7 (fld w 17 7)) (.ofNat 7 (fld w 10 7))) else none
  | 6 => if fld w 3 7 = 0 then some (.cos (.ofNat 7 (fld w 17 7)) (.ofNat 7 (fld w 10 7))) else none
  | 7 => if fld w 3 7 = 0 then some (.tanh (.ofNat 7 (fld w 17 7)) (.ofNat 7 (fld w 10 7))) else none
  | _ => none

/-- Major 0x19 (R46). -/
def dec19 (w : Nat) : Option Instr :=
  match fld w 0 3 with
  | 0 => some (.hadd2Bf16 (.ofNat 7 (fld w 17 7)) (.ofNat 7 (fld w 10 7)) (.ofNat 7 (fld w 3 7)))
  | 1 => some (.hmul2Bf16 (.ofNat 7 (fld w 17 7)) (.ofNat 7 (fld w 10 7)) (.ofNat 7 (fld w 3 7)))
  | 2 => some (.hmac2Bf16 (.ofNat 7 (fld w 17 7)) (.ofNat 7 (fld w 10 7)) (.ofNat 7 (fld w 3 7)))
  | 3 => some (.hadd2F16 (.ofNat 7 (fld w 17 7)) (.ofNat 7 (fld w 10 7)) (.ofNat 7 (fld w 3 7)))
  | 4 => some (.hmul2F16 (.ofNat 7 (fld w 17 7)) (.ofNat 7 (fld w 10 7)) (.ofNat 7 (fld w 3 7)))
  | 5 => some (.hmac2F16 (.ofNat 7 (fld w 17 7)) (.ofNat 7 (fld w 10 7)) (.ofNat 7 (fld w 3 7)))
  | 6 => some (.hpack (.ofNat 7 (fld w 17 7)) (.ofNat 7 (fld w 10 7)) (.ofNat 7 (fld w 3 7)))
  | _ => none

/-- Major 0x1A (R46). -/
def dec1A (w : Nat) : Option Instr :=
  some (.fdiv (.ofNat 7 (fld w 17 7)) (.ofNat 7 (fld w 10 7)) (.ofNat 7 (fld w 3 7)) (.ofCode (fld w 0 3)))

/-- Major 0x1B (R46). -/
def dec1B (w : Nat) : Option Instr :=
  match fld w 0 3 with
  | 0 => if fld w 3 7 = 0 then some (.tment (.ofNat 7 (fld w 17 7)) (.ofNat 7 (fld w 10 7))) else none
  | 1 => some (.tmmrg (.ofNat 7 (fld w 17 7)) (.ofNat 7 (fld w 10 7)) (.ofNat 7 (fld w 3 7)))
  | 2 => if fld w 3 7 = 0 then some (.tmext (.ofNat 7 (fld w 17 7)) (.ofNat 7 (fld w 10 7))) else none
  | 3 => if fld w 17 7 = 0 then some (.tmld (.ofNat 7 (fld w 10 7)) (.ofNat 7 (fld w 3 7))) else none
  | 4 => if fld w 3 7 = 0 then some (.tmred (.ofNat 7 (fld w 17 7)) (.ofNat 7 (fld w 10 7))) else none
  | _ => none

/-- Major 0x1C (R46). -/
def dec1C (w : Nat) : Option Instr :=
  match fld w 0 3 with
  | 0 => if fld w 17 7 = 0 then some (.skdef (.ofNat 7 (fld w 10 7)) (.ofNat 7 (fld w 3 7))) else none
  | 1 => if fld w 3 7 = 0 ∧ fld w 17 7 = 0 then some (.skundef (.ofNat 7 (fld w 10 7))) else none
  | 2 => if fld w 17 7 = 0 then some (.skmerge (.ofNat 7 (fld w 10 7)) (.ofNat 7 (fld w 3 7))) else none
  | 3 => if fld w 17 7 = 0 then some (.skfold (.ofNat 7 (fld w 10 7)) (.ofNat 7 (fld w 3 7))) else none
  | 4 => if fld w 3 7 = 0 ∧ fld w 17 7 = 0 then some (.skclr (.ofNat 7 (fld w 10 7))) else none
  | 5 => if fld w 3 7 = 0 then some (.skstat (.ofNat 7 (fld w 17 7)) (.ofNat 7 (fld w 10 7))) else none
  | 6 => if fld w 17 7 = 0 then some (.sksnap (.ofNat 7 (fld w 10 7)) (.ofNat 7 (fld w 3 7))) else none
  | 7 => some (.skqv (.ofNat 7 (fld w 17 7)) (.ofNat 7 (fld w 10 7)) (.ofNat 7 (fld w 3 7)))
  | _ => none

/-- Major 0x1D (R46). -/
def dec1D (w : Nat) : Option Instr :=
  match fld w 0 3 with
  | 0 => some (.pin (.ofNat 7 (fld w 17 7)) (.ofNat 7 (fld w 10 7)) (.ofNat 7 (fld w 3 7)))
  | 1 => if fld w 3 7 = 0 ∧ fld w 17 7 = 0 then some (.unpin (.ofNat 7 (fld w 10 7))) else none
  | 2 => if fld w 3 7 = 0 ∧ fld w 17 7 = 0 then some (.ptouch (.ofNat 7 (fld w 10 7))) else none
  | 3 => if fld w 3 7 = 0 then some (.pstat (.ofNat 7 (fld w 17 7)) (.ofNat 7 (fld w 10 7))) else none
  | _ => none

/-- Major 0x1E (R46). -/
def dec1E (w : Nat) : Option Instr :=
  match fld w 0 3 with
  | 0 => if fld w 3 7 = 0 ∧ fld w 17 7 = 0 then some (.spawn (.ofNat 7 (fld w 10 7))) else none
  | 1 => if fld w 3 7 = 0 ∧ fld w 17 7 = 0 then some (.spawnr (.ofNat 7 (fld w 10 7))) else none
  | 2 => if fld w 3 7 = 0 ∧ fld w 17 7 = 0 then some (.jdec (.ofNat 7 (fld w 10 7))) else none
  | 3 => if fld w 3 7 = 0 then some (.qstat (.ofNat 7 (fld w 17 7)) (.ofNat 7 (fld w 10 7))) else none
  | 4 => if fld w 3 7 = 0 then some (.frame (.ofNat 7 (fld w 17 7)) (.ofNat 7 (fld w 10 7))) else none
  | _ => none

/-- Major 0x20 (R46). -/
def dec20 (w : Nat) : Option Instr :=
  match fld w 21 3 with
  | 0 => if fld w 15 6 = 0 then some (.bra (.ofNat 15 (fld w 0 15))) else none
  | 1 => some (.bz (.ofNat 6 (fld w 15 6)) (.ofNat 15 (fld w 0 15)))
  | 2 => some (.bnz (.ofNat 6 (fld w 15 6)) (.ofNat 15 (fld w 0 15)))
  | 3 => some (.brm (.ofNat 6 (fld w 15 6)) (.ofNat 15 (fld w 0 15)))
  | 4 => some (.bany (.ofNat 6 (fld w 15 6)) (.ofNat 15 (fld w 0 15)))
  | 5 => some (.ball (.ofNat 6 (fld w 15 6)) (.ofNat 15 (fld w 0 15)))
  | 6 => some (.balw (.ofNat 6 (fld w 15 6)) (.ofNat 15 (fld w 0 15)))
  | 7 => some (.bnone (.ofNat 6 (fld w 15 6)) (.ofNat 15 (fld w 0 15)))
  | _ => none

/-- Major 0x21 (R46). -/
def dec21 (w : Nat) : Option Instr :=
  some (.call (.ofNat 24 (fld w 0 24)))

/-- Major 0x22 (R46). -/
def dec22 (w : Nat) : Option Instr :=
  match fld w 0 3 with
  | 0 => if fld w 3 21 = 0 then some (.ret) else none
  | 1 => if fld w 3 7 = 0 ∧ fld w 17 7 = 0 then some (.calli (.ofNat 7 (fld w 10 7))) else none
  | 2 => if fld w 3 7 = 0 ∧ fld w 17 7 = 0 then some (.jmpi (.ofNat 7 (fld w 10 7))) else none
  | 3 => if fld w 3 7 = 0 ∧ fld w 17 7 = 0 then some (.calls (.ofNat 7 (fld w 10 7))) else none
  | _ => none

/-- Major 0x23 (R46). -/
def dec23 (w : Nat) : Option Instr :=
  some (.reconv (.ofNat 24 (fld w 0 24)))

/-- Major 0x24 (R46). -/
def dec24 (w : Nat) : Option Instr :=
  if fld w 0 13 = 0 then
    some (.rep (.ofNat 6 (fld w 18 6)) (.ofNat 1 (fld w 17 1)) (.ofNat 1 (fld w 16 1)) (.ofNat 1 (fld w 15 1)) (.ofNat 2 (fld w 13 2)))
  else none

/-- Major 0x25 (R46). -/
def dec25 (w : Nat) : Option Instr :=
  some (.lit (.ofNat 24 (fld w 0 24)))

/-- Major 0x26 (R46). -/
def dec26 (w : Nat) : Option Instr :=
  match fld w 0 3 with
  | 0 => some (.xwr (.ofNat 7 (fld w 17 7)) (.ofNat 7 (fld w 10 7)) (.ofNat 7 (fld w 3 7)))
  | 1 => some (.xrd (.ofNat 7 (fld w 17 7)) (.ofNat 7 (fld w 10 7)) (.ofNat 7 (fld w 3 7)))
  | 2 => some (.xred (.ofNat 7 (fld w 17 7)) (.ofNat 7 (fld w 10 7)) (.ofNat 7 (fld w 3 7)))
  | 3 => some (.xatom (.ofNat 7 (fld w 17 7)) (.ofNat 7 (fld w 10 7)) (.ofNat 7 (fld w 3 7)))
  | 4 => some (.xmlr (.ofNat 7 (fld w 17 7)) (.ofNat 7 (fld w 10 7)) (.ofNat 7 (fld w 3 7)))
  | 5 => some (.xmst (.ofNat 7 (fld w 17 7)) (.ofNat 7 (fld w 10 7)) (.ofNat 7 (fld w 3 7)))
  | 6 => if fld w 17 7 = 0 then some (.xtrig (.ofNat 7 (fld w 10 7)) (.ofNat 7 (fld w 3 7))) else none
  | 7 => some (.xcnt (.ofNat 7 (fld w 17 7)) (.ofNat 7 (fld w 10 7)) (.ofNat 7 (fld w 3 7)))
  | _ => none

/-- Major 0x27 (R46). -/
def dec27 (w : Nat) : Option Instr :=
  match fld w 0 3 with
  | 0 => if fld w 3 7 = 0 then some (.alwr (.ofNat 7 (fld w 17 7)) (.ofNat 7 (fld w 10 7))) else none
  | 1 => if fld w 3 7 = 0 then some (.coll (.ofNat 7 (fld w 17 7)) (.ofNat 7 (fld w 10 7))) else none
  | 2 => some (.xwait (.ofNat 7 (fld w 17 7)) (.ofNat 7 (fld w 10 7)) (.ofNat 7 (fld w 3 7)))
  | 3 => some (.xstat (.ofNat 7 (fld w 17 7)) (.ofNat 7 (fld w 10 7)) (.ofNat 7 (fld w 3 7)))
  | _ => none

/-- Major 0x28 (R46). -/
def dec28 (w : Nat) : Option Instr :=
  some (.ld (.ofNat 7 (fld w 17 7)) (.ofNat 7 (fld w 10 7)) (.ofCode (fld w 8 2)) (.ofCode (fld w 5 3)) (.ofNat 5 (fld w 0 5)))

/-- Major 0x29 (R46). -/
def dec29 (w : Nat) : Option Instr :=
  some (.st (.ofNat 7 (fld w 17 7)) (.ofNat 7 (fld w 10 7)) (.ofCode (fld w 8 2)) (.ofCode (fld w 5 3)) (.ofNat 5 (fld w 0 5)))

/-- Major 0x2A (R46). -/
def dec2A (w : Nat) : Option Instr :=
  some (.lds (.ofNat 7 (fld w 17 7)) (.ofNat 7 (fld w 10 7)) (.ofCode (fld w 8 2)) (.ofCode (fld w 5 3)) (.ofNat 5 (fld w 0 5)))

/-- Major 0x2B (R46). -/
def dec2B (w : Nat) : Option Instr :=
  some (.sts (.ofNat 7 (fld w 17 7)) (.ofNat 7 (fld w 10 7)) (.ofCode (fld w 8 2)) (.ofCode (fld w 5 3)) (.ofNat 5 (fld w 0 5)))

/-- Major 0x2C (R46). -/
def dec2C (w : Nat) : Option Instr :=
  some (.atom (.ofNat 7 (fld w 17 7)) (.ofNat 7 (fld w 10 7)) (.ofNat 7 (fld w 3 7)) (.ofCode (fld w 0 3)))

/-- Major 0x2D (R46). -/
def dec2D (w : Nat) : Option Instr :=
  some (.atomc (.ofNat 7 (fld w 17 7)) (.ofNat 7 (fld w 10 7)) (.ofNat 7 (fld w 3 7)) (.ofCode (fld w 0 3)))

/-- Major 0x2E (R46). -/
def dec2E (w : Nat) : Option Instr :=
  some (.atomg (.ofNat 7 (fld w 17 7)) (.ofNat 7 (fld w 10 7)) (.ofNat 7 (fld w 3 7)) (.ofCode (fld w 0 3)))

/-- Major 0x2F (R46). -/
def dec2F (w : Nat) : Option Instr :=
  some (.atomx (.ofNat 7 (fld w 17 7)) (.ofNat 7 (fld w 10 7)) (.ofNat 7 (fld w 3 7)) (.ofCode (fld w 0 3)))

/-- Major 0x30 (R46). -/
def dec30 (w : Nat) : Option Instr :=
  if fld w 17 5 = 0 then some (.red (.ofCode (fld w 22 2)) (.ofNat 7 (fld w 10 7)) (.ofNat 7 (fld w 3 7)) (.ofCode (fld w 0 3))) else none

/-- Major 0x31 (R46). -/
def dec31 (w : Nat) : Option Instr :=
  match fld w 0 3 with
  | 0 => if fld w 17 5 = 0 then some (.cclean (.ofCode (fld w 22 2)) (.ofNat 7 (fld w 10 7)) (.ofNat 7 (fld w 3 7))) else none
  | 1 => if fld w 17 5 = 0 then some (.cinv (.ofCode (fld w 22 2)) (.ofNat 7 (fld w 10 7)) (.ofNat 7 (fld w 3 7))) else none
  | 2 => if fld w 17 5 = 0 then some (.cflush (.ofCode (fld w 22 2)) (.ofNat 7 (fld w 10 7)) (.ofNat 7 (fld w 3 7))) else none
  | 3 => if fld w 17 5 = 0 then some (.pref (.ofCode (fld w 22 2)) (.ofNat 7 (fld w 10 7)) (.ofNat 7 (fld w 3 7))) else none
  | _ => none

/-- Major 0x32 (R46). -/
def dec32 (w : Nat) : Option Instr :=
  if fld w 3 14 = 0 ∧ fld w 18 4 = 0 then some (.fence (.ofCode (fld w 22 2)) (.ofNat 1 (fld w 17 1)) (.ofCode (fld w 0 3))) else none

/-- Major 0x33 (R46). -/
def dec33 (w : Nat) : Option Instr :=
  some (.tryBegin (.ofNat 1 (fld w 23 1)) (.ofNat 23 (fld w 0 23)))

/-- Major 0x34 (R46). -/
def dec34 (w : Nat) : Option Instr :=
  match fld w 0 3 with
  | 0 => if fld w 3 21 = 0 then some (.commitTry) else none
  | 1 => if fld w 3 7 = 0 ∧ fld w 17 7 = 0 then some (.abortTry (.ofNat 7 (fld w 10 7))) else none
  | 2 => if fld w 3 14 = 0 then some (.tstat (.ofNat 7 (fld w 17 7))) else none
  | 3 => if fld w 3 14 = 0 then some (.tdepth (.ofNat 7 (fld w 17 7))) else none
  | _ => none

/-- Major 0x38 (R46). -/
def dec38 (w : Nat) : Option Instr :=
  match fld w 0 3 with
  | 0 => if fld w 3 7 = 0 then some (.bararv (.ofNat 7 (fld w 17 7)) (.ofNat 7 (fld w 10 7))) else none
  | 1 => some (.barwt (.ofNat 7 (fld w 17 7)) (.ofNat 7 (fld w 10 7)) (.ofNat 7 (fld w 3 7)))
  | 2 => if fld w 3 7 = 0 then some (.baraw (.ofNat 7 (fld w 17 7)) (.ofNat 7 (fld w 10 7))) else none
  | 3 => if fld w 17 7 = 0 then some (.barinit (.ofNat 7 (fld w 10 7)) (.ofNat 7 (fld w 3 7))) else none
  | 4 => if fld w 3 7 = 0 then some (.barst (.ofNat 7 (fld w 17 7)) (.ofNat 7 (fld w 10 7))) else none
  | 5 => if fld w 17 7 = 0 then some (.barexp (.ofNat 7 (fld w 10 7)) (.ofNat 7 (fld w 3 7))) else none
  | _ => none

/-- Major 0x39 (R46). -/
def dec39 (w : Nat) : Option Instr :=
  match fld w 0 3 with
  | 0 => if fld w 17 7 = 0 then some (.rginit (.ofNat 7 (fld w 10 7)) (.ofNat 7 (fld w 3 7))) else none
  | 1 => some (.rgacq (.ofNat 7 (fld w 17 7)) (.ofNat 7 (fld w 10 7)) (.ofNat 7 (fld w 3 7)))
  | 2 => some (.rgpub (.ofNat 7 (fld w 17 7)) (.ofNat 7 (fld w 10 7)) (.ofNat 7 (fld w 3 7)))
  | 3 => some (.rgwait (.ofNat 7 (fld w 17 7)) (.ofNat 7 (fld w 10 7)) (.ofNat 7 (fld w 3 7)))
  | 4 => some (.rgrel (.ofNat 7 (fld w 17 7)) (.ofNat 7 (fld w 10 7)) (.ofNat 7 (fld w 3 7)))
  | 5 => if fld w 3 7 = 0 then some (.rgstat (.ofNat 7 (fld w 17 7)) (.ofNat 7 (fld w 10 7))) else none
  | _ => none

/-- Major 0x3A (R46). -/
def dec3A (w : Nat) : Option Instr :=
  match fld w 0 3 with
  | 0 => some (.cpy (.ofNat 7 (fld w 17 7)) (.ofNat 7 (fld w 10 7)) (.ofNat 7 (fld w 3 7)))
  | 1 => some (.cpy2 (.ofNat 7 (fld w 17 7)) (.ofNat 7 (fld w 10 7)) (.ofNat 7 (fld w 3 7)))
  | 2 => some (.cpyt (.ofNat 7 (fld w 17 7)) (.ofNat 7 (fld w 10 7)) (.ofNat 7 (fld w 3 7)))
  | 3 => some (.cpyg (.ofNat 7 (fld w 17 7)) (.ofNat 7 (fld w 10 7)) (.ofNat 7 (fld w 3 7)))
  | 4 => some (.cpys (.ofNat 7 (fld w 17 7)) (.ofNat 7 (fld w 10 7)) (.ofNat 7 (fld w 3 7)))
  | 5 => if fld w 3 7 = 0 then some (.cpywp (.ofNat 7 (fld w 17 7)) (.ofNat 7 (fld w 10 7))) else none
  | 6 => some (.cpywt (.ofNat 7 (fld w 17 7)) (.ofNat 7 (fld w 10 7)) (.ofNat 7 (fld w 3 7)))
  | 7 => some (.cpyst (.ofNat 7 (fld w 17 7)) (.ofNat 7 (fld w 10 7)) (.ofNat 7 (fld w 3 7)))
  | _ => none

/-- Major 0x3B (R46). -/
def dec3B (w : Nat) : Option Instr :=
  some (.mma (.ofNat 7 (fld w 17 7)) (.ofNat 7 (fld w 10 7)) (.ofNat 7 (fld w 3 7)) (.ofNat 3 (fld w 0 3)))

/-- Major 0x3C (R46). -/
def dec3C (w : Nat) : Option Instr :=
  if fld w 3 14 = 0 then some (.mloop (.ofNat 7 (fld w 17 7)) (.ofNat 3 (fld w 0 3))) else none

/-- Major 0x3D (R46). -/
def dec3D (w : Nat) : Option Instr :=
  match fld w 0 3 with
  | 0 =>
    if fld w 3 7 = 0 then some (.mzero (.ofNat 7 (fld w 17 7)) (.ofNat 7 (fld w 10 7)))
    else if fld w 3 7 = 1 then some (.mzeroRel (.ofNat 7 (fld w 17 7)) (.ofNat 7 (fld w 10 7))) else none
  | 1 => some (.mlda (.ofNat 7 (fld w 17 7)) (.ofNat 7 (fld w 10 7)) (.ofNat 7 (fld w 3 7)))
  | 2 => some (.msta (.ofNat 7 (fld w 17 7)) (.ofNat 7 (fld w 10 7)) (.ofNat 7 (fld w 3 7)))
  | 3 => some (.mav (.ofNat 7 (fld w 17 7)) (.ofNat 7 (fld w 10 7)) (.ofNat 7 (fld w 3 7)))
  | 4 => some (.mva (.ofNat 7 (fld w 17 7)) (.ofNat 7 (fld w 10 7)) (.ofNat 7 (fld w 3 7)))
  | 5 => if fld w 3 7 = 0 ∧ fld w 17 7 = 0 then some (.mwait (.ofNat 7 (fld w 10 7))) else none
  | 6 => if fld w 3 7 = 0 ∧ fld w 17 7 = 0 then some (.msync (.ofNat 7 (fld w 10 7))) else none
  | 7 => if fld w 3 21 = 0 then some (.spfen) else none
  | _ => none

/-- Major 0x3E (R46). -/
def dec3E (w : Nat) : Option Instr :=
  match fld w 0 3 with
  | 0 => if fld w 3 7 = 0 ∧ fld w 17 7 = 0 then some (.mcfg (.ofNat 7 (fld w 10 7))) else none
  | 1 => if fld w 3 7 = 0 then some (.maud (.ofNat 7 (fld w 17 7)) (.ofNat 7 (fld w 10 7))) else none
  | 2 => if fld w 3 7 = 0 ∧ fld w 17 7 = 0 then some (.mjoin (.ofNat 7 (fld w 10 7))) else none
  | 3 => if fld w 3 21 = 0 then some (.mleave) else none
  | _ => none

/-- Major 0x3F (R46). -/
def dec3F (w : Nat) : Option Instr :=
  match fld w 16 8 with
  | 0 => if fld w 0 16 = 0 then some (.nop) else none
  | 1 => if fld w 0 16 = 0 then some (.exit) else none
  | 2 => if fld w 0 2 = 0 ∧ fld w 9 7 = 0 then some (.trap (.ofNat 7 (fld w 2 7))) else none
  | 3 => if fld w 1 15 = 0 then some (.rtt (.ofNat 1 (fld w 0 1))) else none
  | 4 => if fld w 0 2 = 0 then some (.mfs (.ofNat 7 (fld w 9 7)) (.ofNat 7 (fld w 2 7))) else none
  | 5 => if fld w 0 2 = 0 then some (.mts (.ofNat 7 (fld w 9 7)) (.ofNat 7 (fld w 2 7))) else none
  | 6 => if fld w 0 16 = 0 then some (.yield) else none
  | 7 => if fld w 0 2 = 0 ∧ fld w 9 7 = 0 then some (.bkpt (.ofNat 7 (fld w 2 7))) else none
  | 8 => if fld w 0 2 = 0 then some (.widf (.ofNat 7 (fld w 9 7)) (.ofNat 7 (fld w 2 7))) else none
  | 9 => if fld w 0 16 = 0 then some (.replay) else none
  | 10 => if fld w 1 15 = 0 then some (.endg (.ofNat 1 (fld w 0 1))) else none
  | 11 => if fld w 0 16 = 0 then some (.emret) else none
  | _ => none

/-- Reads the fixed bits of a word (R26, R35-R46); none is ILLOP. C and S are read apart. -/
def decodeRaw (w : Nat) : Option Instr :=
  match fld w 24 6 with
  | 1 => dec01 w
  | 2 => dec02 w
  | 3 => dec03 w
  | 4 => dec04 w
  | 5 => dec05 w
  | 6 => dec06 w
  | 7 => dec07 w
  | 8 => dec08 w
  | 9 => dec09 w
  | 10 => dec0A w
  | 11 => dec0B w
  | 12 => dec0C w
  | 13 => dec0D w
  | 14 => dec0E w
  | 16 => dec10 w
  | 17 => dec11 w
  | 18 => dec12 w
  | 19 => dec13 w
  | 20 => dec14 w
  | 21 => dec15 w
  | 22 => dec16 w
  | 23 => dec17 w
  | 24 => dec18 w
  | 25 => dec19 w
  | 26 => dec1A w
  | 27 => dec1B w
  | 28 => dec1C w
  | 29 => dec1D w
  | 30 => dec1E w
  | 32 => dec20 w
  | 33 => dec21 w
  | 34 => dec22 w
  | 35 => dec23 w
  | 36 => dec24 w
  | 37 => dec25 w
  | 38 => dec26 w
  | 39 => dec27 w
  | 40 => dec28 w
  | 41 => dec29 w
  | 42 => dec2A w
  | 43 => dec2B w
  | 44 => dec2C w
  | 45 => dec2D w
  | 46 => dec2E w
  | 47 => dec2F w
  | 48 => dec30 w
  | 49 => dec31 w
  | 50 => dec32 w
  | 51 => dec33 w
  | 52 => dec34 w
  | 56 => dec38 w
  | 57 => dec39 w
  | 58 => dec3A w
  | 59 => dec3B w
  | 60 => dec3C w
  | 61 => dec3D w
  | 62 => dec3E w
  | 63 => dec3F w
  | _ => none

/-- The word's static cause, for a word that has an instruction (R42-R44): reserved bits of a REP are ILLREP before
every other, and a word whose fixed bits fit no row is ILLOP. -/
def rawCause (w : Nat) : Option (BitVec 7) :=
  if fld w 24 6 = 0x24 ∧ fld w 0 13 ≠ 0 then some 0x05
  else match decodeRaw w with
    | none => some 0x00
    | some i => i.kindCause

/-- Decodes one word: the instruction, or the cause of R43 that its own fields raise. -/
def decode (w : Word) : Except (BitVec 7) DWord :=
  match rawCause w.toNat, decodeRaw w.toNat with
  | none, some i => .ok ⟨fld w.toNat 31 1 = 1, fld w.toNat 30 1 = 1, i, w⟩
  | some c, _ => .error c
  | none, none => .error 0x00

/-- A little-endian word from four bytes (R27). -/
def wordOfBytes : List Byte → Option Word
  | [b0, b1, b2, b3] => some (b3 ++ b2 ++ b1 ++ b0)
  | _ => none

/-- The bytes of a word, lowest address first (R3, R27). -/
def bytesOfWord (w : Word) : List Byte :=
  [w.extractLsb' 0 8, w.extractLsb' 8 8, w.extractLsb' 16 8, w.extractLsb' 24 8]

/-- Decodes the instruction at the head of a list of bytes; every instruction is one word (R26). -/
def decodeBytes (bs : List Byte) : Except (BitVec 7) DWord :=
  match wordOfBytes (bs.take 4) with
  | some w => decode w
  | none => .error 0x00

/-- The host's view of the decoder: `nbits` bits of one word, laid out as the hardware stores it and read back. -/
def decodeTableWord (nbits w : Nat) : Option Instr :=
  match decodeBytes (bytesOfWord (.ofNat 32 (w % 2 ^ nbits))) with
  | .ok d => some d.instr
  | .error _ => none

/-! ## Encoding -/

/-- Bits 29 to 0 of the word that stands for an instruction; an event row has no word. -/
def Instr.body : Instr → Nat
  | .iadd d a b => 0x01000000 + d.toNat * 131072 + a.toNat * 1024 + b.toNat * 8
  | .isub d a b => 0x01000001 + d.toNat * 131072 + a.toNat * 1024 + b.toNat * 8
  | .imul d a b => 0x01000002 + d.toNat * 131072 + a.toNat * 1024 + b.toNat * 8
  | .imulh d a b => 0x01000003 + d.toNat * 131072 + a.toNat * 1024 + b.toNat * 8
  | .imulhn d a b => 0x01000004 + d.toNat * 131072 + a.toNat * 1024 + b.toNat * 8
  | .imin d a b => 0x01000005 + d.toNat * 131072 + a.toNat * 1024 + b.toNat * 8
  | .imax d a b => 0x01000006 + d.toNat * 131072 + a.toNat * 1024 + b.toNat * 8
  | .iabsd d a b => 0x01000007 + d.toNat * 131072 + a.toNat * 1024 + b.toNat * 8
  | .and d a b => 0x02000000 + d.toNat * 131072 + a.toNat * 1024 + b.toNat * 8
  | .or d a b => 0x02000001 + d.toNat * 131072 + a.toNat * 1024 + b.toNat * 8
  | .xor d a b => 0x02000002 + d.toNat * 131072 + a.toNat * 1024 + b.toNat * 8
  | .andn d a b => 0x02000003 + d.toNat * 131072 + a.toNat * 1024 + b.toNat * 8
  | .shl d a b => 0x02000004 + d.toNat * 131072 + a.toNat * 1024 + b.toNat * 8
  | .shr d a b => 0x02000005 + d.toNat * 131072 + a.toNat * 1024 + b.toNat * 8
  | .sar d a b => 0x02000006 + d.toNat * 131072 + a.toNat * 1024 + b.toNat * 8
  | .rotl d a b => 0x02000007 + d.toNat * 131072 + a.toNat * 1024 + b.toNat * 8
  | .iminn d a b => 0x03000000 + d.toNat * 131072 + a.toNat * 1024 + b.toNat * 8
  | .imaxn d a b => 0x03000001 + d.toNat * 131072 + a.toNat * 1024 + b.toNat * 8
  | .popc d a => 0x03000002 + d.toNat * 131072 + a.toNat * 1024
  | .clz d a => 0x03000003 + d.toNat * 131072 + a.toNat * 1024
  | .brev d a => 0x03000004 + d.toNat * 131072 + a.toNat * 1024
  | .bfx d a b => 0x03000005 + d.toNat * 131072 + a.toNat * 1024 + b.toNat * 8
  | .bfi d a b => 0x03000006 + d.toNat * 131072 + a.toNat * 1024 + b.toNat * 8
  | .prmt d a b => 0x03000007 + d.toNat * 131072 + a.toNat * 1024 + b.toNat * 8
  | .iaddi d a i => 0x04000000 + d.toNat * 131072 + a.toNat * 1024 + i.toNat
  | .andi d a i => 0x04000100 + d.toNat * 131072 + a.toNat * 1024 + i.toNat
  | .ori d a i => 0x04000200 + d.toNat * 131072 + a.toNat * 1024 + i.toNat
  | .xori d a i => 0x04000300 + d.toNat * 131072 + a.toNat * 1024 + i.toNat
  | .shli d a i => 0x05000000 + d.toNat * 131072 + a.toNat * 1024 + i.toNat
  | .shri d a i => 0x05000100 + d.toNat * 131072 + a.toNat * 1024 + i.toNat
  | .sari d a i => 0x05000200 + d.toNat * 131072 + a.toNat * 1024 + i.toNat
  | .imuli d a i => 0x05000300 + d.toNat * 131072 + a.toNat * 1024 + i.toNat
  | .icmp d a b k => 0x06000000 + d.toNat * 131072 + a.toNat * 1024 + b.toNat * 8 + k.code
  | .sel d a b q => 0x07000000 + d.toNat * 262144 + a.toNat * 4096 + b.toNat * 64 + q.toNat
  | .mov d a => 0x08000000 + d.toNat * 131072 + a.toNat * 1024
  | .vbc d a => 0x08000001 + d.toNat * 131072 + a.toNat * 1024
  | .vtos d a n => 0x08000002 + d.toNat * 131072 + a.toNat * 1024 + n.toNat * 8
  | .lane d => 0x08000003 + d.toNat * 131072
  | .shfl d a b => 0x08000004 + d.toNat * 131072 + a.toNat * 1024 + b.toNat * 8
  | .shflx d a b => 0x08000005 + d.toNat * 131072 + a.toNat * 1024 + b.toNat * 8
  | .shflup d a b => 0x08000006 + d.toNat * 131072 + a.toNat * 1024 + b.toNat * 8
  | .shfldn d a b => 0x08000007 + d.toNat * 131072 + a.toNat * 1024 + b.toNat * 8
  | .redadd d a => 0x09000000 + d.toNat * 131072 + a.toNat * 1024
  | .redmin d a => 0x09000001 + d.toNat * 131072 + a.toNat * 1024
  | .redmax d a => 0x09000002 + d.toNat * 131072 + a.toNat * 1024
  | .redor d a => 0x09000003 + d.toNat * 131072 + a.toNat * 1024
  | .scanadd d a => 0x09000004 + d.toNat * 131072 + a.toNat * 1024
  | .scanaddx d a => 0x09000005 + d.toNat * 131072 + a.toNat * 1024
  | .matchLead d a => 0x09000006 + d.toNat * 131072 + a.toNat * 1024
  | .matchCount d a => 0x09000007 + d.toNat * 131072 + a.toNat * 1024
  | .sadd d a b => 0x0A000000 + d.toNat * 131072 + a.toNat * 1024 + b.toNat * 8
  | .ssub d a b => 0x0A000001 + d.toNat * 131072 + a.toNat * 1024 + b.toNat * 8
  | .smul d a b => 0x0A000002 + d.toNat * 131072 + a.toNat * 1024 + b.toNat * 8
  | .sand d a b => 0x0A000003 + d.toNat * 131072 + a.toNat * 1024 + b.toNat * 8
  | .sor d a b => 0x0A000004 + d.toNat * 131072 + a.toNat * 1024 + b.toNat * 8
  | .sxor d a b => 0x0A000005 + d.toNat * 131072 + a.toNat * 1024 + b.toNat * 8
  | .sshl d a b => 0x0A000006 + d.toNat * 131072 + a.toNat * 1024 + b.toNat * 8
  | .sshr d a b => 0x0A000007 + d.toNat * 131072 + a.toNat * 1024 + b.toNat * 8
  | .saddi d a i => 0x0B000000 + d.toNat * 131072 + a.toNat * 1024 + i.toNat
  | .sandi d a i => 0x0B000100 + d.toNat * 131072 + a.toNat * 1024 + i.toNat
  | .sori d a i => 0x0B000200 + d.toNat * 131072 + a.toNat * 1024 + i.toNat
  | .sshli d a i => 0x0B000300 + d.toNat * 131072 + a.toNat * 1024 + i.toNat
  | .scmp d a b k => 0x0C000000 + d.toNat * 131072 + a.toNat * 1024 + b.toNat * 8 + k.code
  | .sadd64 d a b => 0x0D000000 + d.toNat * 131072 + a.toNat * 1024 + b.toNat * 8
  | .ssub64 d a b => 0x0D000001 + d.toNat * 131072 + a.toNat * 1024 + b.toNat * 8
  | .iadd64 d a b => 0x0D000002 + d.toNat * 131072 + a.toNat * 1024 + b.toNat * 8
  | .isub64 d a b => 0x0D000003 + d.toNat * 131072 + a.toNat * 1024 + b.toNat * 8
  | .isext d a => 0x0D000004 + d.toNat * 131072 + a.toNat * 1024
  | .izext d a => 0x0D000005 + d.toNat * 131072 + a.toNat * 1024
  | .imulw d a b => 0x0D000006 + d.toNat * 131072 + a.toNat * 1024 + b.toNat * 8
  | .imulwn d a b => 0x0D000007 + d.toNat * 131072 + a.toNat * 1024 + b.toNat * 8
  | .mand d a b => 0x0E000000 + d.toNat * 131072 + a.toNat * 1024 + b.toNat * 8
  | .mor d a b => 0x0E000001 + d.toNat * 131072 + a.toNat * 1024 + b.toNat * 8
  | .mxor d a b => 0x0E000002 + d.toNat * 131072 + a.toNat * 1024 + b.toNat * 8
  | .mandn d a b => 0x0E000003 + d.toNat * 131072 + a.toNat * 1024 + b.toNat * 8
  | .mnot d a => 0x0E000004 + d.toNat * 131072 + a.toNat * 1024
  | .mpopc d a => 0x0E000005 + d.toNat * 131072 + a.toNat * 1024
  | .mffs d a => 0x0E000006 + d.toNat * 131072 + a.toNat * 1024
  | .mseta d => 0x0E000007 + d.toNat * 131072
  | .fadd d a b r => 0x10000000 + d.toNat * 131072 + a.toNat * 1024 + b.toNat * 8 + r.code
  | .fsub d a b r => 0x11000000 + d.toNat * 131072 + a.toNat * 1024 + b.toNat * 8 + r.code
  | .fmul d a b r => 0x12000000 + d.toNat * 131072 + a.toNat * 1024 + b.toNat * 8 + r.code
  | .fmac d a b r => 0x13000000 + d.toNat * 131072 + a.toNat * 1024 + b.toNat * 8 + r.code
  | .fma d a b e => 0x14000000 + d.toNat * 262144 + a.toNat * 4096 + b.toNat * 64 + e.toNat
  | .fmin d a b => 0x15000000 + d.toNat * 131072 + a.toNat * 1024 + b.toNat * 8
  | .fmax d a b => 0x15000001 + d.toNat * 131072 + a.toNat * 1024 + b.toNat * 8
  | .fminm d a b => 0x15000002 + d.toNat * 131072 + a.toNat * 1024 + b.toNat * 8
  | .fmaxm d a b => 0x15000003 + d.toNat * 131072 + a.toNat * 1024 + b.toNat * 8
  | .fabs d a => 0x15000004 + d.toNat * 131072 + a.toNat * 1024
  | .fneg d a => 0x15000005 + d.toNat * 131072 + a.toNat * 1024
  | .fcpsgn d a b => 0x15000006 + d.toNat * 131072 + a.toNat * 1024 + b.toNat * 8
  | .fclass d a => 0x15000007 + d.toNat * 131072 + a.toNat * 1024
  | .fcmp d a b k => 0x16000000 + d.toNat * 131072 + a.toNat * 1024 + b.toNat * 8 + k.code
  | .fcvt d a t u r => 0x17000000 + d.toNat * 131072 + a.toNat * 1024 + t.toNat * 64 + u.toNat * 8 + r.code
  | .ex2 d a => 0x18000000 + d.toNat * 131072 + a.toNat * 1024
  | .lg2 d a => 0x18000001 + d.toNat * 131072 + a.toNat * 1024
  | .rcp d a => 0x18000002 + d.toNat * 131072 + a.toNat * 1024
  | .rsq d a => 0x18000003 + d.toNat * 131072 + a.toNat * 1024
  | .sqrt d a => 0x18000004 + d.toNat * 131072 + a.toNat * 1024
  | .sin d a => 0x18000005 + d.toNat * 131072 + a.toNat * 1024
  | .cos d a => 0x18000006 + d.toNat * 131072 + a.toNat * 1024
  | .tanh d a => 0x18000007 + d.toNat * 131072 + a.toNat * 1024
  | .hadd2Bf16 d a b => 0x19000000 + d.toNat * 131072 + a.toNat * 1024 + b.toNat * 8
  | .hmul2Bf16 d a b => 0x19000001 + d.toNat * 131072 + a.toNat * 1024 + b.toNat * 8
  | .hmac2Bf16 d a b => 0x19000002 + d.toNat * 131072 + a.toNat * 1024 + b.toNat * 8
  | .hadd2F16 d a b => 0x19000003 + d.toNat * 131072 + a.toNat * 1024 + b.toNat * 8
  | .hmul2F16 d a b => 0x19000004 + d.toNat * 131072 + a.toNat * 1024 + b.toNat * 8
  | .hmac2F16 d a b => 0x19000005 + d.toNat * 131072 + a.toNat * 1024 + b.toNat * 8
  | .hpack d a b => 0x19000006 + d.toNat * 131072 + a.toNat * 1024 + b.toNat * 8
  | .fdiv d a b r => 0x1A000000 + d.toNat * 131072 + a.toNat * 1024 + b.toNat * 8 + r.code
  | .tment d a => 0x1B000000 + d.toNat * 131072 + a.toNat * 1024
  | .tmmrg d a b => 0x1B000001 + d.toNat * 131072 + a.toNat * 1024 + b.toNat * 8
  | .tmext d a => 0x1B000002 + d.toNat * 131072 + a.toNat * 1024
  | .tmld a k => 0x1B000003 + a.toNat * 1024 + k.toNat * 8
  | .tmred d a => 0x1B000004 + d.toNat * 131072 + a.toNat * 1024
  | .skdef a b => 0x1C000000 + a.toNat * 1024 + b.toNat * 8
  | .skundef a => 0x1C000001 + a.toNat * 1024
  | .skmerge a b => 0x1C000002 + a.toNat * 1024 + b.toNat * 8
  | .skfold a b => 0x1C000003 + a.toNat * 1024 + b.toNat * 8
  | .skclr a => 0x1C000004 + a.toNat * 1024
  | .skstat d a => 0x1C000005 + d.toNat * 131072 + a.toNat * 1024
  | .sksnap a b => 0x1C000006 + a.toNat * 1024 + b.toNat * 8
  | .skqv d a b => 0x1C000007 + d.toNat * 131072 + a.toNat * 1024 + b.toNat * 8
  | .pin d a b => 0x1D000000 + d.toNat * 131072 + a.toNat * 1024 + b.toNat * 8
  | .unpin a => 0x1D000001 + a.toNat * 1024
  | .ptouch a => 0x1D000002 + a.toNat * 1024
  | .pstat d a => 0x1D000003 + d.toNat * 131072 + a.toNat * 1024
  | .spawn a => 0x1E000000 + a.toNat * 1024
  | .spawnr a => 0x1E000001 + a.toNat * 1024
  | .jdec a => 0x1E000002 + a.toNat * 1024
  | .qstat d a => 0x1E000003 + d.toNat * 131072 + a.toNat * 1024
  | .frame d a => 0x1E000004 + d.toNat * 131072 + a.toNat * 1024
  | .bra f => 0x20000000 + f.toNat
  | .bz q f => 0x20200000 + q.toNat * 32768 + f.toNat
  | .bnz q f => 0x20400000 + q.toNat * 32768 + f.toNat
  | .brm q f => 0x20600000 + q.toNat * 32768 + f.toNat
  | .bany q f => 0x20800000 + q.toNat * 32768 + f.toNat
  | .ball q f => 0x20A00000 + q.toNat * 32768 + f.toNat
  | .balw q f => 0x20C00000 + q.toNat * 32768 + f.toNat
  | .bnone q f => 0x20E00000 + q.toNat * 32768 + f.toNat
  | .call o => 0x21000000 + o.toNat
  | .ret => 0x22000000
  | .calli a => 0x22000001 + a.toNat * 1024
  | .jmpi a => 0x22000002 + a.toNat * 1024
  | .calls a => 0x22000003 + a.toNat * 1024
  | .reconv o => 0x23000000 + o.toNat
  | .rep n d a b t => 0x24000000 + n.toNat * 262144 + d.toNat * 131072 + a.toNat * 65536 + b.toNat * 32768 + t.toNat * 8192
  | .lit v => 0x25000000 + v.toNat
  | .xwr d a b => 0x26000000 + d.toNat * 131072 + a.toNat * 1024 + b.toNat * 8
  | .xrd d a b => 0x26000001 + d.toNat * 131072 + a.toNat * 1024 + b.toNat * 8
  | .xred d a b => 0x26000002 + d.toNat * 131072 + a.toNat * 1024 + b.toNat * 8
  | .xatom d a b => 0x26000003 + d.toNat * 131072 + a.toNat * 1024 + b.toNat * 8
  | .xmlr d a b => 0x26000004 + d.toNat * 131072 + a.toNat * 1024 + b.toNat * 8
  | .xmst d a b => 0x26000005 + d.toNat * 131072 + a.toNat * 1024 + b.toNat * 8
  | .xtrig a b => 0x26000006 + a.toNat * 1024 + b.toNat * 8
  | .xcnt d a b => 0x26000007 + d.toNat * 131072 + a.toNat * 1024 + b.toNat * 8
  | .alwr d a => 0x27000000 + d.toNat * 131072 + a.toNat * 1024
  | .coll d a => 0x27000001 + d.toNat * 131072 + a.toNat * 1024
  | .xwait d a b => 0x27000002 + d.toNat * 131072 + a.toNat * 1024 + b.toNat * 8
  | .xstat d a b => 0x27000003 + d.toNat * 131072 + a.toNat * 1024 + b.toNat * 8
  | .ld d a p z o => 0x28000000 + d.toNat * 131072 + a.toNat * 1024 + p.code * 256 + z.code * 32 + o.toNat
  | .st d a p z o => 0x29000000 + d.toNat * 131072 + a.toNat * 1024 + p.code * 256 + z.code * 32 + o.toNat
  | .lds d a p z o => 0x2A000000 + d.toNat * 131072 + a.toNat * 1024 + p.code * 256 + z.code * 32 + o.toNat
  | .sts d a p z o => 0x2B000000 + d.toNat * 131072 + a.toNat * 1024 + p.code * 256 + z.code * 32 + o.toNat
  | .atom d a b o => 0x2C000000 + d.toNat * 131072 + a.toNat * 1024 + b.toNat * 8 + o.code
  | .atomc d a b o => 0x2D000000 + d.toNat * 131072 + a.toNat * 1024 + b.toNat * 8 + o.code
  | .atomg d a b o => 0x2E000000 + d.toNat * 131072 + a.toNat * 1024 + b.toNat * 8 + o.code
  | .atomx d a b o => 0x2F000000 + d.toNat * 131072 + a.toNat * 1024 + b.toNat * 8 + o.code
  | .red p a b o => 0x30000000 + p.code * 4194304 + a.toNat * 1024 + b.toNat * 8 + o.code
  | .cclean l a b => 0x31000000 + l.code * 4194304 + a.toNat * 1024 + b.toNat * 8
  | .cinv l a b => 0x31000001 + l.code * 4194304 + a.toNat * 1024 + b.toNat * 8
  | .cflush l a b => 0x31000002 + l.code * 4194304 + a.toNat * 1024 + b.toNat * 8
  | .pref l a b => 0x31000003 + l.code * 4194304 + a.toNat * 1024 + b.toNat * 8
  | .fence k t p => 0x32000000 + k.code * 4194304 + t.toNat * 131072 + p.code
  | .tryBegin l o => 0x33000000 + l.toNat * 8388608 + o.toNat
  | .commitTry => 0x34000000
  | .abortTry a => 0x34000001 + a.toNat * 1024
  | .tstat d => 0x34000002 + d.toNat * 131072
  | .tdepth d => 0x34000003 + d.toNat * 131072
  | .bararv d a => 0x38000000 + d.toNat * 131072 + a.toNat * 1024
  | .barwt d a b => 0x38000001 + d.toNat * 131072 + a.toNat * 1024 + b.toNat * 8
  | .baraw d a => 0x38000002 + d.toNat * 131072 + a.toNat * 1024
  | .barinit a b => 0x38000003 + a.toNat * 1024 + b.toNat * 8
  | .barst d a => 0x38000004 + d.toNat * 131072 + a.toNat * 1024
  | .barexp a b => 0x38000005 + a.toNat * 1024 + b.toNat * 8
  | .rginit a b => 0x39000000 + a.toNat * 1024 + b.toNat * 8
  | .rgacq d a b => 0x39000001 + d.toNat * 131072 + a.toNat * 1024 + b.toNat * 8
  | .rgpub d a b => 0x39000002 + d.toNat * 131072 + a.toNat * 1024 + b.toNat * 8
  | .rgwait d a b => 0x39000003 + d.toNat * 131072 + a.toNat * 1024 + b.toNat * 8
  | .rgrel d a b => 0x39000004 + d.toNat * 131072 + a.toNat * 1024 + b.toNat * 8
  | .rgstat d a => 0x39000005 + d.toNat * 131072 + a.toNat * 1024
  | .cpy d a b => 0x3A000000 + d.toNat * 131072 + a.toNat * 1024 + b.toNat * 8
  | .cpy2 d a b => 0x3A000001 + d.toNat * 131072 + a.toNat * 1024 + b.toNat * 8
  | .cpyt d a b => 0x3A000002 + d.toNat * 131072 + a.toNat * 1024 + b.toNat * 8
  | .cpyg d a b => 0x3A000003 + d.toNat * 131072 + a.toNat * 1024 + b.toNat * 8
  | .cpys d a b => 0x3A000004 + d.toNat * 131072 + a.toNat * 1024 + b.toNat * 8
  | .cpywp d a => 0x3A000005 + d.toNat * 131072 + a.toNat * 1024
  | .cpywt d a b => 0x3A000006 + d.toNat * 131072 + a.toNat * 1024 + b.toNat * 8
  | .cpyst d a b => 0x3A000007 + d.toNat * 131072 + a.toNat * 1024 + b.toNat * 8
  | .mma d a b n => 0x3B000000 + d.toNat * 131072 + a.toNat * 1024 + b.toNat * 8 + n.toNat
  | .mloop d n => 0x3C000000 + d.toNat * 131072 + n.toNat
  | .mzero d a => 0x3D000000 + d.toNat * 131072 + a.toNat * 1024
  | .mzeroRel d a => 0x3D000008 + d.toNat * 131072 + a.toNat * 1024
  | .mlda d a b => 0x3D000001 + d.toNat * 131072 + a.toNat * 1024 + b.toNat * 8
  | .msta d a b => 0x3D000002 + d.toNat * 131072 + a.toNat * 1024 + b.toNat * 8
  | .mav d a b => 0x3D000003 + d.toNat * 131072 + a.toNat * 1024 + b.toNat * 8
  | .mva d a b => 0x3D000004 + d.toNat * 131072 + a.toNat * 1024 + b.toNat * 8
  | .mwait a => 0x3D000005 + a.toNat * 1024
  | .msync a => 0x3D000006 + a.toNat * 1024
  | .spfen => 0x3D000007
  | .mcfg a => 0x3E000000 + a.toNat * 1024
  | .maud d a => 0x3E000001 + d.toNat * 131072 + a.toNat * 1024
  | .mjoin a => 0x3E000002 + a.toNat * 1024
  | .mleave => 0x3E000003
  | .nop => 0x3F000000
  | .exit => 0x3F010000
  | .trap n => 0x3F020000 + n.toNat * 4
  | .rtt t => 0x3F030000 + t.toNat
  | .mfs d a => 0x3F040000 + d.toNat * 512 + a.toNat * 4
  | .mts d a => 0x3F050000 + d.toNat * 512 + a.toNat * 4
  | .yield => 0x3F060000
  | .bkpt n => 0x3F070000 + n.toNat * 4
  | .widf d k => 0x3F080000 + d.toNat * 512 + k.toNat * 4
  | .replay => 0x3F090000
  | .endg r => 0x3F0A0000 + r.toNat
  | .emret => 0x3F0B0000
  | .issueCycle ..
  | .resultWrite ..
  | .trapDeliver ..
  | .hangLimitExpiry ..
  | .deferredFaultReturn ..
  | .issueQueueLeave ..
  | .requestDeliver ..
  | .homePerform ..
  | .responseArrive ..
  | .l1WriteBack ..
  | .l1Drop ..
  | .fenceComplete ..
  | .tryConflictAbort ..
  | .faultServiceMap ..
  | .faultServiceDecline ..
  | .throughputFaultTimeout ..
  | .workgroupSave ..
  | .workgroupEnd ..
  | .launchQueueTailWrite ..
  | .launchTake ..
  | .pantryTake ..
  | .stealRequest ..
  | .stealAnswer ..
  | .stealRetryTimer ..
  | .timeSliceExpiry ..
  | .agingPeriodExpiry ..
  | .preemptDrainRequest ..
  | .preemptSaveRequest ..
  | .preemptResumeRequest ..
  | .preemptDeadlineExpiry ..
  | .copyCardAdmit ..
  | .copyDeliveryWrite ..
  | .copyCardComplete ..
  | .copyCardFault ..
  | .copyQueueRoom ..
  | .cardQuotaResume ..
  | .ringParkResume ..
  | .matrixStep ..
  | .matrixQueueRoom ..
  | .hbmRefreshRetry ..
  | .refreshRequeueTimer ..
  | .pageFreeze ..
  | .pageThaw ..
  | .frozenWriteRetry ..
  | .frozenLimit ..
  | .pinBackgroundLoad ..
  | .fadePeriodExpiry ..
  | .tokenBucketGrant ..
  | .hostBar2Access ..
  | .hostRegisterWrite ..
  | .csetWrite ..
  | .srqDoorbell ..
  | .ctxCreate ..
  | .ctxDestroy ..
  | .mapPages ..
  | .unmapPages ..
  | .protectPages ..
  | .peerwin ..
  | .trange ..
  | .mcrgroup ..
  | .mcrmember ..
  | .exportpa ..
  | .srqUnknownCode ..
  | .pcieLinkError ..
  | .pcieLinkRetrain ..
  | .powerUpBoot ..
  | .measurementExtend ..
  | .getVersion ..
  | .getCapabilities ..
  | .negotiateAlgorithms ..
  | .getDigests ..
  | .getCertificate ..
  | .challenge ..
  | .getMeasurements ..
  | .spdmUnsupportedRequest ..
  | .tamperMeshBreach ..
  | .voltageClockGlitch ..
  | .islandClockStop ..
  | .islandClockStart ..
  | .islandVoltageSet ..
  | .issueCycleWithhold ..
  | .clusterFailure ..
  | .hbmFailure ..
  | .serdesLaneFailure ..
  | .packageFailure ..
  | .serviceCoreFailure ..
  | .evictionPrepare ..
  | .evictionCopy ..
  | .evictionDrain ..
  | .evictionRelease ..
  | .evictionTimeout ..
  | .mgmtRequest ..
  | .identityEepromRead ..
  | .planeLoss ..
  | .planeReturn ..
  | .linkKeyExchange ..
  | .linkRekey ..
  | .linkFrameReceive ..
  | .requestPacketArrive ..
  | .cardFireQueueRoom ..
  | .switchRouteRefusal ..
  | .switchMcrPacket ..
  | .replyArrive ..
  | .switchQueueTimeout ..
  | .dropNoticeArrive ..
  | .dropResendTimer ..
  | .channelAllowanceCharge ..
  | .allowanceWaitEnd ..
  | .alwdlTimeout ..
  | .collEntryStep ..
  | .openingRendezvous ..
  | .collCardStep ..
  | .closingRendezvous ..
  | .engineLost .. => 0

/-- The word of an instruction with chain bit `c` and sync marker `s` (R26). -/
def encode (c s : Bool) (i : Instr) : Word :=
  .ofNat 32 (c.toNat * 2147483648 + s.toNat * 1073741824 + i.body)

end Sys2Proof
end

