-- ==== Sys2Proof/Machine/Float.lean ====
section
/-! DEFINITION. Floating-point numbers and their one rounding (R50-R59): exact values as a sign, a magnitude
`man x 2^exp` and a sticky bit for what lies below, the wide and narrow formats, and the flags of %fflags. -/

namespace Sys2Proof.Fp

/-! ## Flags (R55) -/

def fNV : Word := 0x01
def fDZ : Word := 0x02
def fOF : Word := 0x04
def fUF : Word := 0x08
def fNX : Word := 0x10
def fCV : Word := 0x20
def fNF : Word := 0x40

/-! ## Values -/

/-- A decoded floating-point value. `fin neg man exp` with `man > 0` stands for (-1)^neg x man x 2^exp. -/
inductive FVal where
  | nan (signalling : Bool)
  | inf (neg : Bool)
  | zero (neg : Bool)
  | fin (neg : Bool) (man : Nat) (exp : Int)
  deriving DecidableEq, Repr

/-- An IEEE-like format: exponent bits, fraction bits, bias (R50, R61). `ieee` says that the top exponent holds
infinities and NaNs; `sign` that there is a sign bit. With `ebits = 0` the code is scaled fixed point. -/
structure Fmt where
  ebits : Nat
  mbits : Nat
  bias : Int
  ieee : Bool := true
  sign : Bool := true
  deriving DecidableEq, Repr

def fp32 : Fmt := ⟨8, 23, 127, true, true⟩
def bf16 : Fmt := ⟨8, 7, 127, true, true⟩
def fp16 : Fmt := ⟨5, 10, 15, true, true⟩

/-- Decodes a code (R50, R61). -/
def Fmt.unpack (f : Fmt) (w : Nat) : FVal :=
  let frac := w % 2 ^ f.mbits
  let e := w / 2 ^ f.mbits % 2 ^ f.ebits
  let neg := f.sign && w / 2 ^ (f.mbits + f.ebits) % 2 == 1
  if f.ebits = 0 then
    if frac = 0 then .zero false else .fin neg frac (-f.bias)
  else if f.ieee && e == 2 ^ f.ebits - 1 then
    if frac = 0 then .inf neg
    else .nan (frac / 2 ^ (f.mbits - 1) % 2 == 0)
  else if e = 0 then
    if frac = 0 then .zero neg else .fin neg frac (1 - f.bias - f.mbits)
  else .fin neg (frac + 2 ^ f.mbits) (e - f.bias - f.mbits)

/-- The canonical quiet NaN of a wide format (R51). -/
def Fmt.nanCode (f : Fmt) : Nat :=
  (2 ^ f.ebits - 1) * 2 ^ f.mbits + 2 ^ (f.mbits - 1)

def Fmt.signBit (f : Fmt) (neg : Bool) : Nat :=
  if neg && f.sign then 2 ^ (f.mbits + f.ebits) else 0

def Fmt.infCode (f : Fmt) (neg : Bool) : Nat :=
  f.signBit neg + (2 ^ f.ebits - 1) * 2 ^ f.mbits

/-- Magnitude code of the largest finite value (R61). -/
def Fmt.maxMag (f : Fmt) : Nat :=
  if f.ieee && f.ebits != 0 then (2 ^ f.ebits - 1) * 2 ^ f.mbits - 1 else 2 ^ (f.ebits + f.mbits) - 1

/-- The input is subnormal in its format. -/
def Fmt.isSub (f : Fmt) (w : Nat) : Bool :=
  f.ebits != 0 && w / 2 ^ f.mbits % 2 ^ f.ebits == 0 && w % 2 ^ f.mbits != 0

/-- Decodes an operand of a wide format under FTZ (R57): a subnormal reads as zero of its sign. -/
def Fmt.read (f : Fmt) (ftz : Bool) (w : Nat) : FVal :=
  match f.unpack w with
  | .fin neg m e => if ftz && f.isSub w then .zero neg else .fin neg m e
  | x => x

/-! ## Rounding (R58, R59) -/

/-- A rounding mode with what it needs: stochastic rounding holds the 16 bits u of R59. -/
inductive Mode where
  | rne | rz | rdn | rup | rna
  | rsto (u : Nat)
  deriving DecidableEq, Repr

/-- An exact magnitude: man x 2^exp, plus something positive below one unit of `man` when `sticky`. -/
structure Exact where
  neg : Bool
  man : Nat
  exp : Int
  sticky : Bool := false
  deriving DecidableEq, Repr

/-- Whether the magnitude is rounded up: `odd` the parity of the retained value, `rem` the discarded part out of
2^`sh`, `st` whether anything lies below. -/
def Mode.up (m : Mode) (neg odd : Bool) (rem sh : Nat) (st : Bool) : Bool :=
  match m with
  | .rne => 2 ^ sh < 2 * rem || (2 * rem == 2 ^ sh && sh != 0 && (st || odd))
  | .rz => false
  | .rdn => neg && (rem != 0 || st)
  | .rup => !neg && (rem != 0 || st)
  | .rna => 2 ^ sh ≤ 2 * rem && sh != 0
  | .rsto u => decide (u < rem * 65536 / 2 ^ sh)

/-- The magnitude rounded to a multiple of 2^q: the multiple, and whether the rounding was inexact. -/
def Exact.roundAt (x : Exact) (m : Mode) (q : Int) : Nat × Bool :=
  if x.exp < q then
    let sh := (q - x.exp).toNat
    let r := x.man / 2 ^ sh
    let rem := x.man % 2 ^ sh
    (r + (m.up x.neg (r % 2 == 1) rem sh x.sticky).toNat, rem != 0 || x.sticky)
  else
    let r := x.man * 2 ^ (x.exp - q).toNat
    (r + (m.up x.neg (r % 2 == 1) 0 0 x.sticky).toNat, x.sticky)

/-- Exponent of the leading bit of a magnitude. -/
def Exact.lead (x : Exact) : Int := Nat.log2 x.man + x.exp

/-- Exponent of a format's smallest normal value. -/
def Fmt.emin (f : Fmt) : Int := 1 - f.bias

/-- Exponent of the last place that a value with leading exponent `e` keeps. -/
def Fmt.lastPlace (f : Fmt) (e : Int) : Int :=
  if f.ebits = 0 then -f.bias else max e f.emin - f.mbits

/-- The magnitude code of `m` units of 2^q, where q is a last place of the format. -/
def Fmt.codeAt (f : Fmt) (m : Nat) (q : Int) : Nat :=
  if f.ebits = 0 then m else (q + f.mbits + f.bias - 1).toNat * 2 ^ f.mbits + m

/-- Tiny after rounding: the value rounded as if the exponent range were unbounded lies below the smallest normal
(R57). A format with E = 0 has no subnormals (R63): nothing is tiny in it, and it raises no UF. (DESIGN CHOICE, log 113) -/
def Fmt.tiny (f : Fmt) (m : Mode) (x : Exact) : Bool :=
  decide (x.lead < f.emin) && f.ebits != 0 &&
    !(decide (x.lead = f.emin - 1) &&
      (x.roundAt m (x.lead - f.mbits)).1 == 2 ^ (f.mbits + 1))

/-- What an overflow returns in a format with infinities (R58). -/
def Fmt.overflow (f : Fmt) (m : Mode) (neg : Bool) : Nat :=
  let inf := match m with
    | .rz => false
    | .rdn => neg
    | .rup => !neg
    | _ => true
  if inf then f.infCode neg else f.signBit neg + f.maxMag

/-- One rounding of a non-zero exact value into a wide format, with its flags (R57, R58). -/
def Fmt.round (f : Fmt) (m : Mode) (ftz : Bool) (x : Exact) : Nat × Word :=
  let q := f.lastPlace x.lead
  let (r, inexact) := x.roundAt m q
  let c := f.codeAt r q
  if f.maxMag < c then (f.overflow m x.neg, fOF ||| fNX)
  else if ftz && c < 2 ^ f.mbits && c != 0 then (f.signBit x.neg, fUF ||| fNX)
  else
    (f.signBit x.neg + c,
      (if inexact then fNX else 0) ||| (if inexact && f.tiny m x then fUF else 0))

/-! ## Arithmetic on exact values -/

/-- Signed value of a magnitude at a common exponent. -/
def scaled (neg : Bool) (man : Nat) (exp q : Int) : Int :=
  let m : Int := man * 2 ^ (exp - q).toNat
  if neg then -m else m

/-- Exact sum of two finite non-zero values; none when it is zero. -/
def addExact (n1 : Bool) (m1 : Nat) (e1 : Int) (n2 : Bool) (m2 : Nat) (e2 : Int) : Option Exact :=
  let q := min e1 e2
  let s := scaled n1 m1 e1 q + scaled n2 m2 e2 q
  if s = 0 then none else some ⟨decide (s < 0), s.natAbs, q, false⟩

/-- Sign of an exact zero sum (R85). -/
def zeroSum (m : Mode) (n1 n2 : Bool) : Bool :=
  if n1 = n2 then n1 else m = .rdn

/-- NV for a signalling NaN operand (R51). -/
def snan : FVal → Word
  | .nan true => fNV
  | _ => 0

def isNan : FVal → Bool
  | .nan _ => true
  | _ => false

/-- Sum of two values, rounded once (R85, R86). -/
def Fmt.add (f : Fmt) (m : Mode) (ftz : Bool) (a b : FVal) : Nat × Word :=
  match a, b with
  | .nan _, _ => (f.nanCode, snan a ||| snan b)
  | _, .nan _ => (f.nanCode, snan a ||| snan b)
  | .inf n, .inf n' => if n = n' then (f.infCode n, 0) else (f.nanCode, fNV)
  | .inf n, _ => (f.infCode n, 0)
  | _, .inf n => (f.infCode n, 0)
  | .zero n, .zero n' => (f.signBit (zeroSum m n n'), 0)
  | .zero _, .fin n x e => f.round m ftz ⟨n, x, e, false⟩
  | .fin n x e, .zero _ => f.round m ftz ⟨n, x, e, false⟩
  | .fin n x e, .fin n' x' e' =>
    match addExact n x e n' x' e' with
    | none => (f.signBit (m = .rdn), 0)
    | some v => f.round m ftz v

/-- Negation of a value, for FSUB. -/
def FVal.negate : FVal → FVal
  | .nan s => .nan s
  | .inf n => .inf !n
  | .zero n => .zero !n
  | .fin n m e => .fin (!n) m e

/-- Exact product of two values, as a value; none for 0 x infinity. -/
def mulVal : FVal → FVal → Option FVal
  | .inf _, .zero _ => none
  | .zero _, .inf _ => none
  | .inf n, .inf n' => some (.inf (n != n'))
  | .inf n, .fin n' _ _ => some (.inf (n != n'))
  | .fin n _ _, .inf n' => some (.inf (n != n'))
  | .zero n, .zero n' => some (.zero (n != n'))
  | .zero n, .fin n' _ _ => some (.zero (n != n'))
  | .fin n _ _, .zero n' => some (.zero (n != n'))
  | .fin n m e, .fin n' m' e' => some (.fin (n != n') (m * m') (e + e'))
  | .nan s, _ => some (.nan s)
  | _, .nan s => some (.nan s)

/-- Product, rounded once (R86). -/
def Fmt.mul (f : Fmt) (m : Mode) (ftz : Bool) (a b : FVal) : Nat × Word :=
  if isNan a || isNan b then (f.nanCode, snan a ||| snan b)
  else match mulVal a b with
    | none => (f.nanCode, fNV)
    | some (.inf n) => (f.infCode n, 0)
    | some (.zero n) => (f.signBit n, 0)
    | some (.fin n x e) => f.round m ftz ⟨n, x, e, false⟩
    | some (.nan _) => (f.nanCode, 0)

/-- Fused a x b + c, rounded once (R85-R87). 0 x infinity sets NV even when the addend is a NaN. -/
def Fmt.fma (f : Fmt) (m : Mode) (ftz : Bool) (a b c : FVal) : Nat × Word :=
  if isNan a || isNan b then (f.nanCode, snan a ||| snan b ||| snan c)
  else match mulVal a b with
    | none => (f.nanCode, fNV)
    | some p => f.add m ftz p c

/-- Quotient, rounded once (R86). -/
def Fmt.div (f : Fmt) (m : Mode) (ftz : Bool) (a b : FVal) : Nat × Word :=
  if isNan a || isNan b then (f.nanCode, snan a ||| snan b)
  else match a, b with
    | .inf _, .inf _ => (f.nanCode, fNV)
    | .zero _, .zero _ => (f.nanCode, fNV)
    | .inf n, .zero n' => (f.infCode (n != n'), 0)
    | .inf n, .fin n' _ _ => (f.infCode (n != n'), 0)
    | .zero n, .inf n' => (f.signBit (n != n'), 0)
    | .fin n _ _, .inf n' => (f.signBit (n != n'), 0)
    | .zero n, .fin n' _ _ => (f.signBit (n != n'), 0)
    | .fin n _ _, .zero n' => (f.infCode (n != n'), fDZ)
    | .fin n x e, .fin n' x' e' =>
      let k := 64 + Nat.log2 x'
      f.round m ftz ⟨n != n', x * 2 ^ k / x', e - e' - k, x * 2 ^ k % x' != 0⟩
    | _, _ => (f.nanCode, 0)

/-- Integer square root by bits, from bit `k` down. -/
def isqrt (n : Nat) : Nat → Nat → Nat
  | 0, r => if (r + 1) * (r + 1) ≤ n then r + 1 else r
  | k + 1, r =>
    let t := r + 2 ^ (k + 1)
    isqrt n k (if t * t ≤ n then t else r)

/-- Floor of a square root. -/
def sqrtFloor (n : Nat) : Nat := isqrt n (Nat.log2 n / 2 + 1) 0

/-- Square root of man x 2^exp as an exact magnitude with at least 64 bits. -/
def sqrtExact (man : Nat) (exp : Int) : Exact :=
  let e2 := exp - 2 * 80
  let odd := e2 % 2 != 0
  let n := man * 2 ^ (160 + (if odd then 1 else 0))
  let r := sqrtFloor n
  ⟨false, r, (if odd then e2 - 1 else e2) / 2, r * r != n⟩

/-- Square root, correctly rounded (R90). -/
def Fmt.sqrt (f : Fmt) (m : Mode) (ftz : Bool) (a : FVal) : Nat × Word :=
  match a with
  | .nan _ => (f.nanCode, snan a)
  | .zero n => (f.signBit n, 0)
  | .inf false => (f.infCode false, 0)
  | .inf true => (f.nanCode, fNV)
  | .fin true _ _ => (f.nanCode, fNV)
  | .fin false x e => f.round m ftz (sqrtExact x e)

/-! ## Comparison and selection (R88, R89) -/

/-- A total key for the order of non-NaN FP32 codes, with -0 below +0. -/
def orderKey (w : Word) : Int :=
  if w.toNat < 0x80000000 then w.toNat else -(w.toNat - 0x80000000 : Nat) - 1

/-- The order of values, -0 equal to +0. -/
def valKey (w : Word) : Int :=
  if w.toNat < 0x80000000 then w.toNat else -(w.toNat - 0x80000000 : Nat)

/-- FTZ on a code that is returned as such: a subnormal becomes zero of its sign. -/
def flush (ftz : Bool) (w : Word) : Word :=
  if ftz && fp32.isSub w.toNat then w &&& 0x80000000 else w

def nan32 : Word := 0x7FC00000

def isNan32 (w : Word) : Bool := isNan (fp32.unpack w.toNat)

/-- NV when either code is a signalling NaN. -/
def snan2 (a b : Word) : Word := snan (fp32.unpack a.toNat) ||| snan (fp32.unpack b.toNat)

/-- Shared shape of FMIN, FMAX, FMINM and FMAXM: NaNs are passed over (R88). -/
def minMax (ftz : Bool) (pick : Word → Word → Word) (a b : Word) : Word × Word :=
  let a := flush ftz a
  let b := flush ftz b
  let fl := snan2 a b
  if isNan32 a && isNan32 b then (nan32, fl)
  else if isNan32 a then (b, fl)
  else if isNan32 b then (a, fl)
  else (pick a b, fl)

def pickMin (a b : Word) : Word := if orderKey a ≤ orderKey b then a else b
def pickMax (a b : Word) : Word := if orderKey a ≤ orderKey b then b else a

def mag (w : Word) : Nat := w.toNat % 0x80000000

def pickMinM (a b : Word) : Word :=
  if mag a < mag b then a else if mag b < mag a then b else pickMin a b
def pickMaxM (a b : Word) : Word :=
  if mag a < mag b then b else if mag b < mag a then a else pickMax a b

/-- Conditions of FCMP with their flags (R89). -/
def fcmp (k : FCond) (ftz : Bool) (a b : Word) : Bool × Word :=
  let a := flush ftz a
  let b := flush ftz b
  let un := isNan32 a || isNan32 b
  let fl := match k with
    | .lt => if un then fNV else 0
    | .le => if un then fNV else 0
    | _ => snan2 a b
  let eq := !un && valKey a == valKey b
  let lt := !un && decide (valKey a < valKey b)
  let r := match k with
    | .eq => eq
    | .ne => !eq
    | .lt => lt
    | .le => lt || eq
    | .un => un
    | .ord => !un
    | .ltu => un || lt
    | .leu => un || lt || eq
  (r, fl)

/-- FCLASS of the raw input (R88). -/
def fclass (w : Word) : Word :=
  match fp32.unpack w.toNat with
  | .inf true => 0x001
  | .fin true _ _ => if fp32.isSub w.toNat then 0x004 else 0x002
  | .zero true => 0x008
  | .zero false => 0x010
  | .fin false _ _ => if fp32.isSub w.toNat then 0x020 else 0x040
  | .inf false => 0x080
  | .nan true => 0x100
  | .nan false => 0x200

/-! ## Stochastic seeds (R59) -/

/-- The three xorshift steps of R59. -/
def xorshift (s : Word) : Word :=
  let s := s ^^^ (s <<< 13)
  let s := s ^^^ (s >>> 17)
  s ^^^ (s <<< 5)

/-- The 16 bits u drawn from an advanced seed. (DEDUCED, log 28) -/
def draw (s : Word) : Nat := s.toNat % 65536

/-! ## Narrow formats and conversion (R60-R63) -/

/-- A narrow descriptor is valid (R60). -/
def nfValid (d : Word) : Bool :=
  let sg := d.toNat % 2
  let e := d.toNat / 2 % 16
  let m := d.toNat / 32 % 8
  let pol := d.toNat / 65536 % 4
  decide (2 ≤ sg + e + m) && decide (sg + e + m ≤ 8) && decide (e ≤ 8) && decide (pol ≤ 1)

/-- The format a valid descriptor describes (R60, R61). -/
def nfFmt (d : Word) : Fmt :=
  { ebits := d.toNat / 2 % 16
    mbits := d.toNat / 32 % 8
    bias := (BitVec.ofNat 8 (d.toNat / 256)).toInt
    ieee := d.toNat / 65536 % 4 == 0
    sign := d.toNat % 2 == 1 }

/-- Decodes a narrow code. With M = 0 and the IEEE-like policy the top exponent is an infinity (R61). R50 tells quiet and signalling
NaNs apart in the wide formats only; every narrow NaN is read as quiet. (DESIGN CHOICE, log 99) -/
def nfUnpack (d : Word) (w : Nat) : FVal :=
  let f := nfFmt d
  match f.unpack w with
  | .nan _ => .nan false
  | x => x

def Fmt.hasInf (f : Fmt) : Bool := f.ieee && f.ebits != 0
def Fmt.hasNan (f : Fmt) : Bool := f.ieee && f.ebits != 0 && f.mbits != 0

/-- Conversion into a narrow format (R61, R63). -/
def Fmt.toNarrow (f : Fmt) (m : Mode) (v : FVal) : Nat × Word :=
  match v with
  | .nan s =>
    if f.hasNan then ((2 ^ f.ebits - 1) * 2 ^ f.mbits + (2 ^ f.mbits - 1), if s then fNV else 0)
    else (f.maxMag, fNV ||| fNF)
  | .inf false => if f.hasInf then (f.infCode false, 0) else (f.maxMag, fNV ||| fNF)
  | .inf true =>
    if !f.sign then (0, fNV ||| fNF)
    else if f.hasInf then (f.infCode true, 0) else (f.signBit true + f.maxMag, fNV ||| fNF)
  | .zero n => (if n && f.sign && f.ebits != 0 then f.signBit true else 0, 0)
  | .fin n x e =>
    let y : Exact := ⟨n, x, e, false⟩
    let q := f.lastPlace y.lead
    let (r, inexact) := y.roundAt m q
    let c := f.codeAt r q
    let nx := if inexact then fNX else 0
    if n && !f.sign then
      if c = 0 then (0, nx ||| (if inexact && f.tiny m y then fUF else 0)) else (0, fNV ||| fCV)
    else if f.maxMag < c then
      if f.hasInf then (f.overflow m n, fOF ||| fNX)
      else (f.signBit n + f.maxMag, fOF ||| fNX ||| fCV)
    else
      ((if c = 0 && f.ebits == 0 then 0 else f.signBit n + c),
        nx ||| (if inexact && f.tiny m y then fUF else 0))

/-- Conversion to an integer of range lo to hi (R63); the result as an integer. -/
def toInt (lo hi : Int) (m : Mode) (v : FVal) : Int × Word :=
  match v with
  | .nan _ => (0, fNV)
  | .inf false => (hi, fNV)
  | .inf true => (if lo < 0 then lo else 0, fNV)
  | .zero _ => (0, 0)
  | .fin n x e =>
    let (r, inexact) := (⟨n, x, e, false⟩ : Exact).roundAt m 0
    let i : Int := if n then -(r : Int) else r
    if i < lo then (lo, fNV ||| fCV)
    else if hi < i then (hi, fNV ||| fCV)
    else (i, if inexact then fNX else 0)

/-- Conversion into a wide format (R63): a NaN becomes canonical. -/
def Fmt.ofVal (f : Fmt) (m : Mode) (ftz : Bool) (v : FVal) : Nat × Word :=
  match v with
  | .nan s => (f.nanCode, if s then fNV else 0)
  | .inf n => (f.infCode n, 0)
  | .zero n => (f.signBit n, 0)
  | .fin n x e => f.round m ftz ⟨n, x, e, false⟩

/-- An integer as a value (R63). -/
def ofInt (i : Int) : FVal :=
  if i = 0 then .zero false else .fin (decide (i < 0)) i.natAbs 0

/-- The source of an FCVT by its code (R62). -/
def cvtSrc (u : Nat) (ftz : Bool) (nf0 : Word) (x : Word) : FVal :=
  match u with
  | 0 => fp32.read ftz x.toNat
  | 1 => bf16.read ftz (x.toNat % 65536)
  | 2 => fp16.read ftz (x.toNat % 65536)
  | 3 => ofInt x.toInt
  | 4 => ofInt x.toNat
  | 5 => ofInt (x.extractLsb' 0 8).toInt
  | 6 => ofInt (x.extractLsb' 0 8).toNat
  | _ => nfUnpack nf0 (x.toNat % 256)

/-- The destination of an FCVT by its code: the register value under R53, and the flags (R62, R63). -/
def cvtDst (t : Nat) (ftz : Bool) (nf : Nat → Word) (m : Mode) (v : FVal) : Word × Word :=
  let wide (f : Fmt) : Word × Word := let r := f.ofVal m ftz v; (BitVec.ofNat 32 r.1, r.2)
  let int (lo hi : Int) : Word × Word := let r := toInt lo hi m v; (BitVec.ofInt 32 r.1, r.2)
  let nar (k : Nat) : Word × Word := let r := (nfFmt (nf k)).toNarrow m v; (BitVec.ofNat 32 r.1, r.2)
  match t with
  | 0 => wide fp32
  | 1 => wide bf16
  | 2 => wide fp16
  | 3 => int (-2147483648) 2147483647
  | 4 => int 0 4294967295
  | 5 => int (-32768) 32767
  | 6 => int 0 65535
  | 7 => int (-128) 127
  | 8 => int 0 255
  | 9 => nar 0
  | 10 => nar 1
  | 11 => nar 2
  | _ => nar 3

end Sys2Proof.Fp
end

