-- ==== Sys2Proof/Config.lean ====
section
/-! DEFINITION. What the spec leaves open and a chip fixes: free values. Each is a constant without a body, so that
nothing can be proved of its value; where the spec bounds the value, the operation that uses it keeps the bound
(Machine/Special.lean). notes/assumptions/2.md. -/

namespace Sys2Proof.Config

/-- For EX2 (R67): the input, in the order of FP32 values, from which on the upper of the two values bracketing an
inexact result is returned, for each lower value. Any monotone choice is such a function. -/
opaque ex2Cut : Word → Nat

/-- The same for LG2 (R67). -/
opaque lg2Cut : Word → Nat

/-- For RCP (R90): whether the upper of the two bracketing values is returned for an input. -/
opaque rcpUp : Word → Bool

/-- For RSQ (R90). -/
opaque rsqUp : Word → Bool

/-- For SIN, COS and TANH (R90): the value returned, where it lies within the entry's bound. -/
opaque sinVal : Word → Word
opaque cosVal : Word → Word
opaque tanhVal : Word → Word

/-- SHAKE256 with 512 bits of output (R292): named by the spec and defined outside it. -/
opaque shake256 : List Byte → BitVec 512

/-- The XMSS^MT signature of a report under a one-time index (R294): named by the spec and defined outside it. -/
opaque sign : Nat → List Byte → BitVec 512

/-- The digest of the certificate chain that GET_DIGESTS returns, and of the identity EEPROM's CERTD (R294, R299). -/
opaque certDigest : BitVec 512

/-- A fresh byte: the value of a byte whose contents the spec leaves open (bytes of an uncorrectable granule that a
host read returns, R287). -/
opaque freeByte : Nat → Byte

/-- A fresh word: %tinfo of a fetch fault whose word no one has read (R108). -/
opaque freeWord : Nat → Word

/-- Whether an uncorrectable error of the host's link leaves the link down (R286). -/
opaque linkDrops : Nat → Bool

/-- AES-256-GCM (R302): the text that a frame carries and its 16-byte tag, under a key and a 96-bit nonce; named by the spec and defined
outside it. -/
opaque gcmText : BitVec 256 → BitVec 96 → List Byte → List Byte
opaque gcmTag : BitVec 256 → BitVec 96 → List Byte → BitVec 128

/-- The flits of a request packet and of a reply (R300), as a frame carries them; the spec does not give their layout. -/
opaque packetFlits : Packet → List Byte
opaque replyFlits : Packet → Reply → List Byte

/-- Where the firmware of boot stage 2 begins on each of the service cores (R285); the spec gives neither its place nor its words. -/
opaque firmwareEntry : Nat → BitVec 64

/-- The 32-bit identifier of a package's link to a plane (R302), by device and plane. -/
opaque linkId : Nat → Nat → BitVec 32

/-- What the host reads in a word of MGMT (R287): from the word's offset, the device, the boot stage reported and the measurements, all of
which MGMT holds in a layout that the spec does not give. -/
opaque mgmtWord : Nat → Nat → Nat → List (BitVec 512) → Word

end Sys2Proof.Config
end

