-- ==== Sys2Proof/Machine/State.lean ====
section
/-! DEFINITION. The state of the machine, all of it plain data: the groups and their slots (spec/01, 02, 05), the
cores (06), try regions (07), the buffers of the abstract machine (08), the clusters' rings, barriers and copy
channels (10), the matrix engine (11), the package memory (13), Colander regions (14), the records and queues of
scheduling (15), the host's registers and the package services (16), the fabric (17) and the collectives (19).
A `Table` is a list of keyed entries with strictly rising keys; a key not listed stands for the value the reader of
the table names. Groups are keyed 32 x core + group slot, cores 800 x die + 32 x cluster + core (R273), clusters
25 x die + cluster (R274). -/

namespace Sys2Proof.Machine

/-- A keyed list with strictly rising keys. -/
abbrev Table (α : Type) := List (Nat × α)

/-- A cause code of R115. -/
abbrev Cause := BitVec 7

/-! ## Group: registers and results -/

/-- A register that a result can name (R31). -/
inductive Reg where
  /-- Vector register. -/
  | v (n : Nat)
  /-- Shared scalar register. -/
  | s (n : Nat)
  /-- Member 0, 1 or 2 of the issuing slot's q14 bank (R18). -/
  | act (k : Nat)
  /-- Group special register by its number in R21. -/
  | spr (n : Nat)
  /-- %seed, one value a lane. -/
  | seed
  /-- %faddr, low or high word of each lane. -/
  | faddr (hi : Bool)
  /-- Member of %tmask. -/
  | tmask (k : Nat)
  /-- Member of %tdone. -/
  | tdone (k : Nat)
  deriving DecidableEq, Repr

/-- How an outstanding result changes its register when it lands: it replaces the value, ORs into it (%fflags, R55; a VALID bit of
%tfn that TMLD sets, R95), clears bits (%tfn, R68), adds to it (%lrep, R179). -/
inductive Landing where
  | set | or | and | add
  deriving DecidableEq, Repr

/-- An outstanding result (R31). `mask` holds the lanes still to land (bit 0 for a register of the group), `vals` a
value for each lane (one value for a register of the group). `src` is 0 once the value is known, and otherwise the
access or accumulator move that will supply it. -/
structure Result where
  slotB : Bool
  reg : Reg
  mask : Mask
  vals : List Word
  how : Landing
  src : Nat
  deriving DecidableEq, Repr

/-- The registers of a group that a try slot's checkpoint covers (R16-R21, R141), but for the q14 banks, which the
slots hold. -/
structure Regs where
  /-- v0-v127, each 96 lane values; absent: all zero (R20). -/
  v : Table (List Word) := []
  /-- s0-s63 without s56-s58; absent: zero. -/
  s : Table Word := []
  mode : Word := 1
  fflags : Word := 0
  tshape : Word := 0x10
  tfn : Word := 0
  seed : List Word := []
  nf : Table Word := []
  lrep : Word := 0
  allowth : Word := 0
  mcfg : Word := 0
  audit : Word := 0
  deriving DecidableEq, Repr

/-- The trap registers 0x20-0x27 (R105-R109). -/
structure TrapRegs where
  tcause : Word := 0
  tpc : Word := 0
  tmask : Mask := 0
  tdone : Mask := 0
  tinfo : Word := 0
  faddr : List Dword := []
  trepi : Word := 0
  ttask : Word := 0
  deriving DecidableEq, Repr

/-- The class of a cause (R103). -/
inductive Cls where
  | i | e | d | a
  deriving DecidableEq, Repr

/-- A cause a slot has raised and the trap state it will leave (R103, R105-R109). `pos` is the full word index of
the word that %tpc names, `resume` the resume point of R103. -/
structure Raised where
  cause : Cause
  cls : Cls
  slotB : Bool
  pos : Dword
  mask : Mask := 0
  done : Mask := 0
  info : Word := 0
  faddr : List Dword := []
  repi : Nat := 0
  resume : Dword := 0
  /-- The bundle that raised it, 0 for none. -/
  serial : Nat := 0
  deriving DecidableEq, Repr

/-! ## Slots -/

inductive SlotSt where
  | free | run | wait
  deriving DecidableEq, Repr

/-- The eight card kinds of the copy engine: R189 and R308. -/
inductive CardKind where
  | cpy | cpy2 | cpyt | cpyg | cpys | xwr | xrd | xred | xatom | xmlr | xmst
  deriving DecidableEq, Repr

/-- A write of a copy card whose bytes have been read and that is still to be performed (R159, R169): scratchpad or not, address, bytes
that lie in one line, and the bytes it counts. -/
structure CardWrite where
  bank : Bool
  adr : Nat
  bytes : List Byte
  count : Nat
  deriving DecidableEq, Repr

/-- A job card as captured at its post (R186, R307). Scratchpad addresses in `words` are cluster addresses. -/
structure Card where
  id : Nat := 0
  kind : CardKind := .cpy
  words : List Word := []
  ctx : Nat := 0
  /-- Posting group's key, none for a card fired by a counter (R320). -/
  grp : Option Nat := none
  wg : Option Nat := none
  pos : Dword := 0
  ttask : Word := 0
  widb : Dword := 0
  /-- Tensor descriptor (R194), rounding and narrow descriptor of CPYT captured at issue. -/
  desc : BitVec 256 := 0
  rm : BitVec 3 := 0
  nf : Word := 0
  /-- Translated target of a remote card (R304): device, context, PA of the first byte. -/
  dev : Nat := 0
  tctx : Nat := 0
  pa : Nat := 0
  /-- Remote address, or MCR offset, of byte 0 (R300). -/
  ra : Nat := 0
  /-- It has left its group's issue queue (R168). -/
  left : Bool := false
  admitted : Bool := false
  /-- Bytes written or acknowledged so far. -/
  done : Nat := 0
  /-- How far the engine has read a copy card: bytes, elements or rows; the lines read for the parts from there on, or for the packets
  still to be sent, each with its part's or packet's offset; the writes that what it has read makes, in the order they are performed. -/
  taken : Nat := 0
  seen : List (Nat × Bool × Nat × List Byte) := []
  buf : List CardWrite := []
  /-- Ring slots taken at admission (R184): first sequence numbers and counts. -/
  inSeq : BitVec 16 := 0
  inCnt : Nat := 0
  outSeq : BitVec 16 := 0
  outCnt : Nat := 0
  /-- Units charged so far and members charged (R314). -/
  charged : Nat := 0
  devs : List Nat := []
  /-- Packets still to send, as (offset, length). -/
  toSend : List (Nat × Nat) := []
  /-- Packets acknowledged, as (offset, length). -/
  acked : List (Nat × Nat) := []
  npkts : Nat := 0
  /-- Reply data gathered for XMLR, XRD and XATOM, as (offset, bytes), and how many bytes of the first have been written locally. -/
  got : List (Nat × List Byte) := []
  wrote : Nat := 0
  flags : BitVec 7 := 0
  /-- 1 while a landing write waits for its row (R311), 2 once the row is known. -/
  land : Nat := 0
  cause : Cause := 0
  gone : List Nat := []
  deriving DecidableEq, Repr

/-- The operations of the matrix engine (R207-R214). -/
inductive MatKind where
  | mma | mloop | mzero | mzeroRel | mlda | msta | mav | mva
  deriving DecidableEq, Repr

/-- A matrix operation from its post to its completion (R205). -/
structure MatOp where
  id : Nat := 0
  grp : Nat := 0
  slotB : Bool := false
  pos : Dword := 0
  kind : MatKind := .mma
  stream : Nat := 0
  ctl : Word := 0
  aH : Dword := 0
  bH : Dword := 0
  /-- Implicit footprint: whether written, cluster address, length (R206). -/
  foot : List (Bool × Nat × Nat) := []
  /-- Register operands, row by row, 16 words each (R202). -/
  aRegs : List (List Word) := []
  bRegs : List (List Word) := []
  mcfg : Word := 0
  gen : Nat := 0
  kcnt : Nat := 1
  step : Nat := 0
  ainc : Int := 0
  binc : Int := 0
  aRing : Option Nat := none
  bRing : Option Nat := none
  aSeq : BitVec 16 := 0
  bSeq : BitVec 16 := 0
  done : Word := 0
  /-- Scratchpad address of MLDA and MSTA, ring form included (R213). -/
  addr : Word := 0
  /-- Slice start, lanes and values of MAV and MVA (R214). -/
  cell : Nat := 0
  lanes : Mask := 0
  vals : List Word := []
  /-- Team operation: team number, position, T and the operation's number since the join (R221). -/
  team : Option Nat := none
  tpos : Nat := 0
  tsize : Nat := 0
  tnum : Nat := 0
  /-- Word 5 of the loop card, which the members of a team agree on whole (R221). -/
  w5 : Word := 0
  /-- REP iteration, bundle and resume point of its word, for a cause of class E (R103). -/
  repi : Nat := 0
  serial : Nat := 0
  resume : Dword := 0
  /-- Its place among the posts of the cluster's cards and operations, taken when it is posted (R169, R206). -/
  posted : Nat := 0
  /-- It has left its group's issue queue, or reads and writes no scratchpad (R206). -/
  left : Bool := false
  admitted : Bool := false
  deriving DecidableEq, Repr

/-- Why a slot is parked (R123) by a word of its own. A marked bundle, a trap, fault service, a frozen page and a
fence park the whole group and are read from the group's fields. -/
inductive ParkWhy where
  /-- BARWT or BARAW on the cluster's barrier `b` (R139); `arg` is 1 while the arrival of BARAW is still to come. -/
  | barrier (b : Nat)
  /-- RGINIT, RGACQ or RGWAIT on the cluster's ring `r` (R182). -/
  | ring (r : Nat)
  /-- A post to a full channel queue (R185). -/
  | queueFull (ch : Nat)
  /-- CPYWT on a channel (R190). -/
  | copyWait (ch : Nat)
  /-- A post to a full matrix queue, a 17th accumulator move (R205, R214). -/
  | matrixRoom
  /-- MWAIT, MSYNC, MAUD, MLEAVE (R215, R220, R222). -/
  | matrixWait
  /-- XWAIT on a counter (R322). -/
  | counter (c : Nat)
  /-- Allowance wait of a card (R316). -/
  | allowance
  /-- TRY waiting for a release, for the other slot or for a try slot (R141, R142). -/
  | tryWait
  /-- COMMIT waiting as after a marked bundle (R156). -/
  | commitWait
  /-- A return of R114 waiting as after a marked bundle, or for stream 7 (R113). -/
  | returnWait
  /-- A word of major 0x1C waiting for its completion at the region's home (R255). -/
  | colander
  /-- A word that reads a structure in memory at its issue, and whose page at `va` firmware is looking at (R95, R229). -/
  | service (va : Nat)
  deriving DecidableEq, Repr

/-- A slot parked inside the word `word` at `pos`: the word goes on when its condition holds. `arg` keeps what the
word read at issue: a barrier phase, a threshold, the position waited for. -/
structure Park where
  why : ParkWhy
  word : Instr
  pos : Dword
  lanes : Mask := 0
  arg : Word := 0
  arg2 : Word := 0
  /-- Number of the outstanding result that the word's destination waits for, 0 for none. -/
  id : Nat := 0
  serial : Nat := 0
  repi : Nat := 0
  /-- The card or the matrix operation that the word read at issue and has still to post. -/
  card : Option Card := none
  mat : Option MatOp := none
  deriving DecidableEq, Repr

/-- A bundle, or one iteration of a REP (R44), that issues next or has been chosen and not executed yet. `pos` is the
word index of the first of `words`; `later` holds the further iterations of its REP, which issue at `repPos`. (DESIGN CHOICE, log 3) -/
structure Issue where
  grp : Nat
  slotB : Bool
  pos : Dword
  words : List DWord
  /-- Where the slot goes on after the bundle if no word moves control. -/
  next : Dword
  marked : Bool
  serial : Nat
  /-- Lanes the words act on. -/
  lanes : Mask
  /-- Lanes that an earlier issue of the word has performed (R114). -/
  done : Mask := 0
  repi : Nat := 0
  later : List DWord := []
  repPos : Dword := 0
  /-- The slot's place is already fixed (a return, a rollback, an earlier iteration). -/
  gone : Bool := false
  /-- Reissued by REPLAY: its own control transfer is not taken. -/
  replay : Bool := false
  /-- The page that firmware has declined to map for a read that the word makes at its issue (R229). -/
  declined : Option Nat := none
  deriving DecidableEq, Repr

/-- A program-counter slot (R11). `active` governs the lanes that words act on; `bank` is the register value of the
slot's q14, which governs from the next packet onwards (R18). -/
structure Slot where
  st : SlotSt := .free
  pc : Dword := 0
  owned : Mask := 0
  active : Mask := 0
  bank : Mask := 0
  point : Option Dword := none
  /-- Return stack, top first (R97). -/
  rstack : List Dword := []
  park : Option Park := none
  /-- The held cause of R102. -/
  pend : Option Raised := none
  /-- The next iteration of a REP in progress. -/
  rep : Option Issue := none
  /-- q14 as the words of a REP's bundle read it, where BRM or CALLI of that bundle has changed the slot's lanes and iterations are left
  (R30, R44). -/
  repBank : Option Mask := none
  /-- A word that REPLAY was to reissue when the slot took another trap (R102, R114). -/
  kept : Option Issue := none
  /-- The word in which the slot was parked when it took a trap of class D or A (R103, R142, R172). -/
  keptPark : Option Park := none
  /-- Hang clock in cycles of 1 ns (R123). -/
  hang : Nat := 0
  /-- RTT.step armed (R114). -/
  step : Bool := false
  cychi : Word := 0
  /-- SEQ of %ttask (R109). -/
  seq : BitVec 12 := 0
  /-- Number of the slot's last issue, to order the two slots (R122). -/
  last : Nat := 0
  deriving DecidableEq, Repr

/-! ## Accesses -/

/-- Read-modify-write operations of R133 and R135. -/
inductive AtOp where
  | add | min | max | and | or | xor | xchg | cas
  | add64 | min64 | max64 | cas64 | fadd | fadd2bf | fmin | fmax
  deriving DecidableEq, Repr

/-- One contiguous part of one lane's access. `lane` 96 stands for an access of the whole group (LDS, STS). `addr` is
a virtual address, or 2^18 x core + byte for a scratchpad; `off` is where the part lies in the lane's datum. -/
structure Piece where
  lane : Nat
  addr : Nat
  len : Nat
  off : Nat := 0
  data : List Byte := []
  ops : List Word := []
  /-- Base of the Colander window that the core's table held for the address when the word issued (R246, R256). -/
  win : Option Nat := none
  deriving DecidableEq, Repr

/-- What an access does at its home (R161). -/
inductive AccKind where
  | load (z : Size)
  | store
  | atomic (op : AtOp)
  | red (op : AtOp)
  /-- SKQV (R263). -/
  | skqv
  /-- SKSTAT (R261). -/
  | skstat
  deriving DecidableEq, Repr

/-- The fields of a queued continuation record (R269) that a pantry keeps, whether the checks of R347 are still due, and
for them the offset of the first field of the record that breaks them. -/
structure PRec where
  jadr : Dword := 0
  ext : Dword := 0
  frame : Dword := 0
  code : Dword := 0
  wlo : Dword := 0
  wcnt : Nat := 0
  save : Dword := 0
  ctx : Nat := 0
  prio : Nat := 0
  kind : Nat := 0
  lch : Bool := false
  check : Bool := false
  bad : Option Nat := none
  deriving DecidableEq, Repr

/-- Words of major 0x1C that complete at a region's home (R255). -/
inductive SkOp where
  | skdef | undef | merge | fold | clr | snap
  deriving DecidableEq, Repr

/-- What an entry of an issue queue stands for (R159). -/
inductive EntryBody where
  /-- A memory access; `bank` for scratchpad addresses. -/
  | mem (kind : AccKind) (bank : Bool) (ps : List Piece)
  /-- CCLEAN, CINV, CFLUSH, PREF: `x` 0-3, level, start, length (R136). -/
  | maint (x : Nat) (lvl : Nat) (va : Nat) (len : Nat)
  | fence (k : FKind) (p : Scope) (strict : Bool)
  /-- A copy or remote card, by its number, that channel `ch` of cluster `cl` holds already. -/
  | card (cl ch : Nat) (id : Nat)
  /-- An arrival at barrier `b` of cluster `cl`, by BARARV or by BARAW (R139). -/
  | arrive (cl b : Nat) (wait : Bool)
  /-- RGPUB or, `rel`, RGREL of `n` slots from `k` on ring `r` of cluster `cl` (R182). -/
  | publish (cl r : Nat) (rel : Bool) (k : BitVec 16) (n : Nat)
  /-- An armed card (R319). -/
  | trig (cl ch : Nat) (c : Card) (cnt : Nat) (t : Word)
  /-- XCNT on a counter (R321). -/
  | xcnt (cnt : Nat) (isAdd : Bool) (b : Word) (d : Nat)
  /-- COLL: block address, ticket, the block with its completion word resolved (R334). -/
  | coll (va : Nat) (blk : List Byte) (compl ticket ttask : Word)
  /-- A matrix operation that reads or writes scratchpad, by its number, in its core's engine queue already. -/
  | mat (core id : Nat)
  /-- SPAWN and SPAWNR: the record to push (R276). -/
  | spawn (r : PRec)
  /-- JDEC of the record at an address, with the level of the entry reserved for it (R276). -/
  | jdec (va lv : Nat)
  | sk (op : SkOp) (base : Nat) (arg : Nat)
  deriving DecidableEq, Repr

/-- An entry of an issue queue (R159, R162). `serial` names the bundle it came from; `resume` is the resume point
of R103 for that bundle. -/
structure Entry where
  id : Nat
  serial : Nat
  slotB : Bool
  pos : Dword
  resume : Dword
  repi : Nat
  opc : BitVec 6
  body : EntryBody
  /-- Lanes done by an earlier issue of the word (R114). -/
  done : Mask := 0
  /-- Lanes that the address checks of the word have refused, with cause and address (R132). -/
  bad : List (Nat × Cause × Nat) := []
  /-- First destination register of a value-returning access. -/
  dst : Nat := 0
  /-- For a release part at cluster scope or wider: write-backs with lower numbers are those it waits for; 0 until the context's
  dirty bytes have been moved (R165). -/
  moved : Nat := 0
  /-- Issued by a trap handler (R172; log 92). -/
  handler : Bool := false
  /-- Rows that a merge has done, and whether one of them has brought a counter to MAX (R258). -/
  row : Nat := 0
  sat : Bool := false
  deriving DecidableEq, Repr

/-- An access that has left its issue queue and whose responses are still to arrive. `left` counts the responses;
`got` holds data as (lane, offset, bytes); `bad` the lanes refused, with cause and address; `serviced` marks an access whose lanes
firmware is looking at (R229). -/
structure Flight where
  entry : Entry
  left : Nat
  got : List (Nat × Nat × List Byte) := []
  bad : List (Nat × Cause × Nat) := []
  serviced : Bool := false
  deriving DecidableEq, Repr

/-- How far the replay of a faulted access has come: its trap is still to be taken, its handler runs, REPLAY has been executed. -/
inductive ReplayAt where
  | raised | handled | due
  deriving DecidableEq, Repr

/-- A faulted access whose replay is pending (R172): the word that issued it and its bundle, the number of the access, and the pieces
of the lanes that have not performed. -/
structure Replay where
  slotB : Bool
  pos : Dword
  repi : Nat
  serial : Nat
  id : Nat
  bank : Bool
  ps : List Piece
  stage : ReplayAt := .raised
  deriving DecidableEq, Repr

/-! ## Try regions and fences -/

/-- What a try slot's checkpoint holds (R138, R141). `out` keeps the results still outstanding at a speculative
fence, `trapRegs` the trap registers, which a handler may write past its fence. -/
structure Ckpt where
  regs : Regs
  trapRegs : TrapRegs := {}
  a : Slot
  b : Slot
  out : List Result := []
  deriving DecidableEq, Repr

/-- One buffered byte of a region's write set, in buffer order: scratchpad or not, address, lane, value (R145). -/
structure BufByte where
  bank : Bool
  addr : Nat
  lane : Nat
  val : Byte
  deriving DecidableEq, Repr

/-- An open try region (R141-R156). -/
structure TryRegion where
  depth : Nat
  /-- First access number of the region. -/
  startId : Nat
  laneMode : Bool
  slotB : Bool
  target : Dword
  savedPoint : Option Dword
  ckpt : Ckpt
  /-- Whether the other slot was FREE at the TRY (R144). -/
  otherFree : Bool
  shadow : Table (List Word) := []
  buf : List BufByte := []
  /-- Speculative versions in LLC slices: lines beyond the buffer's 64 (R146). -/
  versions : List Nat := []
  /-- A conflict has reached the group (R152). -/
  conflict : Bool := false
  /-- Rollback lanes so far (R153). -/
  roll : Mask := 0
  /-- Forwardings (reader lane, writer lane) from the buffer (R153). -/
  fwd : List (Nat × Nat) := []
  /-- A word that combines lanes has executed (R153). -/
  combined : Bool := false
  /-- For COMMIT: write-backs with lower numbers are those it waits for; 0 until the context's dirty bytes have been moved (R157). -/
  moved : Nat := 0
  deriving DecidableEq, Repr

/-- A pending speculative fence (R138, R166). -/
structure SpecFence where
  id : Nat
  /-- The bundle of the fence: the checkpoint is taken at its end. -/
  serial : Nat
  ckpt : Ckpt
  /-- A watched line has been invalidated. -/
  roll : Bool := false
  deriving DecidableEq, Repr

/-- A group (spec/01). -/
structure Group where
  wg : Nat := 0
  /-- Index j within the work-group (R24). -/
  idx : Nat := 0
  a : Slot := {}
  b : Slot := {}
  regs : Regs := {}
  trapRegs : TrapRegs := {}
  /-- Privileged mode, and the slot whose handler runs (R110). -/
  priv : Bool := false
  privB : Bool := false
  /-- Class of the trap being handled is I (R114). -/
  privI : Bool := false
  /-- Resume word of the handled trap is in the save area; the trap waiting for delivery (R102). -/
  trap : Option Raised := none
  /-- Entries on the divergence stack (R15). -/
  dsp : Nat := 0
  out : List Result := []
  /-- How many of the newest of them the words of the bundle in execution have posted: its other words read older values (R30). -/
  hid : Nat := 0
  /-- Parked by a sync marker (R32). -/
  sync : Bool := false
  queue : List Entry := []
  flights : List Flight := []
  /-- Class D causes returned and not yet taken (R103). -/
  deferred : List Raised := []
  /-- Faulted accesses that wait for their replay (R172). -/
  replays : List Replay := []
  /-- Shared scalars that slot A, and slot B, has written since the group's last marked bundle completed its wait (R19, R33). -/
  wroteA : List Nat := []
  wroteB : List Nat := []
  spec : Option SpecFence := none
  tryR : Option TryRegion := none
  /-- Status word and rollback mask that TSTAT reads (R154). -/
  tstat : Word := 0
  troll : Mask := 0
  /-- Skip count of R218. -/
  phi : BitVec 16 := 0
  /-- TMLD image address of each table pair this group loaded (R95, R281). -/
  tmld : Table Dword := []
  /-- All lanes have ended, or the work-group was ended by a cause of delivery Q. -/
  dead : Bool := false
  deriving DecidableEq, Repr

/-! ## Work-groups -/

/-- The kernel header's fields (R124). -/
structure Header where
  widths : List Nat := [32]
  priv : Nat := 0
  spad : Nat := 0
  callregs : Nat := 32
  place : Nat := 0
  dstack : Nat := 0
  groups : Nat := 1
  bars : Nat := 0
  latency : Bool := false
  vregs : Nat := 32
  handler : Dword := 0
  entry : Dword := 0
  deriving DecidableEq, Repr

/-- A resident work-group: its record of KIND 10 (R269), its header, its place. -/
structure Wg where
  ctx : Nat := 0
  core : Nat := 0
  hdr : Header := {}
  code : Dword := 0
  frame : Dword := 0
  ext : Dword := 0
  /-- Index WID >> B_p (R269). -/
  index : Dword := 0
  jadr : Dword := 0
  lch : Bool := false
  prio : Nat := 0
  spb : Nat := 0
  bb : Nat := 0
  privb : Dword := 0
  /-- Keys of the groups launched. -/
  groups : List Nat := []
  /-- Group slots held, launched or not (R127). -/
  slots : List Nat := []
  /-- A save has been asked for (R281), and it is for a throughput-class fault (R229). -/
  saving : Bool := false
  faulted : Bool := false
  /-- Ended by a cause of delivery Q: nothing resumes (R104). -/
  killed : Bool := false
  /-- At its end or save: write-backs with lower numbers are those it waits for; 0 until the dirty bytes have been moved (R173). -/
  moved : Nat := 0
  deriving DecidableEq, Repr

/-! ## Core -/

/-- A line of an L1 (R130). `groups` lists the group slots whose stores dirtied it (R241), `who` the group slot that stored each dirty
byte last (R163). -/
structure L1Line where
  ctx : Nat
  line : Nat
  valid : BitVec 128 := 0
  dirty : BitVec 128 := 0
  data : List Byte := []
  groups : List Nat := []
  who : Table Nat := []
  deriving DecidableEq, Repr

/-- Dirty bytes of an L1 line on their way to their home (R159, R163): a number, the line, its bytes, the group slots that dirtied the
line (R241), and the group that stored the bytes, if only one did (R151, R163). -/
structure WriteBack where
  id : Nat
  ctx : Nat
  line : Nat
  mask : BitVec 128
  data : List Byte
  groups : List Nat
  writer : Option Nat
  deriving DecidableEq, Repr

/-- An entry of the operand cache (R204), most recently used first in its list. -/
structure OpEntry where
  handle : Dword
  gen : Nat
  bytes : List Byte
  deriving DecidableEq, Repr

/-- A core (spec/06, 11, 15). -/
structure Core where
  /-- The package cycle in which the core last had an issue cycle (R21). -/
  cycles : Nat := 0
  l1 : List L1Line := []
  /-- Write-back queue (R159). -/
  wbq : List WriteBack := []
  spad : List Host.Cell := []
  /-- Accumulator rows of 128 cells; absent: all zero (R199). -/
  acc : Table (List Word) := []
  /-- Owner work-group of each owned row (R200). -/
  rows : Table Nat := []
  /-- Rows whose release waits for operations to complete (R200). -/
  releasing : List (Nat × Nat) := []
  opCache : List OpEntry := []
  gen : Nat := 0
  mq : List MatOp := []
  /-- Stream last served by the engine, as 8 x group slot + stream (R205). -/
  lastStream : Nat := 0
  /-- Table pairs of the transformed mean: 514 words each (R95). -/
  tables : Table (List Word) := []
  /-- Round-robin order of each priority level, pointer first (R122); absent: 0 to 31 in order. -/
  rr : Table (List Nat) := []
  /-- Cycles that VA and VB stay occupied (R10, R29). -/
  busyA : Nat := 0
  busyB : Nat := 0
  /-- Pipe claims (pipe, group slot) of R122: 0 S, 1 VA, 2 VB, 3 M, 4 X. -/
  claims : List (Nat × Nat) := []
  /-- Deques of the pantry, by level, head first (R271). -/
  pantry : Table (List PRec) := []
  /-- Reserved entries of each deque (R276). -/
  reserved : Table Nat := []
  /-- Steal victim state; none until the first steal (R273). -/
  victim : Option Word := none
  /-- Victim of the outstanding steal request. -/
  stealReq : Option Nat := none
  /-- Waiting 256 ns after no work (R273). -/
  stealWait : Bool := false
  /-- Time each context has been resident without a break, in ns (R279). -/
  resid : Table Nat := []
  /-- Contexts whose slice has run out and that start nothing here for now (R279). -/
  sliced : List Nat := []
  /-- Team and position held, the work-group that joined, team operations posted since (R221, R222). -/
  team : Option (Nat × Nat) := none
  teamWg : Nat := 0
  teamOps : Nat := 0
  /-- An issue cycle is withheld (R296). -/
  withheld : Bool := false
  /-- The last issue cycle was withheld: at most one in two is (R296). -/
  rested : Bool := false
  deriving DecidableEq, Repr

/-! ## Cluster -/

/-- A named barrier (R139). `holder` is the work-group that was given it; `wide` the widest scope among bound cards
of the current phase, `last` that of the phase before (R170). -/
structure Barrier where
  tx : BitVec 32 := 0
  ph : Bool := false
  lflt : Bool := false
  cflt : Bool := false
  arr : Nat := 0
  expa : Nat := 0
  holder : Option Nat := none
  wide : Option Scope := none
  last : Option Scope := none
  deriving DecidableEq, Repr

/-- A ring (R180). -/
structure Ring where
  crel : BitVec 16 := 0
  cres : BitVec 16 := 0
  ppub : BitVec 16 := 0
  pres : BitVec 16 := 0
  lcnt : Nat := 0
  ssz : Nat := 0
  base : Nat := 0
  v : Bool := false
  ctx : Nat := 0
  markP : BitVec 64 := 0
  markC : BitVec 64 := 0
  owner : Nat := 0
  /-- Widest scope among the cards that have published or released slots here (R170). -/
  wide : Option Scope := none
  deriving DecidableEq, Repr

/-- A copy channel (R185, R191, R323). -/
structure Channel where
  queue : List Card := []
  pw : Word := 0
  wp : Word := 0
  halted : Bool := false
  cause : Cause := 0
  flags : BitVec 7 := 0
  xfc : BitVec 8 := 0
  drops : BitVec 8 := 0
  last : Cause := 0
  /-- Absence record and cause of the last PEERABS, for each context (R326, R342). -/
  absent : Table (BitVec 576 × Cause) := []
  /-- Fired cards that wait for room, for the quota or for allowance (R318, R319). -/
  fired : List Card := []
  /-- Widest scope among the cards that have moved WP (R170). -/
  wide : Option Scope := none
  deriving DecidableEq, Repr

/-- A team of co-operating cores (R222): context, size, cores by position. -/
structure Team where
  ctx : Nat
  size : Nat
  members : Table Nat
  deriving DecidableEq, Repr

structure Cluster where
  bars : Table Barrier := []
  rings : Table Ring := []
  chans : Table Channel := []
  teams : Table Team := []
  deriving DecidableEq, Repr

/-! ## Colander regions -/

/-- A defined region (R243-R246). `cfg` is the descriptor's word 0, `imin` its IMIN, `mult` its multipliers; counters
are keyed by position, absent: 0. -/
structure Region where
  cfg : Word := 0
  imin : Word := 0
  mult : List Word := []
  /-- SAT, UNDER and CLAMP (R261). -/
  sat : Bool := false
  under : Bool := false
  clamp : Bool := false
  merges : Nat := 0
  folds : Nat := 0
  nw : Int := 0
  counters : Table Nat := []
  deriving DecidableEq, Repr

/-! ## Context -/

inductive CtxSt where
  | run | drain | save | stopped | killed
  deriving DecidableEq, Repr

/-- A pinned window (R232-R235). -/
structure PinWin where
  start : Nat
  len : Nat
  fade : Nat := 255
  touched : Bool := false
  /-- Lines loaded and pinned in the background (R232). -/
  loaded : List Nat := []
  deriving DecidableEq, Repr

/-- An armed card (R318-R320). -/
structure Armed where
  cnt : Nat
  t : Word
  cl : Nat
  ch : Nat
  card : Card
  deriving DecidableEq, Repr

/-- Where an open collective stands (R335). -/
inductive CollPhase where
  | entry | opening | steps | exit | closing
  deriving DecidableEq, Repr

/-- An open collective of this package (R331-R337). -/
structure Coll where
  io : Nat
  group : Nat
  ticket : Word
  va : Nat
  blk : List Byte
  phase : CollPhase := .entry
  cause : Cause := 0
  flags : BitVec 7 := 0
  gone : BitVec 576 := 0
  /-- Entry fault of this member (R337). -/
  entryCause : Cause := 0
  /-- The card steps still to do, each as (is XMST, source offset, destination offset, bytes). -/
  todo : List (Bool × Nat × Nat × Nat) := []
  /-- What the step at hand has read and computed and has still to write: bytes and flags (R169, R337). -/
  buf : Option (List Byte × Word) := none
  /-- Bytes that the step at hand has read so far, and how many it has written. -/
  got : List Byte := []
  took : Nat := 0
  /-- Its card has been posted, with these units charged to these members (R314, R336). -/
  posted : Bool := false
  charged : Nat := 0
  devs : List Nat := []
  /-- The card's packets still to be performed, the data of the others' replies, each with its packet's offset, and the cause that the
  replies have come to. -/
  left : List (Nat × Nat) := []
  parts : List (Nat × List Byte) := []
  fault : Cause := 0
  /-- Cluster and completion word with its barrier resolved (R188, R331). -/
  cl : Nat := 0
  compl : Word := 0
  /-- Work-group, slot and word that posted it. -/
  wg : Nat := 0
  widb : Dword := 0
  ttask : Word := 0
  pos : Dword := 0
  deriving DecidableEq, Repr

/-- A launch taken and not yet counted in DONE (R266, R268). -/
structure LaunchSt where
  addr : Dword
  done : Bool
  deriving DecidableEq, Repr

/-- A range the host has mapped with MAP (R229, R291): start, length and the flags of its request. -/
structure MapRec where
  va : Nat
  len : Nat
  flags : Nat := 0
  deriving DecidableEq, Repr

/-- A saved work-group (R281): its record of KIND 10 and header, its groups in the order of their index, the states of
its barriers and its accumulator rows. The bytes of the save image are a view of it (Save.lean). (DESIGN CHOICE, log 50) -/
structure Image where
  no : Nat
  wg : Wg
  groups : List Group
  bars : List Barrier := []
  rows : List (Nat × List Word) := []
  spad : List Byte := []
  deriving DecidableEq, Repr

/-- A work-group saved for a fault (R229): the core whose pantry its record returns to, the record, and the addresses whose
pages its lanes wait for. -/
structure Held where
  core : Nat
  item : PRec
  vas : List Nat
  deriving DecidableEq, Repr

/-- A record of the device (R116, R289) that waits for its page of the error queue to be thawed (R242): kind, cause, WIDB, TPC, TTASK, TINFO. -/
structure HeldRecord where
  kind : Nat
  cause : Cause
  widb : Dword := 0
  tpc : Word := 0
  ttask : Word := 0
  tinfo : Word := 0
  deriving DecidableEq, Repr

/-- A context (spec/15, 16). -/
structure Ctx where
  st : CtxSt := .run
  /-- Stack-local frame of the root table (R227). -/
  root : Nat := 0
  maps : List MapRec := []
  privVa : Dword := 0
  privLen : Nat := 0
  savePool : Nat := 0
  /-- Channel-local frames of the save pool, in its order (R281, R291). -/
  saveFrames : List Nat := []
  tail : Word := 0
  head : Word := 0
  done : Word := 0
  lqbase : Dword := 0
  lqcfg : Word := 0
  eqbase : Dword := 0
  eqcfg : Word := 0
  eqtail : Word := 0
  eqhead : Word := 0
  eqlost : Word := 0
  /-- The queue configurations in use, and whether the next write of TAIL takes them (R288). -/
  cfgDue : Bool := true
  lqUse : Option (Dword × Word) := none
  eqUse : Option (Dword × Word) := none
  sched : Dword := 0x305000FA00FA0000
  fade : Nat := 10
  cset : BitVec 128 := 0xFFFFFFFFFFFFFFFFFFFFFFFFF
  reg : Table Word := []
  /-- Tokens taken from each bucket for requests that have still to use them, keyed as the regulator words (R236). -/
  granted : Table Nat := []
  place : Nat := 0
  launches : List LaunchSt := []
  /-- Save images in the context's save pool, by address (R281). -/
  images : Table Image := []
  held : List Held := []
  counters : Table Word := []
  armed : List Armed := []
  peer : Table (BitVec 128) := []
  pins : Table PinWin := []
  regions : Table Region := []
  /-- Collectives posted and completed on each MCR group (R334). -/
  tickets : Table Word := []
  collDone : Table Word := []
  colls : List Coll := []
  seq : BitVec 16 := 0
  /-- Records held back by a frozen page of the error queue, oldest first (R242). -/
  heldRecs : List HeldRecord := []
  deadline : Bool := false
  deriving DecidableEq, Repr

/-! ## The buffers between cores and homes (R159) -/

/-- A home (R160): the bank controller of a core, an LLC slice, the memory-side cache of a channel. -/
inductive Home where
  | bank (core : Nat)
  | llc (slice : Nat)
  | msc (chan : Nat)
  deriving DecidableEq, Repr

/-- Who watches a line that a request reads (R145, R166). -/
inductive WatchFor where
  | fence
  | region
  deriving DecidableEq, Repr

inductive ReqBody where
  /-- Reads a piece; `line` asks for the whole line to fill the L1. -/
  | read (p : Piece) (fill : Bool)
  | write (p : Piece)
  /-- One distinct address of an atomic or RED, its lanes in ascending order (R134). -/
  | atomic (op : AtOp) (red : Bool) (ps : List Piece)
  /-- Dirty bytes of an L1 line (R130). -/
  | wb (w : WriteBack)
  /-- A word's lanes on one Colander region (R248). -/
  | colander (base : Nat) (kind : AccKind) (ps : List Piece)
  /-- One line of a maintenance word below the L1 (R136). -/
  | maint (x : Nat) (lvl : Nat) (line : Nat)
  /-- A try region's probe of a page for writing (R147), with a watched read of the bytes for `lanes` where `rd` (R145,
  R149). -/
  | probe (p : Piece) (lanes : Mask) (rd wr : Bool)
  /-- A word of major 0x1C at its region's home: the next row of a merge, once read its source counters, and whether a
  row has brought a counter to MAX (R258). -/
  | sk (op : SkOp) (base arg row : Nat) (src : Option (List (Nat × Nat))) (sat : Bool)
  deriving DecidableEq, Repr

/-- A request on its way from a core to a home, in the order of issue. `fid` is the access it belongs to, 0 for a
write-back; `retries` counts retry responses of a frozen page (R242). -/
structure Req where
  core : Nat
  home : Home
  ctx : Nat
  grp : Nat
  fid : Nat
  body : ReqBody
  watch : Option WatchFor := none
  retries : Nat := 0
  /-- A base die has asked for a retry of this request because of refresh, that many times (R238). -/
  refresh : Nat := 0
  /-- Waiting for its re-queue after such a retry. -/
  requeue : Bool := false
  /-- Waiting for its next retry on a frozen page (R242). -/
  waiting : Bool := false
  deriving DecidableEq, Repr

inductive RespBody where
  | data (p : Piece) (bytes : List Byte)
  /-- A filled line for the L1. -/
  | fill (p : Piece) (line : Nat) (valid : BitVec 128) (bytes : List Byte)
  /-- Old values of an atomic, by lane. -/
  | olds (xs : List (Nat × List Byte))
  | ack
  /-- Lanes refused, with their cause and address; the lanes performed beside them with their values. -/
  | faults (bad : List (Nat × Cause × Nat)) (good : List (Nat × List Byte))
  /-- A merge refused at a row, with what its entry keeps of the rows before (R258). -/
  | stopped (c : Cause) (va row : Nat) (sat : Bool)
  deriving DecidableEq, Repr

/-- A response on its way to a core. `wb` is the number of the write-back that it acknowledges, 0 for none. -/
structure Resp where
  core : Nat
  grp : Nat
  fid : Nat
  ctx : Nat
  body : RespBody
  wb : Nat := 0
  deriving DecidableEq, Repr

/-- A watch over a line or granule of 128 bytes (R145, R163, R166). `lanes` are those whose loads used it. -/
structure Watch where
  bank : Bool
  ctx : Nat
  line : Nat
  grp : Nat
  what : WatchFor
  lanes : Mask
  hit : Bool := false
  deriving DecidableEq, Repr

/-- A line of the LLC (R225). -/
structure LlcLine where
  ctx : Nat
  line : Nat
  valid : BitVec 128 := 0
  dirty : BitVec 128 := 0
  data : List Byte := []
  deriving DecidableEq, Repr

/-! ## Fabric -/

/-- A request packet this package has sent and whose reply is outstanding (R312). -/
structure OutPkt where
  pkt : Packet
  cl : Nat
  ch : Nat
  plane : Nat
  /-- Remote address, for the choice of a plane; the units it holds of the allowance, and the devices charged (R300, R314). -/
  ra : Nat := 0
  units : Nat := 0
  devs : List Nat := []
  /-- Drops so far, and whether the packet waits for its resend (R313). -/
  drops : Nat := 0
  dropped : Bool := false
  /-- The drop notice has reached this package: the resend timer runs. -/
  noticed : Bool := false
  deriving DecidableEq, Repr

/-- NEXT and the map of numbers performed, for one (source, target, context) (R312). -/
structure SeqSt where
  next : Word := 0
  map : BitVec 256 := 0
  deriving DecidableEq, Repr

/-- Send allowance towards one device (R314). -/
structure Allow where
  cap : Nat := 4096
  out : Nat := 0
  unmarked : Nat := 0
  deriving DecidableEq, Repr

/-- One cached reply of a non-idempotent packet (R312). -/
structure CachedReply where
  src : Nat
  tctx : Nat
  seq : Word
  data : List Byte
  deriving DecidableEq, Repr

/-- Count of packets of a card with TC performed here (R309). -/
structure TcCount where
  src : Nat
  card : Nat
  seen : Nat
  deriving DecidableEq, Repr

/-- A link to a plane (R302): its key, the flits that have gone each way since training, and how many had when the key was agreed. -/
structure Link where
  key : BitVec 256 := 0
  keyed : Bool := false
  sent : Nat := 0
  received : Nat := 0
  sentAt : Nat := 0
  receivedAt : Nat := 0
  /-- Text of the last frame received, and frames taken whose packet, reply or notice is still to be taken from them. -/
  text : List Byte := []
  held : Nat := 0
  /-- The last frame sent. -/
  out : Option Frame := none
  /-- Frames discarded for a bad tag and awaiting a link-level resend. -/
  bad : Nat := 0
  deriving DecidableEq, Repr

/-! ## Package services -/

/-- A service core (R285): the register file, L1 and scratchpad of a compute core. It runs firmware in privileged mode only; what firmware
does are the firmware events. (DESIGN CHOICE, log 102) -/
structure ServiceCore where
  core : Core := {}
  groups : Table Group := []
  deriving DecidableEq, Repr

/-- The service request mailbox (R290). -/
structure Srq where
  req : List Host.Cell := []
  /-- The copy of REQ that firmware works on. -/
  cur : List Host.Cell := []
  rsp : List Byte := []
  seq : Word := 0
  dseq : Word := 0
  busy : Bool := false
  cfg : Word := 0
  deriving DecidableEq, Repr

/-- Steps of the eviction handshake (R298). -/
inductive EvictSt where
  | idle | prepare | copy | drain | release | failed (step : Nat)
  deriving DecidableEq, Repr

/-- The last answer on the SPDM mailbox (R294). -/
inductive SpdmResp where
  | none
  | version
  | capabilities
  | algorithms
  | digests (d : BitVec 512)
  | certificate
  | signed (index : Nat) (nonce : BitVec 256) (regs : List (BitVec 512)) (sig : BitVec 512)
  /-- A report without a signature: the one-time indices have run out. -/
  | unsigned (regs : List (BitVec 512))
  | error
  | unsupported
  deriving DecidableEq, Repr

/-- The answer to the host's last BAR2 access (R287). -/
inductive HostResp where
  | none
  | written
  | abort
  /-- Data, with the poisoned attribute. -/
  | data (bytes : List Byte) (ep : Bool)
  deriving DecidableEq, Repr

/-- One MSI-X message sent to the host: its vector (R286, R289). -/
abbrev Msix := Nat

/-- Reasons a step can stop. -/
inductive Fault where
  /-- Raised by the meaning of an instruction word that is run although no slot has issued it. `step` never does so:
  a word runs only in the bundle of a slot that ISSUE_CYCLE chose. Safe: the machine stops where the hardware has
  no such case. -/
  | noIssuingSlot
  deriving DecidableEq, Repr

/-- Reasons a step has no meaning in the model. -/
inductive Refusal where
  /-- Raised by exec's arm of an instruction that the model does not give a meaning. Safe: the machine stops. -/
  | notModelled (mnemonic : String)
  deriving DecidableEq, Repr

/-! ## The model's own fields -/

/-- The slot and word in execution: what the meaning of an instruction word acts for. (DESIGN CHOICE, log 3) -/
structure Cursor where
  grp : Nat
  slotB : Bool
  pos : Dword
  raw : Word
  /-- The lanes the word acts on: the slot's activity mask, or fewer under REPLAY (R114). -/
  lanes : Mask
  /-- Lanes that an earlier issue of the word has performed (R114). -/
  done : Mask := 0
  /-- V24 of a LIT before this word (R45). -/
  lit : Option (BitVec 24) := none
  repi : Nat := 0
  serial : Nat := 0
  /-- Where the slot goes on after the bundle if no word moves control. -/
  next : Dword := 0
  /-- The page that firmware has declined to map for a read of this word (R229). -/
  declined : Option Nat := none
  /-- The words of the bundle that have run: the place of each, and how many results it has posted (R30). -/
  posts : List (Dword × Nat) := []
  /-- A control transfer made by a word of this bundle. -/
  xfer : Option Dword := none
  /-- A word of the bundle has fixed the slot's place itself (EXIT, a rollback, a class I trap). -/
  gone : Bool := false
  /-- The rest of the bundle has no effect: its try region has been rolled back, or a class I cause was raised. -/
  void : Bool := false
  deriving DecidableEq, Repr

/-- The whole machine: one GRV-S9 package and, for its surroundings, what the fields of `Host interface` hold. -/
structure State where
  -- The model's own fields (log 1, 2, 3).
  /-- What the surroundings and the machine's agents do next, in order; empty: the default order of Step.lean. -/
  agenda : List Instr := []
  /-- Number of free values drawn so far: the argument of the opaque constants of Config. -/
  free : Nat := 0
  cursor : Option Cursor := none
  issued : List Issue := []
  /-- Source of numbers for accesses, bundles, cards and work-groups. -/
  nextId : Nat := 1
  -- Compute.
  /-- The package cycle count at 1 GHz (R21). -/
  cycles : Nat := 0
  groups : Table Group := []
  wgs : Table Wg := []
  cores : Table Core := []
  clusters : Table Cluster := []
  ctxs : Table Ctx := []
  -- Buffers between cores and homes (R159).
  reqs : List Req := []
  arrived : List Req := []
  resps : List Resp := []
  watches : List Watch := []
  -- Package memory (spec/13).
  /-- Memory-side caches and HBM4E as one store, by PA (R226, R303). -/
  mem : List Host.Cell := []
  llc : List LlcLine := []
  /-- Poisoned granules: PA / 32 (R240). -/
  poison : List Nat := []
  /-- The model's own field (log 37): granules whose stored bits have failed and that no read has found yet. The next read of one
  finds it uncorrectable. -/
  failed : List Nat := []
  /-- Errors that reads have corrected, counted for management (R240). -/
  corrected : Nat := 0
  /-- Channel-local frames handed out by firmware (R291). -/
  frames : List Nat := []
  /-- HBM rows and channels replaced by spares (R297). -/
  hbmSpared : List (Nat × Nat × Nat) := []
  -- Fabric (spec/17, 19).
  chip : Nat := 0
  planes : List Nat := []
  links : Table Link := []
  allow : Table Allow := []
  ranges : Table (BitVec 64) := []
  mcr : Table (BitVec 1024) := []
  members : Table (BitVec 128) := []
  /-- Next sequence number to use, keyed 2^16 x target + context (R312). -/
  sendSeq : Table Word := []
  /-- Sequence state of arrivals, keyed 2^16 x source + context. -/
  recvSeq : Table SeqSt := []
  rcache : List CachedReply := []
  pkts : List OutPkt := []
  tcs : List TcCount := []
  /-- Replies of this package to packets of others, newest first. -/
  replies : List (Nat × Word × Reply) := []
  /-- Device identifiers that packages of the domain hold, for which the planes have routes (R292, R305), and those of them that a failed
  package held and no standby has taken yet. -/
  routes : List Nat := []
  unrouted : List Nat := []
  -- Host and services (spec/16).
  /-- Boot stage reached; 5 once stage 4 has run (R292). -/
  boot : Nat := 0
  bootHalted : Bool := false
  meas : List (BitVec 512) := []
  policy : List (BitVec 512) := []
  memEncrypt : Bool := false
  /-- Physical cluster standing for each spare, by compute die (R293, R297). -/
  spare : List Nat := []
  /-- Dies whose spare has taken the place of a failed cluster. -/
  replaced : List Nat := []
  /-- Failed clusters for which no spare was left. -/
  lost : List Nat := []
  /-- Next one-time signing index; the indices run out at 2^40 (R294). -/
  signIndex : Nat := 0
  spdm : SpdmResp := .none
  alarm : Bool := false
  /-- PUF re-derivation refused until the next power cycle (R295). -/
  pufRefused : Bool := false
  /-- Device secrets derived (R293). -/
  secrets : Bool := false
  /-- Core islands whose clock is stopped, and supply voltages in mV set by firmware (R296). -/
  stopped : List Nat := []
  volts : Table Nat := []
  /-- The service cores, keyed 4 x service cluster + core (R285). -/
  services : Table ServiceCore := (List.range 8).map fun k => (k, {})
  /-- Failed service cores, as 4 x service cluster + core (R285). -/
  svcDown : List Nat := []
  linkUp : Bool := false
  /-- The field MSIX, table and pending bits, as written by the host, by byte of BAR0; the vectors held pending (R286, R287). -/
  msixTab : List Host.Cell := []
  msixPend : List Msix := []
  msixSent : List Msix := []
  apw : Table Dword := []
  srq : Srq := {}
  hostResp : HostResp := .none
  evict : EvictSt := .idle
  latchOk : Bool := false
  evNeighbour : Nat := 0
  evStandby : Nat := 0
  /-- Identity EEPROM bytes (R299) and the last byte read over I2C. -/
  eeprom : List Host.Cell := []
  eepromOut : Option Byte := none
  /-- Requests to the management controller: failures reported through MGMT (R285). -/
  mgmt : List Nat := []
  lanesSpared : List (Nat × Nat) := []
  deriving DecidableEq, Repr

/-- The machine right after reset (power-up): no context, no work, boot not begun. Every value the spec does not give
is in notes/assumptions/4.md. (DESIGN CHOICE, log 4) -/
def State.reset : State :=
  { meas := List.replicate 16 0 }

end Sys2Proof.Machine
end

