-- ==== Sys2Proof/Machine/Causes.lean ====
section
/-! DEFINITION. The 96 cause codes and their delivery (R104, R115). -/

namespace Sys2Proof.Machine.Code

def ILLOP : Cause := 0x00
def ILLPKT : Cause := 0x01
def ILLRM : Cause := 0x02
def REGBUD : Cause := 0x03
def ILLTRI : Cause := 0x04
def ILLREP : Cause := 0x05
def ILLLIT : Cause := 0x06
def PRIV : Cause := 0x07
def BKPT : Cause := 0x08
def SWTRAP : Cause := 0x09
def ILLMODE : Cause := 0x0A
def ILLTGT : Cause := 0x0B
def ILLSPR : Cause := 0x0C
def ILLFMT : Cause := 0x0D
def ILLFLD : Cause := 0x0E
def STEP : Cause := 0x0F
def FINV : Cause := 0x10
def FDZ : Cause := 0x11
def FOVF : Cause := 0x12
def FUNF : Cause := 0x13
def FINX : Cause := 0x14
def TDOM : Cause := 0x15
def TTAB : Cause := 0x16
def TOVF : Cause := 0x17
def CVTSAT : Cause := 0x18
def NFSPEC : Cause := 0x19
def SKSAT : Cause := 0x1A
def SKPAR : Cause := 0x1B
def SKDEL : Cause := 0x1C
def SKTYPE : Cause := 0x1D
def AUDIT : Cause := 0x1E
def MSHAPE : Cause := 0x1F
def PFNP : Cause := 0x20
def PFWP : Cause := 0x21
def PFX : Cause := 0x22
def ALIGN : Cause := 0x23
def SPBND : Cause := 0x24
def CSPBND : Cause := 0x25
def PBND : Cause := 0x26
def ECCU : Cause := 0x27
def POISON : Cause := 0x28
def RMWU : Cause := 0x29
def FROZEN : Cause := 0x2A
def SKADDR : Cause := 0x2B
def ATOMSP : Cause := 0x2C
def PINFULL : Cause := 0x2D
def NCADDR : Cause := 0x2E
def CMAINT : Cause := 0x2F
def DSOVF : Cause := 0x30
def DSBAD : Cause := 0x31
def RECONVX : Cause := 0x32
def CALLBUD : Cause := 0x33
def CALLSTK : Cause := 0x34
def RETEMPTY : Cause := 0x35
def TRYNEST : Cause := 0x36
def COMMITNT : Cause := 0x37
def BARBUD : Cause := 0x38
def BAROVF : Cause := 0x39
def RINGBAD : Cause := 0x3A
def JOINUF : Cause := 0x3B
def SPAWNQ : Cause := 0x3C
def WIDOVF : Cause := 0x3D
def EXITTRY : Cause := 0x3E
def HANG : Cause := 0x3F
def CPYFLT : Cause := 0x40
def CPYBND : Cause := 0x41
def CPYFMT : Cause := 0x42
def FOOTPR : Cause := 0x43
def MOPND : Cause := 0x44
def MACCOWN : Cause := 0x45
def MSTREAM : Cause := 0x46
def MJOINE : Cause := 0x47
def ENGQ : Cause := 0x48
def TRIGOVF : Cause := 0x49
def CNTBAD : Cause := 0x4A
def COLLPB : Cause := 0x4B
def COLLGRP : Cause := 0x4C
def MCFGBSY : Cause := 0x4D
def RINGOVR : Cause := 0x4E
def ENGDEAD : Cause := 0x4F
def PEERABS : Cause := 0x50
def PEERDENY : Cause := 0x51
def XTMO : Cause := 0x52
def XSEQ : Cause := 0x53
def XPOISON : Cause := 0x54
def XFULL : Cause := 0x55
def ALWDL : Cause := 0x56
def MCRGRP : Cause := 0x57
def XCRYPT : Cause := 0x58
def PREEMPT : Cause := 0x59
def EVICT : Cause := 0x5A
def SECALM : Cause := 0x5B
def HOSTERR : Cause := 0x5C
def LOSTWG : Cause := 0x5D
def CTXKILL : Cause := 0x5E
def MGMT : Cause := 0x5F

end Sys2Proof.Machine.Code

namespace Sys2Proof.Machine

/-- Where a cause is delivered (R104). -/
inductive Delivery where
  /-- To the group's handler. -/
  | h
  /-- To the context error queue; the work-group ends. -/
  | q
  /-- To the context error queue; the work-group goes on. -/
  | n
  /-- In the completion status of the engine card. -/
  | s
  /-- Context-wide. -/
  | c
  /-- Only as a try abort. -/
  | t
  deriving DecidableEq, Repr

/-- Delivery column of R115. -/
def delivery (c : Cause) : Delivery :=
  if [Code.HANG, Code.ENGDEAD, Code.LOSTWG].contains c then .q
  else if [Code.CPYFLT, Code.PEERABS, Code.PEERDENY, Code.XTMO, Code.XSEQ, Code.XPOISON, Code.XCRYPT].contains c then .n
  else if [Code.XFULL].contains c then .s
  else if [Code.EVICT, Code.SECALM, Code.HOSTERR, Code.CTXKILL, Code.MGMT].contains c then .c
  else if [Code.TRYNEST, Code.EXITTRY, Code.PREEMPT].contains c then .t
  else .h

end Sys2Proof.Machine
end

