-- ==== Sys2Proof/Machine/Memory.lean ====
section
/-! DEFINITION. Tables and cells, the page tables (R226-R228), and the places a byte can be: the store below the
LLC, the LLC's lines (R224, R225), the L1s (R130), the scratchpads (R176). Every wider access is built from bytes
here, lowest address first (R3). -/

namespace Sys2Proof.Machine

/-! ## Tables: keyed lists with strictly rising keys -/

def tget {α : Type} : Table α → Nat → Option α
  | [], _ => none
  | (k', v) :: r, k => if k' = k then some v else tget r k

/-- Sets a key, keeping the keys in rising order. -/
def tset {α : Type} : Table α → Nat → α → Table α
  | [], k, v => [(k, v)]
  | (k', v') :: r, k, v =>
    if k < k' then (k, v) :: (k', v') :: r
    else if k = k' then (k, v) :: r
    else (k', v') :: tset r k v

def tdel {α : Type} : Table α → Nat → Table α
  | [], _ => []
  | (k', v') :: r, k => if k' = k then r else (k', v') :: tdel r k

/-- The value at a key, or `d`. -/
def tgetD {α : Type} (t : Table α) (k : Nat) (d : α) : α := (tget t k).getD d

/-- Replaces element `k` of a list. -/
def setAt {α : Type} : List α → Nat → α → List α
  | [], _, _ => []
  | _ :: r, 0, v => v :: r
  | x :: r, k + 1, v => x :: setAt r k v

/-- Removes element `k` of a list. -/
def dropAt {α : Type} : List α → Nat → List α
  | [], _ => []
  | _ :: r, 0 => r
  | x :: r, k + 1 => x :: dropAt r k

/-! ## Cells: bytes by address; an unlisted address reads 0 -/

/-- What an address that nothing has written reads as (notes/assumptions/5.md). (DESIGN CHOICE, log 5) -/
def unlisted : Byte := 0

/-- DESIGN CHOICE, log 5. -/
def cell : List Host.Cell → Nat → Byte
  | [], _ => unlisted
  | (a', b) :: r, a => if a' = a then b else cell r a

/-- Writes one byte and keeps the canonical form: addresses strictly rising, no entry equal to `unlisted`. -/
def setCell : List Host.Cell → Nat → Byte → List Host.Cell
  | [], a, b => if b = unlisted then [] else [(a, b)]
  | (a', b') :: r, a, b =>
    if a < a' then if b = unlisted then (a', b') :: r else (a, b) :: (a', b') :: r
    else if a = a' then if b = unlisted then r else (a, b) :: r
    else (a', b') :: setCell r a b

/-- `n` bytes from an address up. -/
def cells (m : List Host.Cell) (a : Nat) : Nat → List Byte
  | 0 => []
  | n + 1 => cell m a :: cells m (a + 1) n

def setCells (m : List Host.Cell) (a : Nat) : List Byte → List Host.Cell
  | [] => m
  | b :: r => setCells (setCell m a b) (a + 1) r

/-- The canonical form of a list of cells: addresses strictly rising from `lo` on, no entry equal to `unlisted`. -/
def cellsFrom : Nat → List Host.Cell → Bool
  | _, [] => true
  | lo, (a, b) :: r => decide (lo ≤ a) && b != unlisted && cellsFrom (a + 1) r

/-- The form every memory of the machine keeps. -/
def Memory.wf (m : List Host.Cell) : Bool := cellsFrom 0 m

/-! ## Bytes and words (R3) -/

def leNat : List Byte → Nat
  | [] => 0
  | b :: r => b.toNat + 256 * leNat r

/-- The `n` low bytes of a number. -/
def leBytes : Nat → Nat → List Byte
  | 0, _ => []
  | n + 1, v => BitVec.ofNat 8 v :: leBytes n (v / 256)

def leWord (bs : List Byte) : Word := BitVec.ofNat 32 (leNat bs)
def leDword (bs : List Byte) : Dword := BitVec.ofNat 64 (leNat bs)

/-! ## Places: groups, cores, clusters, contexts -/

def coreOf (g : Nat) : Nat := g / 32
def clusterOf (core : Nat) : Nat := core / 32
def dieOf (core : Nat) : Nat := core / 800

def State.grp (s : State) (g : Nat) : Group := tgetD s.groups g {}
def State.setGrp (s : State) (g : Nat) (x : Group) : State := { s with groups := tset s.groups g x }
def State.core (s : State) (c : Nat) : Core := tgetD s.cores c {}
def State.setCore (s : State) (c : Nat) (x : Core) : State := { s with cores := tset s.cores c x }
def State.cluster (s : State) (c : Nat) : Cluster := tgetD s.clusters c {}
def State.setCluster (s : State) (c : Nat) (x : Cluster) : State := { s with clusters := tset s.clusters c x }
def State.wg (s : State) (w : Nat) : Wg := tgetD s.wgs w {}
def State.setWg (s : State) (w : Nat) (x : Wg) : State := { s with wgs := tset s.wgs w x }
def State.ctx (s : State) (c : Nat) : Ctx := tgetD s.ctxs c {}
def State.setCtx (s : State) (c : Nat) (x : Ctx) : State := { s with ctxs := tset s.ctxs c x }

/-- The context of a group. -/
def State.ctxOf (s : State) (g : Nat) : Nat := (s.wg (s.grp g).wg).ctx

def Group.slot (g : Group) (b : Bool) : Slot := if b then g.b else g.a
def Group.setSlot (g : Group) (b : Bool) (x : Slot) : Group := if b then { g with b := x } else { g with a := x }

/-- A fresh number. -/
def State.fresh (s : State) : Nat × State := (s.nextId, { s with nextId := s.nextId + 1 })

/-! ## Channels and frames (R226, R303) -/

/-- The channel that serves a virtual address. -/
def chanOf (va : Nat) : Nat := (va / 1024 % 256) ^^^ (va / 262144 % 256)

/-- PA of channel-local address `cla` of channel `ch` (R303). -/
def paOf (ch cla : Nat) : Nat := cla / 1024 * 262144 + ch % 256 * 1024 + cla % 1024

/-- Where byte `b` of stack-local frame `F` of stack `t` lies (R227). -/
def tablePa (t F b : Nat) : Nat :=
  paOf (32 * t + b / 1024 % 32) ((2 * F + b / 32768) * 1024 + b % 1024)

/-- Entry `e` of the table replica at frame `F` of stack `t`. -/
def State.entryAt (s : State) (t F e : Nat) : Nat := leNat (cells s.mem (tablePa t F (8 * e)) 8)

/-- The stack-local frame that a non-leaf entry names: V set, other bits zero, a frame that exists (R227, R228). -/
def nextFrame (e : Nat) : Option Nat :=
  let f := e / 2048 % 2097152
  if e % 2 = 1 ∧ e / 2 % 1024 = 0 ∧ e / 4294967296 = 0 ∧ f ≤ 786431 then some f else none

/-- The leaf entry for a virtual address, read in the stack of its channel; none is PFNP (R227, R228). -/
def State.leaf (s : State) (ctx va : Nat) : Option Nat :=
  match tget s.ctxs ctx with
  | none => none
  | some c =>
    let t := chanOf va / 32
    match nextFrame (s.entryAt t c.root (va / 17592186044416 % 8192)) with
    | none => none
    | some f2 =>
      match nextFrame (s.entryAt t f2 (va / 2147483648 % 8192)) with
      | none => none
      | some f3 =>
        let e := s.entryAt t f3 (va / 262144 % 8192)
        if e % 2 = 1 ∧ e / 64 % 32 = 0 ∧ e / 4294967296 = 0 then some e else none

def leafW (e : Nat) : Bool := e / 2 % 2 == 1
def leafX (e : Nat) : Bool := e / 4 % 2 == 1
def leafExport (e : Nat) : Bool := e / 8 % 2 == 1
def leafLarge (e : Nat) : Bool := e / 16 % 2 == 1
def leafFrz (e : Nat) : Bool := e / 32 % 2 == 1
def leafFrame (e : Nat) : Nat := e / 2048 % 2097152

/-- PA of a byte in the page of a leaf (R226, R303). -/
def leafPa (e va : Nat) : Nat :=
  let f := if leafLarge e then leafFrame e + va / 262144 % 64 else leafFrame e
  f * 262144 + chanOf va * 1024 + va % 1024

/-- What kind of access is checked (R228). -/
inductive Acc where
  | read | write | fetch
  deriving DecidableEq, Repr

/-- Translation and its checks (R228); a fetch from an EXPORT page is PFX (R230). -/
def State.translate (s : State) (ctx va : Nat) (k : Acc) : Except Cause Nat :=
  match s.leaf ctx va with
  | none => .error Code.PFNP
  | some e =>
    match k with
    | .read => .ok e
    | .write => if leafW e then .ok e else .error Code.PFWP
    | .fetch => if leafX e && !leafExport e then .ok e else .error Code.PFX

/-- Bits 63:57 all equal to bit 56 (R132). -/
def canonical (va : Nat) : Bool :=
  va / 72057594037927936 == 0 || va / 72057594037927936 == 255

/-- The canonical address whose bits 56:0 are given (R132). -/
def widen57 (a : Nat) : Nat := if a < 72057594037927936 then a else a + 18302628885633695744

/-- LLC slice of a line (R224). -/
def sliceOf (va : Nat) : Nat :=
  let a := va % 144115188075855872
  (List.range 8).foldl (fun x i => x ^^^ (a / 2 ^ (7 + 7 * i) % 128)) 0

/-- Home of a global byte of a context: the memory-side cache of its channel for an EXPORT page (R160). -/
def State.homeOf (s : State) (ctx va : Nat) : Home :=
  match s.leaf ctx va with
  | some e => if leafExport e then .msc (chanOf va) else .llc (sliceOf va)
  | none => .llc (sliceOf va)

/-! ## Colander windows (R243) -/

/-- The defined window that holds an address: its base, and whether the address lies in the query half. -/
def State.window (s : State) (ctx va : Nat) : Option (Nat × Bool) :=
  let base := va / 34359738368 * 34359738368
  match tget (s.ctx ctx).regions base with
  | some _ => some (base, 17179869184 ≤ va - base)
  | none => none

/-! ## Byte masks of a line -/

/-- Mask of `n` bytes from byte `o` of a line. -/
def lineMask (o n : Nat) : BitVec 128 := BitVec.ofNat 128 ((2 ^ n - 1) * 2 ^ o)

/-- `n` bytes of a list, zeros beyond its end. -/
def takePad : Nat → List Byte → List Byte
  | 0, _ => []
  | n + 1, l => l.headD 0 :: takePad n l.tail

/-- `n` bytes from byte `i` of a line on: those of `new` where `m` is set, of `old` elsewhere. -/
def overlayFrom (m : BitVec 128) : Nat → Nat → List Byte → List Byte → List Byte
  | 0, _, _, _ => []
  | n + 1, i, old, new =>
    (if m.getLsbD i then new.headD 0 else old.headD 0) :: overlayFrom m n (i + 1) old.tail new.tail

/-- Line data with the bytes of `new` where `m` is set. -/
def overlay (old new : List Byte) (m : BitVec 128) : List Byte := overlayFrom m 128 0 old new

/-- Places `bs` from byte `o` of a line image. -/
def placed (o : Nat) (bs : List Byte) : List Byte := takePad 128 (List.replicate o 0 ++ bs)

/-- Bytes `o` to `o + n - 1` of a line image. -/
def part (l : List Byte) (o n : Nat) : List Byte := takePad n (l.drop o)

/-! ## The LLC (R225) -/

/-- DESIGN CHOICE, log 31. -/
def State.llcLine (s : State) (ctx line : Nat) : Option LlcLine :=
  s.llc.find? fun l => l.ctx == ctx && l.line == line

/-- Replaces or adds an LLC line. -/
def State.putLlc (s : State) (l : LlcLine) : State :=
  { s with llc := l :: s.llc.filter fun x => !(x.ctx == l.ctx && x.line == l.line) }

def State.dropLlc (s : State) (ctx line : Nat) : State :=
  { s with llc := s.llc.filter fun x => !(x.ctx == ctx && x.line == line) }

/-! ## Pinned windows: touches by accesses at a memory-side cache (R233) -/

def State.touchPins (s : State) (ctx va : Nat) : State :=
  let c := s.ctx ctx
  if c.pins.any fun p => decide (p.2.start ≤ va) && decide (va < p.2.start + p.2.len) then
    let f (p : Nat × PinWin) : Nat × PinWin :=
      if p.2.start ≤ va ∧ va < p.2.start + p.2.len then (p.1, { p.2 with fade := 255, touched := true }) else p
    s.setCtx ctx { c with pins := c.pins.map f }
  else s

/-- The access reaches the memory-side cache: an EXPORT page, or a line the LLC does not hold whole. -/
def State.reachesMsc (s : State) (ctx va : Nat) (exp : Bool) : Bool :=
  exp || (match s.llcLine ctx (va / 128) with | some l => l.valid != BitVec.allOnes 128 | none => true)

/-- A read of `n` bytes at `va` at their homes touches the windows of the lines that come from a memory-side cache (R233). -/
def State.touchRead (s : State) (ctx va n : Nat) : State :=
  (List.range ((va + n - 1) / 128 - va / 128 + 1)).foldl (fun s i =>
    let a := 128 * (va / 128 + i)
    match s.leaf ctx a with
    | some e => if s.reachesMsc ctx a (leafExport e) then s.touchPins ctx a else s
    | none => s) s

/-- The addresses at which a context's present pages hold a PA (R226, R303). -/
def State.vasOf (s : State) (ctx pa : Nat) : List Nat :=
  let c := s.ctx ctx
  let pages (va len : Nat) : List Nat := (List.range ((len + 262143) / 262144)).map fun i => va + 262144 * i
  let va (a : Nat) : Nat := a + 1024 * ((pa / 1024 % 256) ^^^ (a / 262144 % 256)) + pa % 1024
  ((c.maps.flatMap fun m => pages m.va m.len) ++ pages c.privVa.toNat c.privLen).filterMap fun a =>
    match s.leaf ctx a with
    | some e => if leafPa e (va a) = pa then some (va a) else none
    | none => none

/-- Writes the dirty bytes of an LLC line below (only those: R175); a page that is gone takes them nowhere, and a
frozen page holds them (R242). (DESIGN CHOICE, log 31) -/
def State.cleanLlc (s : State) (ctx line : Nat) : State :=
  match s.llcLine ctx line, s.leaf ctx (128 * line) with
  | some l, some e =>
    if leafFrz e then s
    else
      let pa := leafPa e (128 * line)
      let mem := (List.range 128).foldl
        (fun m i => if l.dirty.getLsbD i then setCell m (pa + i) (l.data.getD i 0) else m) s.mem
      let t := { s with mem := mem }.putLlc { l with dirty := 0 }
      if l.dirty = 0 then t else t.touchPins ctx (128 * line)
  | _, _ => s

/-- The page of an address is frozen for migration (R242). -/
def State.frz (s : State) (ctx va : Nat) : Bool :=
  match s.leaf ctx va with
  | some e => leafFrz e
  | none => false

/-- A page is an EXPORT page (R230). -/
def State.exported (s : State) (ctx va : Nat) : Bool :=
  match s.leaf ctx va with
  | some e => leafExport e
  | none => false

/-- A line's dirty bytes cannot be written below now. -/
def State.llcHeld (s : State) (ctx line : Nat) : Bool :=
  s.frz ctx (128 * line) && (match s.llcLine ctx line with | some l => l.dirty != 0 | none => false)

/-- Writes back, then drops a line; a frozen page holds a dirty one. -/
def State.evictLlc (s : State) (ctx line : Nat) : State :=
  if s.llcHeld ctx line then s else (s.cleanLlc ctx line).dropLlc ctx line

/-- The host has mapped the page of an address. -/
def State.hostMapped (s : State) (ctx va : Nat) : Bool :=
  (s.ctx ctx).maps.any fun m => decide (m.va ≤ va) && decide (va < m.va + m.len)

/-- Another present page holds the bytes of a line too. -/
def State.aliased (s : State) (ctx line : Nat) : Bool :=
  match s.leaf ctx (128 * line) with
  | none => false
  | some e => decide (1 < (s.ctxs.map fun c => (s.vasOf c.1 (leafPa e (128 * line))).length).sum)

/-- A line leaves the LLC to make room: it is written back, and dropped unless another page holds its bytes, whose writes reach it by
CINV or CFLUSH only (R225). (DESIGN CHOICE, log 31) -/
def State.spillLlc (s : State) (ctx line : Nat) : State :=
  if s.aliased ctx line then s.cleanLlc ctx line else s.evictLlc ctx line

/-- Lines of an LLC slice of 2.5 MiB (R224). -/
def sliceLines : Nat := 20480

/-- Replaces or adds an LLC line; a full slice spills the line that it has held longest unused. (DESIGN CHOICE, log 31) -/
def State.setLlc (s : State) (l : LlcLine) : State :=
  if (s.llcLine l.ctx l.line).isSome then s.putLlc l
  else
    let there := s.llc.filter fun x => sliceOf (128 * x.line) == sliceOf (128 * l.line)
    if there.length < sliceLines then s.putLlc l
    else
      match there.reverse.find? fun x => !s.aliased x.ctx x.line && !s.llcHeld x.ctx x.line with
      | some x => (s.spillLlc x.ctx x.line).putLlc l
      | none => s.putLlc l

/-- The line at its LLC home, filled from below where a byte is not valid (R225). -/
def State.filled (s : State) (ctx line : Nat) : LlcLine :=
  let l := (s.llcLine ctx line).getD { ctx := ctx, line := line }
  match s.leaf ctx (128 * line) with
  | none => l
  | some e =>
    { l with valid := BitVec.allOnes 128
             data := overlay (cells s.mem (leafPa e (128 * line)) 128) l.data l.valid }

/-- Granules (PA / 32) that bytes `va` to `va + n - 1` touch; they lie in one line. (DEDUCED, log 37) -/
def State.granules (s : State) (ctx va n : Nat) : List Nat :=
  match s.leaf ctx va with
  | none => []
  | some e =>
    let p := leafPa e va
    (List.range ((p + n - 1) / 32 - p / 32 + 1)).map fun i => p / 32 + i

/-- The ECC outcome of a read that touches the granules `gs` (R240). (DEDUCED, log 26; DEDUCED, log 37) -/
def State.eccCheck (s : State) (gs : List Nat) : Option Cause :=
  if gs.any (fun g => s.failed.contains g && !s.poison.contains g) then some Code.ECCU
  else if gs.any s.poison.contains then some Code.POISON else none

/-- Bytes of a line that lie in granules of `gs`. -/
def State.bytesIn (s : State) (gs : List Nat) (ctx line : Nat) : BitVec 128 :=
  match s.leaf ctx (128 * line) with
  | none => 0
  | some e =>
    let p := leafPa e (128 * line) / 32
    (List.range 4).foldl (fun m i => if gs.contains (p + i) then m ||| lineMask (32 * i) 32 else m) 0

/-- Copies of bad granules are marked with them (R240): an L1 serves no clean byte of one, whether it holds the line or a fill is on
its way. -/
def State.markCopies (s : State) (gs : List Nat) : State :=
  let line (l : L1Line) : L1Line := { l with valid := l.valid &&& ~~~(s.bytesIn gs l.ctx l.line &&& ~~~l.dirty) }
  let resp (r : Resp) : Resp :=
    match r.body with
    | .fill p n valid bs => { r with body := .fill p n (valid &&& ~~~(s.bytesIn gs r.ctx n)) bs }
    | _ => r
  { s with cores := s.cores.map fun c => (c.1, { c.2 with l1 := c.2.l1.map line }), resps := s.resps.map resp }

/-- A read has touched the granules `gs`: those that have failed are poisoned from now on, and counted for management (R240). -/
def State.readEcc (s : State) (gs : List Nat) : State :=
  match gs.filter s.failed.contains with
  | [] => s
  | bad =>
    { s with poison := bad.foldl (fun p g => if p.contains g then p else g :: p) s.poison
             failed := s.failed.filter fun g => !bad.contains g }.markCopies bad

/-- The bytes of an ordinary page at its LLC home; the line is kept filled. -/
def State.llcRead (s : State) (ctx va n : Nat) : List Byte × State :=
  let l := s.filled ctx (va / 128)
  (part l.data (va % 128) n, s.setLlc l)

/-- Bytes as they stand at their home, for fetches, walks of hardware structures and host reads. (DESIGN CHOICE, log 31) -/
def State.homeByte (s : State) (ctx va : Nat) : Byte :=
  match s.leaf ctx va with
  | none => 0
  | some e =>
    if leafExport e then cell s.mem (leafPa e va)
    else
      match s.llcLine ctx (va / 128) with
      | some l => if l.valid.getLsbD (va % 128) then l.data.getD (va % 128) 0 else cell s.mem (leafPa e va)
      | none => cell s.mem (leafPa e va)

def State.homeBytes (s : State) (ctx va : Nat) : Nat → List Byte
  | 0 => []
  | n + 1 => s.homeByte ctx va :: s.homeBytes ctx (va + 1) n

/-! ## Watches (R145, R163, R166) -/

/-- What a hit on a watch does to the watching group: a fence's rollback flag, a region's conflict or the lanes to
roll back (R152, R153, R166). -/
def Group.hit (g : Group) (w : Watch) : Group :=
  match w.what with
  | .fence =>
    let f (x : SpecFence) : SpecFence := { x with roll := true }
    { g with spec := g.spec.map f }
  | .region =>
    let f (r : TryRegion) : TryRegion :=
      if r.laneMode then { r with roll := r.roll ||| w.lanes } else { r with conflict := true }
    { g with tryR := g.tryR.map f }

/-- A line of an L1 loses its clean bytes (R131). -/
def Core.invalidate (c : Core) (ctx line : Nat) : Core :=
  let f (l : L1Line) : L1Line := if l.ctx == ctx && l.line == line then { l with valid := l.dirty } else l
  { c with l1 := (c.l1.map f).filter fun l => !(l.ctx == ctx && l.line == line && l.dirty == 0) }

/-- A response that brings a fill of a line brings its piece's bytes only. -/
def Resp.dataOnly (r : Resp) : Resp :=
  match r.body with
  | .fill p _ _ bs => { r with body := .data p (part bs (p.addr % 128) p.len) }
  | _ => r

/-- The line of the context that a response will fill in the core's L1. -/
def Resp.fills (r : Resp) (core ctx : Nat) : Option Nat :=
  match r.body with
  | .fill _ l _ _ => if r.core == core && r.ctx == ctx then some l else none
  | _ => none

/-- The line of the context that a request will fill in the core's L1. -/
def Req.fills (r : Req) (core ctx : Nat) : Option Nat :=
  match r.body with
  | .read p true => if r.core == core && r.ctx == ctx then some (p.addr / 128) else none
  | _ => none

/-- A request for a fill that asks for its piece's bytes only. -/
def Req.dataOnly (r : Req) : Req :=
  match r.body with
  | .read p _ => { r with body := .read p false }
  | _ => r

/-- Clean bytes of some lines leave a core's L1. -/
def State.invalidateAll (s : State) (core ctx : Nat) (ls : List Nat) : State :=
  s.setCore core (ls.foldl (fun c l => c.invalidate ctx l) (s.core core))

/-- Fills of the lines `p` that have been performed at their home and have not arrived bring their piece's bytes and are not installed,
for what they hold may be older than what the group has since read or written; the L1's clean bytes of those lines, older still, go
(R131, R164). -/
def State.staleFills (s : State) (core ctx : Nat) (p : Nat → Bool) : State :=
  let ls := (s.resps.filterMap fun r => r.fills core ctx).filter p
  if ls.isEmpty then s
  else
    let q (r : Resp) : Resp := if (r.fills core ctx).any p then r.dataOnly else r
    { s with resps := s.resps.map q }.invalidateAll core ctx ls

/-- Fills of the lines `p` on their way to a core, or still to be performed, bring their piece's bytes but are not installed any more:
the lines have been dropped or cleaned since. -/
def State.noInstall (s : State) (core ctx : Nat) (p : Nat → Bool) : State :=
  let ls := ((s.reqs ++ s.arrived).filterMap fun r => r.fills core ctx).filter p
  let q (r : Req) : Req := if (r.fills core ctx).any p then r.dataOnly else r
  if ls.isEmpty then s.staleFills core ctx p
  else ({ s with reqs := s.reqs.map q, arrived := s.arrived.map q }.invalidateAll core ctx ls).staleFills core ctx p

/-- A core's L1 drops the clean bytes of a line, and those on their way to it. -/
def State.dropClean (s : State) (core ctx line : Nat) : State :=
  (s.setCore core ((s.core core).invalidate ctx line)).noInstall core ctx fun l => l == line

/-- One watch is invalidated (R163); a region keeps it, and a lane that uses it later is a rollback lane too (R153). -/
def State.hitWatch (s : State) (w : Watch) : State :=
  let s := { s with watches := s.watches.map fun x => if x = w then { x with hit := true } else x }
  let s := s.setGrp w.grp ((s.grp w.grp).hit w)
  if w.bank then s else s.dropClean (coreOf w.grp) w.ctx w.line

/-- A write by the group `by?` (none for an engine or another party) to a line or granule of 128 bytes marks every
other watcher (R151, R163). -/
def State.written (s : State) (bank : Bool) (ctx line : Nat) (writer : Option Nat) : State :=
  let hits := s.watches.filter fun w =>
    w.bank == bank && (bank || w.ctx == ctx) && w.line == line && writer != some w.grp
  hits.foldl State.hitWatch s

/-- PA of the first byte of a line. -/
def State.linePa (s : State) (ctx line : Nat) : Option Nat := (s.leaf ctx (128 * line)).map fun e => leafPa e (128 * line)

/-- A write by PA, as a remote command's, marks every watcher of the line (R151). -/
def State.writtenPa (s : State) (pa : Nat) : State :=
  (s.watches.filter fun w => !w.bank && s.linePa w.ctx w.line == some (pa / 128 * 128)).foldl State.hitWatch s

/-! ## Writes at a home -/

/-- Granules that a write covers whole, and those it covers in part (R240, R241). -/
def State.splitGranules (s : State) (ctx va : Nat) (m : BitVec 128) : List Nat × List Nat :=
  match s.leaf ctx va with
  | none => ([], [])
  | some e =>
    let p := leafPa e (va / 128 * 128)
    let gs := List.range 4
    let cov (i : Nat) : Nat := ((List.range 32).filter fun b => m.getLsbD (32 * i + b)).length
    ((gs.filter fun i => cov i == 32).map (p / 32 + ·), (gs.filter fun i => cov i != 0 && cov i != 32).map (p / 32 + ·))

/-- A masked write of one line at its home (R163, R240, R241). RMWU: a partial write over a bad granule performs
nothing. The L1s of other parties keep what they hold, but for watched lines (R131). -/
def State.homeWrite (s : State) (ctx line : Nat) (m : BitVec 128) (data : List Byte) (writer : Option Nat) :
    Except Cause State × State :=
  let va := 128 * line
  match s.translate ctx va .write with
  | .error c => (.error c, s)
  | .ok e =>
    let g := s.splitGranules ctx va m
    if (s.eccCheck g.2).isSome then (.error Code.RMWU, s.readEcc g.2)
    else
      let s := { s with
        poison := s.poison.filter fun x => !g.1.contains x, failed := s.failed.filter fun x => !g.1.contains x }
      let s := if s.reachesMsc ctx va (leafExport e) then s.touchPins ctx va else s
      let s :=
        if leafExport e then
          let pa := leafPa e va
          let f (x : List Host.Cell) (i : Nat) : List Host.Cell :=
            if m.getLsbD i then setCell x (pa + i) (data.getD i 0) else x
          { s with mem := (List.range 128).foldl f s.mem }
        else
          let l := s.filled ctx line
          s.setLlc { l with data := overlay l.data data m, dirty := l.dirty ||| m }
      let s := s.written false ctx line writer
      (.ok s, s)

/-- Bytes that lie in one line, written at their home; a refused write leaves the state. -/
def State.putLine (s : State) (ctx va : Nat) (bs : List Byte) (writer : Option Nat) : State :=
  (s.homeWrite ctx (va / 128) (lineMask (va % 128) bs.length) (placed (va % 128) bs) writer).2

/-- Bytes written at their homes, line by line: by the device itself (records, save images, engine results). -/
def State.putBytes (s : State) (ctx : Nat) (writer : Option Nat) : Nat → Nat → List Byte → State
  | 0, _, _ => s
  | fuel + 1, va, bs =>
    if bs.isEmpty then s
    else
      let n := 128 - va % 128
      (s.putLine ctx va (bs.take n) writer).putBytes ctx writer fuel (va + n) (bs.drop n)

/-- `putBytes` with enough fuel for its length. -/
def State.put (s : State) (ctx va : Nat) (bs : List Byte) (writer : Option Nat) : State :=
  s.putBytes ctx writer (bs.length / 128 + 2) va bs

/-! ## The L1 (R130, R131) -/

def Core.line (c : Core) (ctx line : Nat) : Option L1Line :=
  c.l1.find? fun l => l.ctx == ctx && l.line == line

def Core.setLine (c : Core) (l : L1Line) : Core :=
  { c with l1 := l :: c.l1.filter fun x => !(x.ctx == l.ctx && x.line == l.line) }

def Core.dropLine (c : Core) (ctx line : Nat) : Core :=
  { c with l1 := c.l1.filter fun x => !(x.ctx == ctx && x.line == line) }

/-- Bytes of a line stored where the mask is set, by a group slot: the line is allocated, the bytes become valid and dirty, nothing is
fetched (R130). -/
def Core.storeMasked (c : Core) (ctx line : Nat) (m : BitVec 128) (data : List Byte) (gslot : Nat) : Core :=
  let l := (c.line ctx line).getD { ctx := ctx, line := line }
  c.setLine { l with valid := l.valid ||| m, dirty := l.dirty ||| m, data := overlay l.data data m
                     groups := if l.groups.contains gslot then l.groups else gslot :: l.groups
                     who := (List.range 128).foldl (fun t i => if m.getLsbD i then tset t i gslot else t) l.who }

/-- A store of bytes that lie in one line. -/
def Core.store (c : Core) (ctx va : Nat) (bs : List Byte) (gslot : Nat) : Core :=
  c.storeMasked ctx (va / 128) (lineMask (va % 128) bs.length) (placed (va % 128) bs) gslot

/-- A load served by the L1: every byte it needs is valid (R130). -/
def Core.hitBytes (c : Core) (ctx va n : Nat) : Option (List Byte) :=
  match c.line ctx (va / 128) with
  | some l =>
    let m := lineMask (va % 128) n
    if l.valid &&& m = m then some (part l.data (va % 128) n) else none
  | none => none

/-- A fill from the home: only bytes that are not dirty (R130). -/
def Core.fill (c : Core) (ctx line : Nat) (valid : BitVec 128) (bs : List Byte) : Core :=
  let l := (c.line ctx line).getD { ctx := ctx, line := line }
  c.setLine { l with valid := l.dirty ||| valid, data := overlay bs l.data l.dirty }

/-- A byte that a write-back brings to its home. -/
def WriteBack.byte (w : WriteBack) (ctx va : Nat) : Option Byte :=
  if w.ctx == ctx && w.line == va / 128 && w.mask.getLsbD (va % 128) then some (w.data.getD (va % 128) 0) else none

/-- The write-back that a request carries. -/
def Req.wb? (r : Req) : Option WriteBack :=
  match r.body with
  | .wb w => some w
  | _ => none

/-- Write-backs of a core that have not been performed, oldest first. -/
def State.wbsOf (s : State) (core : Nat) : List WriteBack :=
  ((s.arrived ++ s.reqs).filter fun r => r.core == core).filterMap Req.wb? ++ (s.core core).wbq

/-- One byte as a core sees it for its own structures: its L1 where valid, else its newest write-back of the byte, else the home. -/
def State.seenByte (s : State) (core ctx va : Nat) : Byte :=
  match (s.core core).hitBytes ctx va 1 with
  | some [b] => b
  | _ => ((s.wbsOf core).reverse.findSome? fun w => w.byte ctx va).getD (s.homeByte ctx va)

def State.seenBytes (s : State) (core ctx va : Nat) : Nat → List Byte
  | 0 => []
  | n + 1 => s.seenByte core ctx va :: s.seenBytes core ctx (va + 1) n

/-! ## Write-back and drop (R130, R163) -/

/-- The group that stored the bytes `m` of a line, if only one did. -/
def L1Line.writer (l : L1Line) (core : Nat) (m : BitVec 128) : Option Nat :=
  match (((List.range 128).filter m.getLsbD).map fun i => tget l.who i).eraseDups with
  | [some k] => some (32 * core + k)
  | _ => none

/-- Moves dirty bytes `m` of a line into the write-back queue; they are then clean (R163). -/
def State.writeBack (s : State) (core : Nat) (l : L1Line) (m : BitVec 128) : State :=
  let m := m &&& l.dirty
  if m = 0 then s
  else
    let (id, s) := s.fresh
    let w : WriteBack :=
      { id := id, ctx := l.ctx, line := l.line, mask := m, data := l.data, groups := l.groups, writer := l.writer core m }
    let left := l.dirty &&& ~~~m
    let c := (s.core core).setLine
      { l with dirty := left, groups := if left = 0 then [] else l.groups, who := l.who.filter fun x => !m.getLsbD x.1 }
    (s.setCore core { c with wbq := c.wbq ++ [w] }).noInstall core l.ctx fun n => n == l.line

/-- A line's dirty bytes go to the write-back queue and the line is dropped, with fills on their way (R134). -/
def State.flushLine (s : State) (core ctx line : Nat) : State :=
  let s := match (s.core core).line ctx line with
    | none => s
    | some l => s.writeBack core l l.dirty
  (s.setCore core ((s.core core).dropLine ctx line)).noInstall core ctx fun n => n == line

/-- Lines of an L1 of 128 KiB (R2). -/
def l1Lines : Nat := 1024

/-- An L1 that holds more lines than it can writes back and drops those it has stored or filled longest ago. (DESIGN CHOICE, log 31) -/
def State.fitL1 (s : State) (core : Nat) : State :=
  ((s.core core).l1.drop l1Lines).foldl (fun s l =>
    let s := s.writeBack core l l.dirty
    s.setCore core ((s.core core).dropLine l.ctx l.line)) s

/-- Bytes stored through a core's L1 by the hardware (trap save area, divergence stack). -/
def Core.storeBytes (c : Core) (ctx gslot : Nat) : Nat → Nat → List Byte → Core
  | 0, _, _ => c
  | fuel + 1, va, bs =>
    if bs.isEmpty then c
    else
      let n := 128 - va % 128
      (c.store ctx va (bs.take n) gslot).storeBytes ctx gslot fuel (va + n) (bs.drop n)

def State.hwStore (s : State) (g : Nat) (va : Nat) (bs : List Byte) : State :=
  let c := s.core (coreOf g)
  (s.setCore (coreOf g) (c.storeBytes (s.ctxOf g) (g % 32) (bs.length / 128 + 2) va bs)).fitL1 (coreOf g)

def State.hwLoad (s : State) (g : Nat) (va n : Nat) : List Byte := s.seenBytes (coreOf g) (s.ctxOf g) va n

/-! ## Private memory (R129) -/

/-- A of R129: bytes of one group's private area. -/
def Header.area (h : Header) : Nat :=
  let a := 96 * h.priv + 96 * h.dstack + (if h.handler ≠ 0 then 3136 else 0)
  (a + 127) / 128 * 128

/-- Base of a group's private area. -/
def State.privBase (s : State) (g : Nat) : Nat :=
  let x := s.grp g
  (s.wg x.wg).privb.toNat + x.idx * (s.wg x.wg).hdr.area

/-- private_addr(o, i) of R129. -/
def State.privAddr (s : State) (g o i : Nat) : Nat := s.privBase g + 384 * (o / 4) + 4 * i + o % 4

/-- First byte of entry `k` of the divergence stack (R15). -/
def State.stackAddr (s : State) (g k : Nat) : Nat :=
  s.privBase g + 96 * (s.wg (s.grp g).wg).hdr.priv + 32 * k

/-- First byte of return-stack image `k` (R97). -/
def State.imageAddr (s : State) (g k : Nat) : Nat :=
  let h := (s.wg (s.grp g).wg).hdr
  s.privBase g + 96 * h.priv + 32 * h.dstack + 64 * k

/-- First byte of the trap save area (R111). -/
def State.saveAddr (s : State) (g : Nat) : Nat :=
  let h := (s.wg (s.grp g).wg).hdr
  s.privBase g + 96 * h.priv + 96 * h.dstack

/-! ## Scratchpads (R176, R177) -/

/-- The physical byte `p` of a core's scratchpad is in an allocation of a work-group of `ctx`. (DEDUCED, log 74) -/
def State.spadHeld (s : State) (ctx core p : Nat) : Bool :=
  s.wgs.any fun w =>
    w.2.ctx == ctx && w.2.core == core && decide (w.2.spb ≤ p) &&
      decide (p < w.2.spb + (w.2.hdr.spad + 127) / 128 * 128) && !w.2.killed

/-- End of the allocation that holds a byte. -/
def State.spadEnd (s : State) (ctx core p : Nat) : Option Nat :=
  s.wgs.findSome? fun w =>
    let e := w.2.spb + (w.2.hdr.spad + 127) / 128 * 128
    if w.2.ctx == ctx && w.2.core == core && decide (w.2.spb ≤ p) && decide (p < e) && !w.2.killed then some e else none

/-- Every byte of a range is held, by one allocation or by several that follow each other. -/
def State.spadRun (s : State) (ctx core : Nat) : Nat → Nat → Nat → Bool
  | 0, _, n => n == 0
  | fuel + 1, p, n =>
    n == 0 ||
      match s.spadEnd ctx core p with
      | some e => s.spadRun ctx core fuel e (n - (e - p))
      | none => false

/-- Every byte of a range of a core's scratchpad is held (R177). -/
def State.spadRange (s : State) (ctx core p n : Nat) : Bool := s.spadRun ctx core (s.wgs.length + 1) p n

def State.spadBytes (s : State) (core p n : Nat) : List Byte := cells (s.core core).spad p n

def State.setSpad (s : State) (core p : Nat) (bs : List Byte) (writer : Option Nat) : State :=
  let c := s.core core
  let s := s.setCore core { c with spad := setCells c.spad p bs }
  (List.range ((p + bs.length + 127) / 128 - p / 128)).foldl
    (fun s i => s.written true 0 (2048 * core + p / 128 + i) writer) s

end Sys2Proof.Machine
end

