-- ==== Sys2Proof/Machine/Ops.lean ====
section
/-! DEFINITION. The named operations of groups and slots: register reads and the posting and landing of results
(R16-R19, R31-R33), work identifiers (R23, R24), error records (R116, R289), the end of a work-group by a cause of
delivery Q, the rollback of a try region (R158), raising a cause and taking the trap (R102-R111), the returns from it
(R114), and the slots' pop, merge and resume (R14, R15, R97). -/

namespace Sys2Proof.Machine

/-! ## Lanes and masks -/

/-- Lanes of a mask, in ascending order. -/
def lanesOf (m : Mask) : List Nat := (List.range 96).filter fun i => m.getLsbD i

/-- The mask of a list of lanes. -/
def maskOf (ls : List Nat) : Mask := ls.foldl (fun m i => m ||| (1#96 <<< i)) 0

/-- Member `k` of a mask (R10). -/
def member (m : Mask) (k : Nat) : Word := BitVec.ofNat 32 (m.toNat / 2 ^ (32 * k))

/-- The mask with member `k` replaced. -/
def setMember (m : Mask) (k : Nat) (w : Word) : Mask :=
  let at_ (i : Nat) : Word := if i = k then w else member m i
  (at_ 2 ++ at_ 1 ++ at_ 0 : BitVec 96)

/-- A value for each of the 96 lanes. -/
def perLane (f : Nat → Word) : List Word := (List.range 96).map f

/-- `new` on the lanes of `m`, `old` elsewhere. -/
def mergeLanes (m : Mask) (old new : List Word) : List Word :=
  perLane fun i => if m.getLsbD i then new.getD i 0 else old.getD i 0

/-! ## Register reads (R16-R18, R34): landed values -/

def Group.v (g : Group) (n lane : Nat) : Word := (tgetD g.regs.v n []).getD lane 0

/-- A vector pair in a lane. -/
def Group.vp (g : Group) (n lane : Nat) : Dword := (g.v (n + 1) lane ++ g.v n lane : BitVec 64)

/-- Scalars that a slot has written since the group's last marked bundle completed its wait. -/
def Group.wrote (g : Group) (b : Bool) : List Nat := if b then g.wroteB else g.wroteA

/-- The slot's newest outstanding write of a scalar that the other slot has written as well: neither slot's writes have landed in an
order that the program fixed (R19). What the words of the bundle in execution have posted does not count (R30). -/
def Group.ownWrite (g : Group) (b : Bool) (n : Nat) : Option Result :=
  if (g.wrote (!b)).contains n then
    (g.out.take (g.out.length - g.hid)).reverse.find? fun r => r.slotB == b && r.reg == .s n
  else none

/-- A slot's q14 as its words read it (R18, R30). -/
def Slot.q14 (y : Slot) : Mask := y.repBank.getD y.bank

/-- A scalar as the slot reads it: s56-s58 are its bank (R18). The value is the landed one, but never one older than the slot's own last
write where the other slot writes the register too (R19). -/
def Group.s (g : Group) (b : Bool) (n : Nat) : Word :=
  if 56 ≤ n ∧ n ≤ 58 then member (g.slot b).q14 (n - 56)
  else match g.ownWrite b n with
    | some r => if r.src = 0 then r.vals.getD 0 0 else tgetD g.regs.s n 0
    | none => tgetD g.regs.s n 0

/-- A read of the scalar by the slot must wait: its own last write, which the read may not pass, has no value yet (R19). -/
def Group.unsettled (g : Group) (b : Bool) (n : Nat) : Bool := (g.ownWrite b n).any fun r => r.src != 0

def Group.sp (g : Group) (b : Bool) (n : Nat) : Dword := (g.s b (n + 1) ++ g.s b n : BitVec 64)

/-- The constant of an sc field of 64 or above (R34). -/
def constOf (n : Nat) : Int := (n : Int) - 96

/-- Scalar or constant (R34). -/
def Group.sc (g : Group) (b : Bool) (n : Nat) : Word := if n < 64 then g.s b n else BitVec.ofInt 32 (constOf n)

/-- Scalar or constant in a pair position (R34). -/
def Group.scp (g : Group) (b : Bool) (n : Nat) : Dword := if n < 64 then g.sp b n else BitVec.ofInt 64 (constOf n)

/-- A lane-mask triple (R17). -/
def Group.q (g : Group) (b : Bool) (k : Nat) : Mask :=
  (g.s b (4 * k + 2) ++ g.s b (4 * k + 1) ++ g.s b (4 * k) : BitVec 96)

/-! ## Results (R31) -/

/-- The register that a scalar number names for a result. -/
def sreg (n : Nat) : Reg := if 56 ≤ n ∧ n ≤ 58 then .act (n - 56) else .s n

/-- Saves the old value of a vector register that a try region writes for the first time (R143). -/
def TryRegion.keep (r : TryRegion) (old : Group) (n : Nat) : TryRegion :=
  match tget r.shadow n with
  | some _ => r
  | none => { r with shadow := tset r.shadow n (tgetD old.regs.v n []) }

/-- Adds an outstanding result; one of no lane writes nothing and is never outstanding (R18, R74). -/
def Group.post (g : Group) (x : Result) : Group :=
  if x.mask == 0 then g else
  match x.reg with
  | .v n => { g with out := g.out ++ [x], tryR := g.tryR.map fun r => r.keep g n }
  | .s n =>
    let add (l : List Nat) : List Nat := if l.contains n then l else n :: l
    { g with out := g.out ++ [x], wroteA := if x.slotB then g.wroteA else add g.wroteA
             wroteB := if x.slotB then add g.wroteB else g.wroteB }
  | _ => { g with out := g.out ++ [x] }

/-- Changes the group of a cursor. -/
def State.modGrp (s : State) (g : Nat) (f : Group → Group) : State := s.setGrp g (f (s.grp g))

def State.postR (s : State) (g : Nat) (x : Result) : State := s.modGrp g fun y => y.post x

/-- A vector result on the cursor's lanes. -/
def State.postV (s : State) (c : Cursor) (n : Nat) (vals : List Word) : State :=
  s.postR c.grp { slotB := c.slotB, reg := .v n, mask := c.lanes, vals := vals, how := .set, src := 0 }

/-- A vector pair result. -/
def State.postVP (s : State) (c : Cursor) (n : Nat) (f : Nat → Dword) : State :=
  (s.postV c n (perLane fun i => (f i).setWidth 32)).postV c (n + 1) (perLane fun i => ((f i) >>> 32).setWidth 32)

/-- A scalar result. -/
def State.postS (s : State) (c : Cursor) (n : Nat) (w : Word) : State :=
  s.postR c.grp { slotB := c.slotB, reg := sreg n, mask := 1, vals := [w], how := .set, src := 0 }

def State.postSP (s : State) (c : Cursor) (n : Nat) (d : Dword) : State :=
  (s.postS c n (d.setWidth 32)).postS c (n + 1) ((d >>> 32).setWidth 32)

/-- A triple result. -/
def State.postQ (s : State) (c : Cursor) (k : Nat) (m : Mask) : State :=
  ((s.postS c (4 * k) (member m 0)).postS c (4 * k + 1) (member m 1)).postS c (4 * k + 2) (member m 2)

/-- A result whose value an access or a wait will supply. -/
def State.postWait (s : State) (c : Cursor) (r : Reg) (mask : Mask) (src : Nat) : State :=
  s.postR c.grp { slotB := c.slotB, reg := r, mask := mask, vals := [], how := .set, src := src }

/-- One landing of a word into a register of the group. -/
def land1 (how : Landing) (old new : Word) : Word :=
  match how with
  | .set => new
  | .or => old ||| new
  | .and => old &&& new
  | .add => old + new

/-- Writes a special register of the group kind (R21); those that hold no state of their own are left. -/
def Regs.setSpr (r : Regs) (n : Nat) (how : Landing) (w : Word) : Regs :=
  match n with
  | 0x00 => { r with mode := land1 how r.mode w }
  | 0x01 => { r with fflags := land1 how r.fflags w }
  | 0x02 => { r with tshape := land1 how r.tshape w }
  | 0x03 => { r with tfn := land1 how r.tfn w }
  | 0x10 | 0x11 | 0x12 | 0x13 => { r with nf := tset r.nf (n - 0x10) (land1 how (tgetD r.nf (n - 0x10) 0) w) }
  | 0x30 => { r with lrep := land1 how r.lrep w }
  | 0x31 => { r with allowth := land1 how r.allowth w }
  | 0x34 => { r with mcfg := land1 how r.mcfg w }
  | 0x35 => { r with audit := land1 how r.audit w }
  | _ => r

/-- Writes a trap register of the group kind. -/
def TrapRegs.setSpr (t : TrapRegs) (n : Nat) (w : Word) : TrapRegs :=
  match n with
  | 0x20 => { t with tcause := w }
  | 0x21 => { t with tpc := w }
  | 0x24 => { t with tinfo := w }
  | 0x26 => { t with trepi := w }
  | 0x27 => { t with ttask := w }
  | _ => t

/-- %faddr with the low or high words of the lanes of `m` replaced. -/
def setFaddr (old : List Dword) (hi : Bool) (m : Mask) (vals : List Word) : List Dword :=
  (List.range 96).map fun i =>
    let o := old.getD i 0
    if m.getLsbD i then
      if hi then (vals.getD i 0 ++ o.setWidth 32 : BitVec 64) else ((o >>> 32).setWidth 32 ++ vals.getD i 0 : BitVec 64)
    else o

/-- Lands lanes `m` of a result in its register (R31, R18). -/
def Group.landed (g : Group) (x : Result) (m : Mask) : Group :=
  let w := x.vals.getD 0 0
  match x.reg with
  | .v n => { g with regs := { g.regs with v := tset g.regs.v n (mergeLanes m (tgetD g.regs.v n []) x.vals) } }
  | .s n => { g with regs := { g.regs with s := tset g.regs.s n (land1 x.how (tgetD g.regs.s n 0) w) } }
  | .act k =>
    let y := g.slot x.slotB
    g.setSlot x.slotB { y with bank := setMember y.bank k w &&& y.owned }
  | .spr n => { g with regs := g.regs.setSpr n x.how w, trapRegs := g.trapRegs.setSpr n w }
  | .seed => { g with regs := { g.regs with seed := mergeLanes m g.regs.seed x.vals } }
  | .faddr hi => { g with trapRegs := { g.trapRegs with faddr := setFaddr g.trapRegs.faddr hi m x.vals } }
  | .tmask k => { g with trapRegs := { g.trapRegs with tmask := setMember g.trapRegs.tmask k w } }
  | .tdone k => { g with trapRegs := { g.trapRegs with tdone := setMember g.trapRegs.tdone k w } }

/-- Supplies values to the results that wait for `src`: `f r` gives the lanes now known and the values of register
`r`. The lanes not known stay waiting, or go where `last` says that nothing more will come. -/
def supplied (src : Nat) (f : Reg → Mask × List Word) (last : Bool) (xs : List Result) : List Result :=
  xs.flatMap fun x =>
    if x.src == src then
      let m := x.mask &&& (f x.reg).1
      let known := { x with src := 0, mask := m, vals := (f x.reg).2 }
      let rest := { x with mask := x.mask &&& ~~~m }
      (if m == 0 then [] else [known]) ++ (if last || rest.mask == 0 then [] else [rest])
    else [x]

/-- `supplied` in the group's outstanding results and in those that a speculative fence's checkpoint keeps. -/
def Group.supply (g : Group) (src : Nat) (f : Reg → Mask × List Word) (last : Bool) : Group :=
  let h (x : SpecFence) : SpecFence := { x with ckpt := { x.ckpt with out := supplied src f last x.ckpt.out } }
  { g with out := supplied src f last g.out, spec := g.spec.map h }

/-- A parked or waiting word's destination: one scalar value. -/
def Group.supply1 (g : Group) (src : Nat) (w : Word) : Group := g.supply src (fun _ => (1, [w])) true

/-! ## Work identifiers (R23, R24) -/

/-- B_k of R23. -/
def Header.bits (h : Header) (k : Nat) : Nat := (h.widths.take k).sum

/-- Lowest WID of a work-group. -/
def Wg.base (w : Wg) : Dword := w.index <<< (w.hdr.bits w.hdr.place)

/-- WID of a lane. -/
def State.wid (s : State) (g lane : Nat) : Dword :=
  (s.wg (s.grp g).wg).base + BitVec.ofNat 64 (96 * (s.grp g).idx + lane)

/-- %ttask of a slot (R109). (DEDUCED, log 49) -/
def State.ttask (s : State) (g : Nat) (b : Bool) : Word :=
  let c := coreOf g
  (((s.grp g).slot b).seq ++ BitVec.ofNat 2 (c / 800) ++ BitVec.ofNat 5 (c % 800 / 32) ++ BitVec.ofNat 5 (c % 32) ++
    (0 : BitVec 3) ++ BitVec.ofNat 5 (g % 32) : BitVec 32)

/-- Key of the group that a %ttask names (R109). -/
def groupOfTask (t : Word) : Nat :=
  32 * (800 * fld t.toNat 18 2 + 32 * fld t.toNat 13 5 + fld t.toNat 8 5) + fld t.toNat 0 5

/-- Kind of the record that ends a work-group: 4 where the group that raises the cause is in privileged mode (R104, R116). -/
def State.endKind (s : State) (x : Wg) (g : Nat) : Nat := if x.groups.contains g && (s.grp g).priv then 4 else 0

/-! ## Error records (R116, R289) -/

/-- A service core is left to do firmware's work (R285). -/
def State.served (s : State) : Bool := (List.range 8).any fun k => !s.svcDown.contains k

/-- Sends an MSI-X message; while the link is down it is held pending (R286). -/
def State.msix (s : State) (v : Nat) : State :=
  if s.linkUp then { s with msixSent := v :: s.msixSent }
  else { s with msixPend := if s.msixPend.contains v then s.msixPend else v :: s.msixPend }

/-- The vector of a queue configuration word (R288). -/
def vectorOf (cfg : Word) : Nat := fld cfg.toNat 16 11

/-- log2 of the number of entries in a queue configuration word (R288). -/
def sizeOf (cfg : Word) : Nat := fld cfg.toNat 0 5

/-- The 32 bytes of a record (R116). -/
def recordBytes (ctx : Nat) (seq : BitVec 16) (kind : Nat) (cause : Cause) (widb : Dword) (tpc ttask tinfo : Word) :
    List Byte :=
  leBytes 4 (seq.toNat * 65536 + kind * 4096 + cause.toNat) ++ leBytes 4 ctx ++ leBytes 8 widb.toNat ++
    leBytes 4 tpc.toNat ++ leBytes 4 ttask.toNat ++ leBytes 4 tinfo.toNat ++ leBytes 4 0

/-- Drops a record: it is counted, and the vector of the queue is sent (R289). -/
def State.loseRecord (s : State) (ctx : Nat) (cfg : Word) : State :=
  let c := s.ctx ctx
  (s.setCtx ctx { c with eqlost := if c.eqlost = BitVec.allOnes 32 then c.eqlost else c.eqlost + 1 }).msix (vectorOf cfg)

/-- The slot of the error queue that the next record takes (R289). -/
def Ctx.eqSlot (c : Ctx) (base : Dword) (cfg : Word) : Nat := base.toNat + 32 * (c.eqtail.toNat % 2 ^ sizeOf cfg)

/-- Posts a record to a context's error queue; a full queue, or one not yet configured, drops it, and a frozen page of the queue holds it
and those after it back (R242). (DEDUCED, log 49) -/
def State.postRecord (s : State) (ctx : Nat) (r : HeldRecord) : State :=
  let c := s.ctx ctx
  match c.eqUse with
  | none => s.loseRecord ctx c.eqcfg
  | some (base, cfg) =>
    let used := (c.eqtail - c.eqhead).toNat
    if !c.heldRecs.isEmpty then s.setCtx ctx { c with heldRecs := c.heldRecs ++ [r] }
    else if 2 ^ sizeOf cfg ≤ used then s.loseRecord ctx cfg
    else if s.frz ctx (c.eqSlot base cfg) then s.setCtx ctx { c with heldRecs := [r] }
    else
      let s := s.setCtx ctx { c with eqtail := c.eqtail + 1, seq := c.seq + 1 }
      let s := s.put ctx (c.eqSlot base cfg) (recordBytes ctx c.seq r.kind r.cause r.widb r.tpc r.ttask r.tinfo) none
      if used = 0 then s.msix (vectorOf cfg) else s

/-- A record for a context, if it exists. -/
def State.errRecord (s : State) (ctx kind : Nat) (cause : Cause) (widb : Dword) (tpc ttask tinfo : Word) : State :=
  if (tget s.ctxs ctx).isNone then s
  else s.postRecord ctx { kind := kind, cause := cause, widb := widb, tpc := tpc, ttask := ttask, tinfo := tinfo }

/-- The records that a frozen page held back, in their order. -/
def State.postHeld (s : State) (ctx : Nat) : State :=
  let c := s.ctx ctx
  if c.heldRecs.isEmpty then s
  else c.heldRecs.foldl (fun s r => s.postRecord ctx r) (s.setCtx ctx { c with heldRecs := [] })

/-- The record of a cause that a group raised. -/
def State.record (s : State) (g : Nat) (r : Raised) (kind : Nat) : State :=
  s.errRecord (s.ctxOf g) kind r.cause (s.wg (s.grp g).wg).base (r.pos.setWidth 32) (s.ttask g r.slotB) r.info

/-! ## The end of a work-group by a cause of delivery Q (R104) -/

/-- Stores, atomics, REDs, cards and the other words that change memory or an engine still complete. -/
def Entry.outlives (e : Entry) : Bool :=
  match e.body with
  | .mem k _ _ => (match k with | .store => true | .atomic _ => true | .red _ => true | _ => false)
  | .fence _ _ _ => false
  | .maint x _ _ _ => x != 3
  | _ => true

/-- A slot with nothing left to do. -/
def Slot.stop (x : Slot) : Slot :=
  { x with st := .free, owned := 0, active := 0, bank := 0, point := none, rstack := [], park := none, pend := none
           rep := none, repBank := none, kept := none, keptPark := none, step := false }

/-- The access belongs to the group's open region: nothing of it is committed when the region is discarded (R150). -/
def Group.inRegion (g : Group) (e : Entry) : Bool := g.tryR.any fun r => decide (r.startId ≤ e.id)

/-- A group of a work-group that has been ended. -/
def Group.stop (g : Group) : Group :=
  { g with dead := true, a := g.a.stop, b := g.b.stop, trap := none, priv := false, out := [], sync := false
           queue := g.queue.filter fun e => e.outlives && !g.inRegion e, flights := g.flights.filter fun f => !g.inRegion f.entry
           deferred := [], replays := [], spec := none, tryR := none, dsp := 0 }

/-- Watches of a group leave, and requests on their way ask for none any more (R138, R158). -/
def State.unwatch (s : State) (g : Nat) (what : WatchFor) : State :=
  let q (r : Req) : Req := if r.grp == g && r.watch == some what then { r with watch := none } else r
  { s with watches := s.watches.filter fun w => !(w.grp == g && w.what == what), reqs := s.reqs.map q, arrived := s.arrived.map q }

/-- Ends a work-group at once. -/
def State.endWg (s : State) (w : Nat) : State :=
  let x := s.wg w
  let s := s.setWg w { x with killed := true }
  let s := x.groups.foldl (fun s g => ((s.modGrp g Group.stop).unwatch g .region).unwatch g .fence) s
  match s.cursor with
  | some c => if x.groups.contains c.grp then { s with cursor := some { c with gone := true } } else s
  | none => s

/-! ## Rollback of a try region (R158) -/

/-- Try abort codes of R154. -/
def abCONFLICT : Nat := 1
def abCAPREG : Nat := 2
def abOVERFLOW : Nat := 3
def abTRAP : Nat := 4
def abEXPLICIT : Nat := 5
def abSCOPE : Nat := 6
def abENGINE : Nat := 7
def abPREEMPT : Nat := 8
def abDEPTH : Nat := 9
def abCOLANDER : Nat := 10
def abLANE : Nat := 11

/-- The status word of R154. -/
def tryStatus (code : Nat) (cause : Cause) (depth imm : Nat) : Word :=
  BitVec.ofNat 32 (cause.toNat * 16777216 + depth * 65536 + imm % 256 * 256 + code)

/-- A slot as its checkpoint holds it; what the checkpoint does not cover stays. -/
def Slot.restored (cur old : Slot) : Slot :=
  { old with pend := cur.pend, hang := cur.hang, seq := cur.seq, last := cur.last, cychi := cur.cychi
             step := cur.step, park := none, rep := none, repBank := none }

/-- The vector registers with the shadow's values on the lanes of `m`. -/
def TryRegion.unshadow (r : TryRegion) (m : Mask) (v : Table (List Word)) : Table (List Word) :=
  r.shadow.foldl (fun t e => tset t e.1 (mergeLanes m (tgetD t e.1 []) e.2)) v

/-- Rolls the group back to the checkpoint: vector registers on the lanes of `m`, status and rollback mask as given. Causes of class D that
have returned and are not taken yet come from stores before the TRY, for a region's own accesses raise none: they stay. %tfn takes its
value at the TRY whole, a VALID bit included that another group's TMLD has cleared meanwhile (R158 restores it, R95 clears it).
(DESIGN CHOICE, log 103) -/
def Group.rollback (g : Group) (r : TryRegion) (m : Mask) (status : Word) (roll : Mask) : Group :=
  let x := ((if r.slotB then r.ckpt.b else r.ckpt.a) : Slot)
  let g := { g with
    regs := { r.ckpt.regs with v := r.unshadow m g.regs.v, nf := g.regs.nf }
    a := g.a.restored r.ckpt.a
    b := g.b.restored r.ckpt.b
    out := []
    sync := false
    queue := g.queue.filter fun e => e.id < r.startId || e.outlives && (match e.body with | .mem .. => false | _ => true)
    flights := g.flights.filter fun f => f.entry.id < r.startId
    tryR := none
    tstat := status
    troll := roll }
  g.setSlot r.slotB { (x.restored x) with
    st := .run, pc := r.target, point := r.savedPoint, pend := (g.slot r.slotB).pend, hang := (g.slot r.slotB).hang
    seq := (g.slot r.slotB).seq, last := (g.slot r.slotB).last, cychi := (g.slot r.slotB).cychi
    step := (g.slot r.slotB).step }

/-- Aborts the group's region with a code of R154; the rest of the bundle has no effect. (DEDUCED, log 25) -/
def State.abortTry (s : State) (g code : Nat) (cause : Cause) (imm : Nat) : State :=
  match (s.grp g).tryR with
  | none => s
  | some r =>
    let m := (if r.slotB then r.ckpt.b else r.ckpt.a).active
    let s := s.modGrp g fun x => x.rollback r (BitVec.allOnes 96) (tryStatus code cause r.depth imm) m
    let s := s.unwatch g .region
    match s.cursor with
    | some c => if c.grp == g then { s with cursor := some { c with gone := true, void := true } } else s
    | none => s

/-- A context-wide event: its record, and the context's open regions are discarded with nothing committed (R104, R150); their groups go on
at their abort targets, with PREEMPT where the context is to be saved and else with TRAP and the cause. (DESIGN CHOICE, log 94) -/
def State.ctxEvent (s : State) (ctx : Nat) (k : Cause) (info : Word) : State :=
  let gs := (s.groups.filter fun g => g.2.tryR.isSome && s.ctxOf g.1 == ctx).map Prod.fst
  gs.foldl (fun s g => if k = Code.EVICT then s.abortTry g abPREEMPT Code.PREEMPT 0 else s.abortTry g abTRAP k 0)
    (s.errRecord ctx 2 k 0 0 0 info)

/-! ## Raising a cause (R102-R104) -/

/-- Holds a cause as the slot's pending one: a class A cause gives way to a later one. -/
def Slot.hold (x : Slot) (r : Raised) : Slot :=
  match x.pend with
  | none => { x with pend := some r }
  | some p => if p.cls = .a then { x with pend := some r } else x

/-- A trap in one iteration of a REP ends it: the iterations above have no effect (R44). (DEDUCED, log 13) -/
def Slot.endRep (x : Slot) (serial : Nat) : Slot :=
  if x.rep.any fun i => i.serial == serial && serial != 0 then { x with rep := none, repBank := none } else x

/-- The replay that the handler of a cause decides about. -/
def Replay.of (y : Replay) (r : Raised) : Bool :=
  y.slotB == r.slotB && y.pos == r.pos && y.repi == r.repi && y.serial == r.serial && y.stage == .raised

/-- The handler of the cause runs. -/
def Replay.taken (y : Replay) (r : Raised) : Replay := if y.of r then { y with stage := .handled } else y

/-- The cause becomes its slot's pending one. One that a pending cause keeps out is lost, and with it the replay that its handler could have
asked for (R102). -/
def Group.holdPending (g : Group) (r : Raised) : Group :=
  let lost := (g.slot r.slotB).pend.any fun p => p.cls != .a
  { g with replays := g.replays.filter fun y => !(lost && y.of r) }.setSlot r.slotB ((g.slot r.slotB).hold r)

/-- The group takes the trap, or holds the cause while it takes or handles another one (R102). -/
def Group.hold (g : Group) (r : Raised) : Group :=
  let g := g.setSlot r.slotB ((g.slot r.slotB).endRep r.serial)
  if g.trap.isNone && !g.priv then { g with trap := some r } else g.holdPending r

/-! ## Causes and a pending speculative fence (R138) -/

/-- The cause comes from words up to the fence, so that it is no effect which a rollback discards: a deferred one (stores wait for the
fence), or one of a bundle not later than the fence's own. -/
def SpecFence.before (f : SpecFence) (r : Raised) : Bool := r.cls == .d || r.serial != 0 && decide (r.serial ≤ f.serial)

/-- A slot at a speculative fence's checkpoint; a STEP that a later bundle of the slot has raised is armed again. -/
def Slot.atFence (cur old : Slot) (f : SpecFence) (raised : List Raised) : Slot :=
  let y := { cur.restored old with
    park := old.park, rep := old.rep, repBank := old.repBank, pend := cur.pend.filter f.before
    step := cur.step || raised.any fun r => r.cause == Code.STEP && !f.before r }
  (raised.filter f.before).foldl (fun y r => y.endRep r.serial) y

/-- The group discards every effect after its speculative fence (R138). A cause from before it stays. (DEDUCED, log 16) -/
def Group.rollFence (g : Group) (f : SpecFence) : Group :=
  let raised (b : Bool) : List Raised := (g.trap.toList ++ (g.slot b).pend.toList).filter fun r => r.slotB == b
  { g with
    regs := f.ckpt.regs
    trapRegs := f.ckpt.trapRegs
    a := g.a.atFence f.ckpt.a f (raised false)
    b := g.b.atFence f.ckpt.b f (raised true)
    out := f.ckpt.out
    queue := g.queue.filter fun e => e.id ≤ f.id
    flights := g.flights.filter fun x => x.entry.id < f.id
    replays := g.replays.filter fun r => r.id < f.id
    trap := g.trap.filter f.before
    spec := none }

/-- The entry with its fence made strict. -/
def Entry.toStrict (e : Entry) : Entry :=
  match e.body with
  | .fence k p _ => { e with body := .fence k p true }
  | _ => e

/-- A cause from before the group's pending speculative fence: what was issued past the fence is undone, and the fence goes on as a strict
one, so that its rollback cannot meet the trap. (DEDUCED, log 16) -/
def Group.unspec (g : Group) (f : SpecFence) : Group :=
  let x := g.rollFence f
  { x with queue := x.queue.map fun e => if e.id == f.id then e.toStrict else e }

/-- The fence's own bundle is still in execution. -/
def State.fencing (s : State) (g : Nat) (f : SpecFence) : Bool := s.cursor.any fun c => c.grp == g && c.serial == f.serial

/-- What a cause does to a pending speculative fence. (DEDUCED, log 16) -/
def State.unspecFor (s : State) (g : Nat) (r : Raised) : State :=
  match (s.grp g).spec with
  | some f => if f.before r && !s.fencing g f then (s.modGrp g fun x => x.unspec f).unwatch g .fence else s
  | none => s

/-- The group keeps a cause of a word past its fence until the fence completes: only then is it taken, or ends the work-group. -/
def Group.holdSpec (g : Group) (r : Raised) : Group :=
  let g := g.setSlot r.slotB ((g.slot r.slotB).endRep r.serial)
  if g.trap.isNone && (!g.priv || r.slotB == g.privB) then { g with trap := some r } else g.holdPending r

/-- A cause of delivery H, outside a region, with no fence pending: the work-group ends where the slot's own handler raises it or the
kernel names none (R104); else the group holds it for its handler. -/
def State.takeOrEnd (s : State) (g : Nat) (r : Raised) : State :=
  let x := s.grp g
  if x.priv && r.slotB == x.privB then (s.record g r 4).endWg x.wg
  else if (s.wg x.wg).hdr.handler = 0 then (s.record g r 0).endWg x.wg
  else s.modGrp g fun y => y.hold r

/-- A slot raises a cause: it goes where R104 sends it. (DEDUCED, log 25) -/
def State.raise (s : State) (g : Nat) (r : Raised) : State :=
  if (s.grp g).dead then s
  else
    match delivery r.cause with
    | .n => s.record g r 1
    | .s => s
    | .c => s
    | .q => (s.record g r (if (s.grp g).priv then 4 else 0)).endWg (s.grp g).wg
    | .t => s.abortTry g (if r.cause = Code.TRYNEST then abDEPTH else if r.cause = Code.PREEMPT then abPREEMPT else abTRAP)
        r.cause 0
    | .h =>
      if (s.grp g).tryR.isSome then s.abortTry g abTRAP r.cause 0
      else
        let s := s.unspecFor g r
        if (s.grp g).spec.isSome then s.modGrp g fun y => y.holdSpec r else s.takeOrEnd g r

/-! ## Taking a trap (R102, R110, R111) -/

/-- The bytes of the trap save area: VREG, SREG, ACT, zero, RESUME, zero. -/
def Group.saveImage (g : Group) (b : Bool) (resume : Dword) : List Byte :=
  let vec (n : Nat) : List Byte := (takeWords 96 (tgetD g.regs.v n [])).flatMap fun w => leBytes 4 w.toNat
  ((List.range 8).map fun k => vec (120 + k)).flatten ++
    (List.range 8).flatMap (fun k => leBytes 4 (g.s b (48 + k)).toNat) ++
    leBytes 12 (g.slot b).bank.toNat ++ leBytes 4 0 ++ leBytes 8 resume.toNat ++ leBytes 8 0
where
  takeWords : Nat → List Word → List Word
    | 0, _ => []
    | n + 1, l => l.headD 0 :: takeWords n l.tail

/-- Where a trap resumes: the trapping bundle for class I, the next bundle not yet issued for classes D and A, the
recorded point for class E (R103). (DEDUCED, log 17) -/
def Group.resumeOf (g : Group) (r : Raised) : Dword :=
  match r.cls with
  | .e => r.resume
  | _ => (g.slot r.slotB).pc

/-- The trap state of R105-R109. -/
def trapState (r : Raised) (ttask : Word) : TrapRegs :=
  { tcause := BitVec.ofNat 32 ((if r.slotB then 256 else 0) + (if r.done = 0 then 0 else 128) + r.cause.toNat)
    tpc := r.pos.setWidth 32
    tmask := r.mask
    tdone := r.done
    tinfo := r.info
    faddr := r.faddr
    trepi := BitVec.ofNat 32 r.repi
    ttask := ttask }

/-- Entry to the handler (R110): the trap state is recorded, the save area written, and the trapping slot runs the
handler in privileged mode on its lanes. (DEDUCED, log 17; DEDUCED, log 18) -/
def State.deliver (s : State) (g : Nat) (r : Raised) : State :=
  let x := s.grp g
  let y := x.slot r.slotB
  let s := s.hwStore g (s.saveAddr g) (x.saveImage r.slotB (x.resumeOf r))
  let x' := { x with
    trapRegs := trapState r (s.ttask g r.slotB), priv := true, privB := r.slotB, privI := r.cls == Cls.i, trap := none
    sync := false, wroteA := [], wroteB := [], replays := x.replays.map fun (y : Replay) => y.taken r }
  let kp : Option Park := if r.cls == Cls.e || r.cls == Cls.i then none else y.park
  s.setGrp g (x'.setSlot r.slotB { y with
    st := .run, pc := (s.wg x.wg).hdr.handler, bank := y.active, point := none, park := none, rep := none, repBank := none
    kept := y.rep, keptPark := kp })

/-- A slot has no iteration of a REP left; a word that REPLAY reissues and that has not issued yet does not count. (DEDUCED, log 21) -/
def Slot.repDone (x : Slot) : Bool := x.rep.all fun i => i.replay && i.serial == 0

/-- The slot is not parked inside a word that must complete before a class A cause is taken (R103); TRY is not such a word,
for its region has not begun (R142). -/
def Slot.parkDone (x : Slot) : Bool :=
  match x.park with
  | none => true
  | some p => p.why == ParkWhy.tryWait

/-- The wait of R102 is over: nothing of the group is outstanding, no REP iteration is left, and the slot of a class
A cause is not parked inside a word. -/
def Group.trapReady (g : Group) : Option Raised :=
  match g.trap with
  | none => none
  | some r =>
    if g.out.isEmpty && g.a.repDone && g.b.repDone && (r.cls ≠ .a || (g.slot r.slotB).parkDone) then some r
    else none

/-- Takes the group's trap if its wait is over. A pending speculative fence comes first (R138); a cause that the fence held back and that
ends the work-group then does so without the wait (R102, R104). -/
def State.settle (s : State) (g : Nat) : State :=
  let x := s.grp g
  match x.trap with
  | none => s
  | some r =>
    if x.spec.isSome then s
    else if x.priv || (s.wg x.wg).hdr.handler == 0 then s.takeOrEnd g r
    else
      match x.trapReady with
      | none => s
      | some r => s.deliver g r

/-- A class I cause of the word at the cursor (R43, R103): no word of the bundle has effect. -/
def State.raiseIssue (s : State) (c : Cursor) (cause : Cause) (info : Word) : State :=
  let x := (s.grp c.grp).slot c.slotB
  let s := { s with cursor := some { c with gone := true, void := true } }
  (s.raise c.grp
    { cause := cause, cls := .i, slotB := c.slotB, pos := c.pos, mask := x.active, info := info, repi := c.repi
      resume := x.pc, serial := c.serial }).settle c.grp

/-- A class E cause of the word at the cursor: `mask` raised it, `done` performed. (DEDUCED, log 23) -/
def State.raiseE (s : State) (c : Cursor) (cause : Cause) (mask done : Mask) (info : Word) (faddr : List Dword) : State :=
  s.raise c.grp
    { cause := cause, cls := .e, slotB := c.slotB, pos := c.pos, mask := mask, done := c.done ||| done, info := info
      faddr := faddr, repi := c.repi, resume := c.next, serial := c.serial }

/-- A class E cause that a whole-group word raises, with %tmask, %tdone and %tinfo 0. (DEDUCED, log 23) -/
def State.trapE (s : State) (c : Cursor) (cause : Cause) : State := s.raiseE c cause 0 0 0 []

/-! ## Return from a trap (R114) -/

/-- Word `i` of a byte image. -/
def wordAt (bs : List Byte) (i : Nat) : Word := leWord ((bs.drop (4 * i)).take 4)

def dwordAt (bs : List Byte) (i : Nat) : Dword := leDword ((bs.drop (8 * i)).take 8)

/-- Words of a byte image. -/
def wordsFrom : Nat → List Byte → List Word
  | 0, _ => []
  | n + 1, bs => leWord (bs.take 4) :: wordsFrom n (bs.drop 4)

/-- RESUME and ACT of a save image. (DEDUCED, log 18) -/
def imageResume (bs : List Byte) : Dword := leDword ((bs.drop 3120).take 8)
def imageAct (bs : List Byte) : Mask := BitVec.ofNat 96 (leNat ((bs.drop 3104).take 12))

/-- Restores the save area and leaves privileged mode; the slot goes on at `pc` on lanes `act`. ACT governs the slot at once, be `pc` in
the middle of a packet or not (R114 restores it; R18 speaks of writes of q14). (DESIGN CHOICE, log 95) -/
def Group.leave (g : Group) (bs : List Byte) (pc : Dword) : Group :=
  let v := (List.range 8).foldl (fun t k => tset t (120 + k) (wordsFrom 96 (bs.drop (384 * k)))) g.regs.v
  let sr := (List.range 8).foldl (fun t k => tset t (48 + k) (wordAt bs (768 + k))) g.regs.s
  let y := g.slot g.privB
  let act := imageAct bs &&& y.owned
  { g with regs := { g.regs with v := v, s := sr }, priv := false, privI := false }.setSlot g.privB
    { y with
      pc := pc, active := act, bank := act, park := y.keptPark, rep := y.kept, kept := none, keptPark := none }

/-- The slot's outstanding q14 results go: the lanes that they were for have left the slot (R14, R18). -/
def Group.dropActs (g : Group) (b : Bool) : Group :=
  let act (r : Result) : Bool := r.slotB == b && (match r.reg with | .act _ => true | _ => false)
  { g with out := g.out.filter fun r => !act r }

/-- The held cause of a slot becomes the group's trap, the restored slot's own first (R102, R114). -/
def Group.takePending (g : Group) (b : Bool) : Group :=
  let go (b : Bool) : Option Group :=
    match (g.slot b).pend with
    | some r => some ({ g with trap := some r }.setSlot b { g.slot b with pend := none })
    | none => none
  match go b with
  | some x => x
  | none => (go (!b)).getD g

/-! ## The divergence stack (R15, R97) and the slots' changes of state (R14) -/

/-- An entry of the divergence stack with its return-stack image. -/
structure StackEntry where
  target : Dword
  mask : Mask
  point : Option Dword
  rstack : List Dword
  deriving DecidableEq, Repr

def allOnes64 : Dword := BitVec.allOnes 64

def StackEntry.bytes (e : StackEntry) : List Byte :=
  leBytes 8 e.target.toNat ++ leBytes 8 (e.point.getD allOnes64).toNat ++ leBytes 12 e.mask.toNat ++ leBytes 4 0

/-- A return-stack image: ENTRY i is the i-th pushed, COUNT at byte 56. -/
def imageBytes (st : List Dword) : List Byte :=
  let r := st.reverse
  (List.range 7).flatMap (fun i => leBytes 8 (r.getD i 0).toNat) ++ leBytes 1 st.length ++ leBytes 7 0

/-- Pushes an entry; the caller has checked the depth. -/
def State.pushStack (s : State) (g : Nat) (e : StackEntry) : State :=
  let k := (s.grp g).dsp
  let s := (s.hwStore g (s.stackAddr g k) e.bytes).hwStore g (s.imageAddr g k) (imageBytes e.rstack)
  s.modGrp g fun x => { x with dsp := k + 1 }

/-- The point of the top entry. -/
def State.topPoint (s : State) (g : Nat) : Option Dword :=
  let k := (s.grp g).dsp
  if k = 0 then none
  else
    let p := leDword (s.hwLoad g (s.stackAddr g (k - 1) + 8) 8)
    if p = allOnes64 then none else some p

/-- Bits 63:32 of every code address of a group's context equal those of its kernel entry (R106). -/
def State.highOk (s : State) (g : Nat) (t : Dword) : Bool := t >>> 32 == (s.wg (s.grp g).wg).hdr.entry >>> 32

/-- The top entry, or the cause that popping it raises. -/
def State.topEntry (s : State) (g : Nat) : Except Cause StackEntry :=
  let k := (s.grp g).dsp - 1
  let e := s.hwLoad g (s.stackAddr g k) 32
  let im := s.hwLoad g (s.imageAddr g k) 64
  let n := leNat ((im.drop 56).take 1)
  let es := (List.range n).map fun i => dwordAt im i
  let m := BitVec.ofNat 96 (leNat ((e.drop 16).take 12))
  let t := dwordAt e 0
  let p := dwordAt e 1
  if leNat (e.drop 28) ≠ 0 ∨ m = 0 ∨ t.toNat % 3 ≠ 0 ∨ 7 < n ∨ leNat (im.drop 57) ≠ 0 ∨
      es.any (fun x => x.toNat % 3 != 0) then .error Code.DSBAD
  else if !s.highOk g t then .error Code.ILLTGT
  else .ok { target := t, mask := m, point := if p = allOnes64 then none else some p, rstack := es.reverse }

/-- A popping slot (R14 step 1). -/
def Slot.popped (x : Slot) (e : StackEntry) : Slot :=
  { x with st := .run, pc := e.target, owned := e.mask, active := e.mask, bank := e.mask, point := e.point
           rstack := e.rstack, park := none, repBank := none }

/-- A slot without lanes. -/
def Slot.free (x : Slot) : Slot :=
  { x with st := .free, owned := 0, active := 0, bank := 0, point := none, rstack := [], park := none, repBank := none }

/-- A cause of the steps of R14. Where a word of the group is in execution, it is that word's; else slot `b`, which changed state, raises
it at its own address, where it also resumes. (DESIGN CHOICE, log 96) -/
def State.raise14 (s : State) (g : Nat) (b : Bool) (cause : Cause) : State :=
  match s.cursor with
  | some c => if c.grp == g then s.raiseE c cause 0 0 0 [] else go s
  | none => go s
where
  go (s : State) : State :=
    let pc := ((s.grp g).slot b).pc
    (s.raise g { cause := cause, cls := .e, slotB := b, pos := pc, resume := pc }).settle g

/-- One application of a step of R14, and whether the steps go on; none when none applies. `b` is the slot that changed state. -/
def State.step14 (s : State) (g : Nat) (b : Bool) : Option (State × Bool) :=
  let x := s.grp g
  if x.dead || x.trap.isSome then none
  else if x.dsp ≠ 0 ∧ (x.a.st = .free ∨ x.b.st = .free) then
    match s.topEntry g with
    | .error c => some (s.raise14 g b c, false)
    | .ok e =>
      let into := x.a.st ≠ .free
      some (s.setGrp g (({ x with dsp := x.dsp - 1 }.setSlot into ((x.slot into).popped e)).dropActs into), true)
  else if x.a.st = .wait ∧ x.b.st = .wait then
    let held := match x.tryR with | some r => !r.otherFree | none => false
    if x.a.point = x.b.point ∧ held = false then
      let p := x.a.point
      let a := { x.a with owned := x.a.owned ||| x.b.owned, active := x.a.active ||| x.b.active
                          bank := x.a.bank ||| x.b.bank }
      let a := if s.topPoint g = p ∧ x.dsp ≠ 0 then a else { a with st := .run, pc := p.getD a.pc, point := none }
      some (s.setGrp g ({ x with a := a, b := x.b.free }.dropActs true), true)
    else some (s.raise14 g b Code.RECONVX, false)
  else if x.dsp = 0 ∧ x.a.st = .wait ∧ x.b.st = .free then
    some (s.setGrp g { x with a := { x.a with st := .run, pc := x.a.point.getD x.a.pc, point := none } }, true)
  else if x.dsp = 0 ∧ x.b.st = .wait ∧ x.a.st = .free then
    some (s.setGrp g { x with b := { x.b with st := .run, pc := x.b.point.getD x.b.pc, point := none } }, true)
  else none

/-- The steps of R14, repeated until none applies or one raises a cause: at most one pop and one merge for each
entry of the stack. -/
def State.run14 : Nat → State → Nat → Bool → State
  | 0, s, _, _ => s
  | n + 1, s, g, b =>
    match s.step14 g b with
    | none => s
    | some (t, true) => t.run14 n g b
    | some (t, false) => t

def State.r14 (s : State) (g : Nat) (b : Bool) : State := s.run14 520 g b

end Sys2Proof.Machine
end

