-- ==== Sys2Proof/Machine/Operands.lean ====
section
/-! DEFINITION. Operand forms that several instructions share: immediates with and without LIT (R36, R45), the
conditions of R78, rounding modes (R54, R58, R59), the special registers' kinds (R21, R22, R120). -/

namespace Sys2Proof.Machine

open Sys2Proof.Fp (Mode)

/-! ## Immediates and conditions -/

/-- The immediate of an FI word (R36, R45). -/
def immOf (lit : Option (BitVec 24)) (i : BitVec 8) : Word :=
  match lit with
  | some v => (v ++ i : BitVec 32)
  | none => i.signExtend 32

/-- The conditions of ICMP and SCMP (R78). -/
def holds (k : Cond) (a b : Word) : Bool :=
  match k with
  | .eq => a == b
  | .ne => a != b
  | .lt => a.slt b
  | .le => a.sle b
  | .ltn => a.ult b
  | .len => a.ule b
  | .tstz => a &&& b == 0
  | .tstnz => a &&& b != 0

/-! ## Lanes of a vector result -/

/-- A value for each lane from a function of a lane. -/
def mask1 (lanes : Mask) (p : Nat → Bool) : Mask := maskOf ((lanesOf lanes).filter p)

/-! ## Rounding -/

def Group.ftz (g : Group) : Bool := g.regs.mode.toNat / 8 % 2 == 1

/-- The rounding mode, 1 to 6, that a rounding field selects (R58). -/
def Group.rmOf (g : Group) (r : Rm) : Nat :=
  match r with
  | .dyn => g.regs.mode.toNat % 8
  | .rne => 1 | .rz => 2 | .rdn => 3 | .rup => 4 | .rna => 5 | .rsto => 6 | .illegal => 7

/-- The seed after `n` advances (R59). -/
def seedAfter : Nat → Word → Word
  | 0, x => x
  | n + 1, x => seedAfter n (Fp.xorshift x)

/-- The seed a lane draws from: the value of the newest write to it, landed or not, so that every draw advances the seed (R59).
(DEDUCED, log 28) -/
def Group.seedNow (g : Group) (lane : Nat) : Word :=
  match g.out.reverse.find? fun x => x.reg == Reg.seed && x.mask.getLsbD lane with
  | some x => x.vals.getD lane 0
  | none => g.regs.seed.getD lane 0

/-- The mode for the rounding of element `k` in a lane: RSTO draws from the lane's seed advanced k + 1 times. -/
def Group.laneMode (g : Group) (rm lane k : Nat) : Mode :=
  match rm with
  | 2 => .rz
  | 3 => .rdn
  | 4 => .rup
  | 5 => .rna
  | 6 => .rsto (Fp.draw (seedAfter (k + 1) (g.seedNow lane)))
  | _ => .rne

/-- Seeds after an instruction that rounds `n` values in mode RSTO (R59). (DEDUCED, log 28) -/
def Group.seedsAfter (g : Group) (lanes : Mask) (n : Nat) : List Word :=
  perLane fun i =>
    if lanes.getLsbD i then seedAfter n (g.seedNow i) else g.regs.seed.getD i 0

/-- The seeds' new values as a result of the word. (DEDUCED, log 28) -/
def State.postSeeds (s : State) (c : Cursor) (vals : List Word) : State :=
  s.postR c.grp { slotB := c.slotB, reg := .seed, mask := c.lanes, vals := vals, how := .set, src := 0 }

/-! ## Special registers (R21, R22, R120) -/

/-- Kinds of special registers. -/
inductive SprKind where
  | lane | lanePair | group | triple
  deriving DecidableEq, Repr

/-- The kind of a special register; none where the number is unassigned. -/
def sprKind (n : Nat) : Option SprKind :=
  if n = 0x04 ∨ n = 0x05 ∨ n = 0x0D then some .lane
  else if n = 0x25 then some .lanePair
  else if n = 0x22 ∨ n = 0x23 then some .triple
  else if n ≤ 0x0C ∨ (0x10 ≤ n ∧ n ≤ 0x13) ∨ (0x20 ≤ n ∧ n ≤ 0x27) ∨ (0x30 ≤ n ∧ n ≤ 0x35) then some .group
  else none

/-- The operand of a move fits the register's kind; `src` says that it is MTS's source, where constants count. -/
def sprFits (k : SprKind) (src : Bool) (f : Nat) : Bool :=
  match k with
  | .lane => true
  | .lanePair => f % 2 == 0
  | .group => src || decide (f < 64)
  | .triple => decide (f ≤ 14)

/-- Vector registers that the operand of a move names. -/
def sprVregs (n f : Nat) : Option (Nat × Nat) :=
  match sprKind n with
  | some .lane => some (f, f + 1)
  | some .lanePair => some (f, f + 2)
  | _ => none

/-- The trap registers are privileged. -/
def sprPriv (n : Nat) : Bool := decide (0x20 ≤ n ∧ n ≤ 0x27)

end Sys2Proof.Machine
end

