-- ==== Sys2Proof/Machine/Checks.lean ====
section
/-! DEFINITION. The issue-time checks of one word (R43) and the frame that every instruction word shares: the checks,
then what a try region forbids (R143, R150), then the word's own effect. -/

namespace Sys2Proof

open Machine

namespace Machine

/-- The vector registers from `lo` to one below `hi` are within budget (R16, R110). -/
def Group.vregsOk (g : Group) (vregs : Nat) (b : Bool) (lo hi : Nat) : Bool :=
  decide (hi ≤ vregs) || (g.priv && b == g.privB && decide (120 ≤ lo ∨ (lo < vregs ∧ 120 ≤ vregs)))

end Machine

/-- The vector registers that a word's operands name, as ranges. -/
def Instr.vranges (i : Instr) : List (Nat × Nat) :=
  match i with
  | .mfs d a => (sprVregs a.toNat d.toNat).toList
  | .mts d a => (sprVregs d.toNat a.toNat).toList
  | i => i.opnds.filterMap Opnd.vregs

/-- ILLSPR of MFS and MTS (R22, R120). -/
def Instr.illspr (i : Instr) : Bool :=
  let bad (n f : Nat) (src : Bool) : Bool :=
    match sprKind n with
    | none => true
    | some k => !sprFits k src f
  match i with
  | .mfs d a => bad a.toNat d.toNat false
  | .mts d a => bad d.toNat a.toNat true
  | _ => false

/-- PRIV: a return, or a trap register, outside privileged mode (R114, R120). -/
def Instr.needsPriv (i : Instr) : Bool :=
  match i with
  | .rtt _ => true
  | .replay => true
  | .emret => true
  | .endg _ => true
  | .mfs _ a => sprPriv a.toNat
  | .mts d _ => sprPriv d.toNat
  | _ => false

/-- ILLOP of a word's own entry: a shift count outside 0 to 31 (R77, R82), TRY in privileged mode (R141). -/
def Instr.ownIllop (i : Instr) (lit : Option (BitVec 24)) (priv : Bool) : Bool :=
  match i with
  | .shli _ _ k => decide (31 < (immOf lit k).toNat)
  | .shri _ _ k => decide (31 < (immOf lit k).toNat)
  | .sari _ _ k => decide (31 < (immOf lit k).toNat)
  | .sshli _ _ k => decide (31 < (immOf lit k).toNat)
  | .tryBegin _ _ => priv
  | _ => false

namespace Machine

/-- ASRC and BSRC of a matrix control word (R201): the operand comes from vector registers. -/
def ctlASrc (w : Word) : Bool := w.getLsbD 19
def ctlBSrc (w : Word) : Bool := w.getLsbD 20

/-- The fields of MMA that name a handle, a scalar pair: those of the operands that its control word takes from the scratchpad (R207). -/
def Group.handles (x : Group) (b : Bool) (i : Instr) : List Nat :=
  match i with
  | .mma d f h _ =>
    let ctl := x.s b d.toNat
    (if ctlASrc ctl then [] else [f.toNat]) ++ if ctlBSrc ctl then [] else [h.toNat]
  | _ => []

/-- Scalar registers that a word names, as ranges. -/
def Group.scalars (x : Group) (b : Bool) (i : Instr) : List (Nat × Nat) :=
  match i with
  | .mts d a => match sprKind d.toNat with
    | some .group => (Opnd.sc a.toNat).sregs.toList
    | some .triple => (Opnd.q a.toNat).sregs.toList
    | _ => []
  | i => i.opnds.filterMap Opnd.sregs ++ (x.handles b i).map fun n => (n, n + 2)

/-- The word names a scalar with property `p`. -/
def Group.reads (x : Group) (b : Bool) (i : Instr) (p : Nat → Bool) : Bool :=
  (x.scalars b i).any fun r => (List.range (r.2 - r.1)).any fun k => p (r.1 + k)

/-- The class I cause of a word, in the order of R43, and its %tinfo (R108). The causes of the bundle (ILLPKT, ILLLIT,
ILLREP) are checked at issue. A handle field of MMA above 63 is no scalar pair, ILLOP (R34); an odd one is MOPND (R203), so 63 too, which
both rules name. (DESIGN CHOICE, log 105) -/
def State.issueCause (s : State) (g : Nat) (b : Bool) (lit : Option (BitVec 24)) (raw : Word) (i : Instr) :
    Option (Cause × Word) :=
  let x := s.grp g
  let priv := x.priv && b == x.privB
  if i.kindCause = some Code.ILLOP || i.ownIllop lit priv || (x.handles b i).any fun n => decide (63 < n) then some (Code.ILLOP, raw)
  else
    match i.kindCause with
    | some k => some (k, raw)
    | none =>
      if i.illspr then some (Code.ILLSPR, raw)
      else if i.needsPriv && !priv then some (Code.PRIV, raw)
      else if i.vranges.any fun r => !x.vregsOk (s.wg x.wg).hdr.vregs b r.1 r.2 then some (Code.REGBUD, raw)
      else
        match i with
        | .trap n => some (Code.SWTRAP, n.setWidth 32)
        | .bkpt n => some (Code.BKPT, n.setWidth 32)
        | _ => none

/-! ## What a try region forbids (R150) -/

end Machine

/-- Words that abort a region with ENGINE. -/
def Instr.engineWord (i : Instr) : Bool :=
  match i with
  | .pin .. | .unpin .. | .ptouch .. | .spawn .. | .spawnr .. | .jdec .. => true
  | .xwr .. | .xrd .. | .xred .. | .xatom .. | .xmlr .. | .xmst .. | .xtrig .. | .xcnt .. | .coll .. | .xwait .. => true
  | .bararv .. | .barwt .. | .baraw .. | .barinit .. | .barexp .. => true
  | .rginit .. | .rgacq .. | .rgpub .. | .rgwait .. | .rgrel .. => true
  | .cpy .. | .cpy2 .. | .cpyt .. | .cpyg .. | .cpys .. | .cpywp .. | .cpywt .. | .cpyst .. => true
  | .mma .. | .mloop .. | .mzero .. | .mzeroRel .. | .mlda .. | .msta .. | .mav .. | .mva .. => true
  | .mwait .. | .msync .. | .spfen | .mcfg .. | .maud .. | .mjoin .. | .mleave => true
  | .cclean .. | .cinv .. | .cflush .. | .tmld .. => true
  | _ => false

/-- Words of major 0x1C. -/
def Instr.colanderWord (i : Instr) : Bool :=
  match i with
  | .skdef .. | .skundef .. | .skmerge .. | .skfold .. | .skclr .. | .skstat .. | .sksnap .. | .skqv .. => true
  | _ => false

/-- Vector registers that a word writes (R143). -/
def Instr.vdests (i : Instr) : List Nat :=
  match i with
  | .st .. | .red .. | .calli .. | .mts .. => []
  | .mfs d a => match sprVregs a.toNat d.toNat with
    | some (lo, hi) => (List.range (hi - lo)).map (lo + ·)
    | none => []
  | i => match i.opnds.head?.bind Opnd.vregs with
    | some (lo, hi) => (List.range (hi - lo)).map (lo + ·)
    | none => []

/-- Words that combine lanes (R153). (DEDUCED, log 56) -/
def Instr.combines (i : Instr) : Bool :=
  match i with
  | .vtos .. | .shfl .. | .shflx .. | .shflup .. | .shfldn .. => true
  | .redadd .. | .redmin .. | .redmax .. | .redor .. | .scanadd .. | .scanaddx .. => true
  | .matchLead .. | .matchCount .. | .tmred .. | .icmp .. | .fcmp .. => true
  | _ => false

namespace Machine

/-- The abort that a word makes in the open region: its code and cause. -/
def TryRegion.stops (r : TryRegion) (i : Instr) : Option (Nat × Cause) :=
  if i.engineWord then some (abENGINE, 0)
  else if i.colanderWord then some (abCOLANDER, 0)
  else if i = .exit then some (abTRAP, Code.EXITTRY)
  else if 64 < r.shadow.length + (i.vdests.filter fun n => (tget r.shadow n).isNone).length then some (abCAPREG, 0)
  else none

/-- Notes a word that combines lanes in the open region (R153). -/
def State.noteCombine (s : State) (g : Nat) (i : Instr) : State :=
  if i.combines then
    let f (r : TryRegion) : TryRegion := { r with combined := true }
    s.modGrp g fun x => { x with tryR := x.tryR.map f }
  else s

/-- The frame of every instruction word: without a slot that issues it there is nothing to do; a class I cause, an
abort of the open region, or else the word's own effect `f`. (DEDUCED, log 9) -/
def word (i : Instr) (s : State) (f : Cursor → State → State) : Host.Outcome State Fault Refusal :=
  match s.cursor with
  | none => .fault .noIssuingSlot
  | some c =>
    if c.void then .next s
    else
      match s.issueCause c.grp c.slotB c.lit c.raw i with
      | some (k, info) => .next (s.raiseIssue c k info)
      | none =>
        match (s.grp c.grp).tryR with
        | none => .next (f c s)
        | some r =>
          match r.stops i with
          | some (code, cause) => .next (s.abortTry c.grp code cause 0)
          | none => .next (f c (s.noteCombine c.grp i))

end Machine

end Sys2Proof
end

