-- ==== Sys2Proof/Machine/Control.lean ====
section
/-! DEFINITION. Branches, calls, returns and reconvergence (R12, R13, R96-R101), the prefixes REP and LIT (R44, R45), and
the fetch of an instruction word (R27). -/

namespace Sys2Proof.Machine

/-! ## Fetch (R27) -/

/-- The instruction word at a word index, or the cause that its fetch raises, in the order of R27; a Colander window is
refused with PFX (R247). (DEDUCED, log 15) -/
def State.fetchWord (s : State) (ctx i : Nat) : Except Cause Word :=
  let va := 4 * i % 18446744073709551616
  let base := va / 34359738368 * 34359738368
  if !canonical va then .error Code.NCADDR
  else if (tget (s.ctx ctx).regions base).isSome then .error Code.PFX
  else
    match s.translate ctx va .fetch with
    | .error c => .error c
    | .ok e =>
      match s.eccCheck [leafPa e va / 32] with
      | some c => .error c
      | none => .ok (leWord (s.homeBytes ctx va 4))

/-- %tinfo of a fetch fault, the trapping word (R108): the word that a page forbids to execute; where no word can be read, a free value.
(DEDUCED, log 15) -/
def State.fetchInfo (s : State) (ctx va : Nat) (c : Cause) : Word :=
  if c = Code.PFX && (s.window ctx va).isNone then leWord (s.homeBytes ctx va 4) else Config.freeWord s.free

/-! ## Transfers of control -/

/-- The packet that holds the word at the cursor. -/
def Cursor.packet (c : Cursor) : Nat := c.pos.toNat / 3

/-- Target of a packet offset (R39, R40). -/
def Cursor.target (c : Cursor) (off : Int) : Dword := BitVec.ofInt 64 (3 * (c.packet + off))

/-- The packet after the one holding the word (R99). -/
def Cursor.after (c : Cursor) : Dword := c.target 1

/-- Changes the cursor. -/
def State.modCursor (s : State) (f : Cursor → Cursor) : State := { s with cursor := s.cursor.map f }

/-- The slot goes on at `t` after the bundle (R30). -/
def State.goTo (s : State) (t : Dword) : State := s.modCursor fun c => { c with xfer := some t }

/-- A code target is a packet start with the context's high bits (R27, R106). -/
def State.targetOk (s : State) (g : Nat) (t : Dword) : Bool := t.toNat % 3 == 0 && s.highOk g t

/-- A transfer with its checks. -/
def State.jump (s : State) (c : Cursor) (t : Dword) : State :=
  if s.targetOk c.grp t then s.goTo t else s.trapE c Code.ILLTGT

/-- Changes the issuing slot. -/
def State.modSlot (s : State) (g : Nat) (b : Bool) (f : Slot → Slot) : State :=
  s.modGrp g fun x => x.setSlot b (f (x.slot b))

/-- Results that words of the cursor's bundle in higher slots have posted: the last ones outstanding (R30). -/
def Cursor.above (c : Cursor) : Nat := ((c.posts.filter fun p => decide (c.pos.toNat < p.1.toNat)).map fun p => p.2).sum

/-- A slot's lanes as BRM, CALLI and EXIT leave them: the q14 writes still outstanding are older and go, but for those of words in higher
slots of the bundle, whose value remains (R18, R30). Iterations left of a REP in the bundle go on reading the old q14. -/
def State.setLanes (s : State) (c : Cursor) (owned active : Mask) : State :=
  let left := s.issued.head?.any fun i => i.grp == c.grp && i.slotB == c.slotB && !i.later.isEmpty
  let f (x : Slot) : Slot :=
    { x with owned := owned, active := active, bank := active, repBank := if left then some x.q14 else x.repBank }
  (s.modSlot c.grp c.slotB f).modGrp c.grp fun x =>
    let k := x.out.length - c.above
    { x with out := ({ x with out := x.out.take k }.dropActs c.slotB).out ++ x.out.drop k }

/-- A conditional branch that moves the whole slot (R96). -/
def State.branch (s : State) (c : Cursor) (f : BitVec 15) (taken : Bool) : State :=
  if taken then s.jump c (c.target f.toInt) else s

/-- BRA (R96). -/
def execBra (f : BitVec 15) (s : State) : Host.Outcome State Fault Refusal :=
  word (.bra f) s fun c s => s.branch c f true

/-- BZ (R96). -/
def execBz (q : BitVec 6) (f : BitVec 15) (s : State) : Host.Outcome State Fault Refusal :=
  word (.bz q f) s fun c s => s.branch c f ((s.grp c.grp).s c.slotB q.toNat == 0)

/-- BNZ (R96). -/
def execBnz (q : BitVec 6) (f : BitVec 15) (s : State) : Host.Outcome State Fault Refusal :=
  word (.bnz q f) s fun c s => s.branch c f ((s.grp c.grp).s c.slotB q.toNat != 0)

/-- BANY (R96). -/
def execBany (q : BitVec 6) (f : BitVec 15) (s : State) : Host.Outcome State Fault Refusal :=
  word (.bany q f) s fun c s => s.branch c f ((s.grp c.grp).q c.slotB q.toNat &&& c.lanes != 0)

/-- BALL (R96). -/
def execBall (q : BitVec 6) (f : BitVec 15) (s : State) : Host.Outcome State Fault Refusal :=
  word (.ball q f) s fun c s => s.branch c f ((s.grp c.grp).q c.slotB q.toNat &&& c.lanes == c.lanes)

/-- BNONE (R96). -/
def execBnone (q : BitVec 6) (f : BitVec 15) (s : State) : Host.Outcome State Fault Refusal :=
  word (.bnone q f) s fun c s => s.branch c f ((s.grp c.grp).q c.slotB q.toNat &&& c.lanes == 0)

/-- The send allowance towards a device (R314). -/
def State.alw (s : State) (dev : Nat) : Nat :=
  let a := tgetD s.allow dev {}
  a.cap - a.out

/-- BALW (R96, R315). -/
def execBalw (q : BitVec 6) (f : BitVec 15) (s : State) : Host.Outcome State Fault Refusal :=
  word (.balw q f) s fun c s =>
    let dev := ((s.grp c.grp).s c.slotB q.toNat).toNat
    if 575 < dev then s.trapE c Code.ILLTGT
    else s.branch c f (decide (s.alw dev < (s.grp c.grp).regs.allowth.toNat % 65536))

/-! ## BRM (R12) -/

/-- BRM with condition `q` and target `t`. Inside a try region a push aborts with CAPREG before anything changes (R144), so also where the
stack has no room for it. (DESIGN CHOICE, log 97) -/
def State.brm (s : State) (c : Cursor) (q : Mask) (t : Dword) : State :=
  let g := s.grp c.grp
  let x := g.slot c.slotB
  let taken := c.lanes &&& q
  if taken = 0 then s
  else if !s.targetOk c.grp t then s.trapE c Code.ILLTGT
  else if taken = c.lanes then s.goTo t
  else if (g.slot (!c.slotB)).st = .free then
    let new (y : Slot) : Slot :=
      { y with st := .run, pc := t, owned := taken, active := taken, bank := taken, point := x.point, rstack := x.rstack
               park := none }
    ((s.setLanes c (x.owned &&& ~~~taken) (c.lanes &&& ~~~taken)).modSlot c.grp (!c.slotB) new).r14 c.grp (!c.slotB)
  else if g.tryR.isSome then s.abortTry c.grp abCAPREG 0 0
  else if g.dsp < (s.wg g.wg).hdr.dstack then
    let e : StackEntry := { target := t, mask := taken, point := x.point, rstack := x.rstack }
    (s.pushStack c.grp e).setLanes c (x.owned &&& ~~~taken) (c.lanes &&& ~~~taken)
  else s.trapE c Code.DSOVF

/-- BRM (R12, R96). -/
def execBrm (q : BitVec 6) (f : BitVec 15) (s : State) : Host.Outcome State Fault Refusal :=
  word (.brm q f) s fun c s => s.brm c ((s.grp c.grp).q c.slotB q.toNat) (c.target f.toInt)

/-! ## Calls and returns (R97-R100) -/

/-- The checks of R98 on a call target. (DEDUCED, log 22) -/
def State.calleeCause (s : State) (g : Nat) (t : Dword) : Option Cause :=
  let ctx := s.ctxOf g
  let at_ (k : Nat) : Nat := match s.fetchWord ctx (t.toNat - 3 + k) with | .ok w => w.toNat | .error _ => 0
  let n := at_ 0 - 0x25000000
  if !s.targetOk g t || decide (t.toNat < 3) then some Code.ILLTGT
  else if at_ 0 < 0x25000001 ∨ 0x25000080 < at_ 0 ∨ at_ 1 ≠ 0x3F000000 ∨ at_ 2 ≠ 0x3F000000 then some Code.ILLTGT
  else if (s.wg (s.grp g).wg).hdr.callregs < n then some Code.CALLBUD
  else none

/-- CALL and CALLS to a target (R99). -/
def State.callTo (s : State) (c : Cursor) (t : Dword) : State :=
  match s.calleeCause c.grp t with
  | some k => s.trapE c k
  | none =>
    if 7 ≤ ((s.grp c.grp).slot c.slotB).rstack.length then s.trapE c Code.CALLSTK
    else (s.modSlot c.grp c.slotB fun x => { x with rstack := c.after :: x.rstack }).goTo t

/-- CALL (R99). -/
def execCall (o : BitVec 24) (s : State) : Host.Outcome State Fault Refusal :=
  word (.call o) s fun c s => s.callTo c (c.target o.toInt)

/-- CALLS (R99). -/
def execCalls (a : BitVec 7) (s : State) : Host.Outcome State Fault Refusal :=
  word (.calls a) s fun c s => s.callTo c ((s.grp c.grp).scp c.slotB a.toNat)

/-- JMPI (R99). -/
def execJmpi (a : BitVec 7) (s : State) : Host.Outcome State Fault Refusal :=
  word (.jmpi a) s fun c s => s.jump c ((s.grp c.grp).scp c.slotB a.toNat)

/-- RET (R99). -/
def execRet (s : State) : Host.Outcome State Fault Refusal :=
  word .ret s fun c s =>
    match ((s.grp c.grp).slot c.slotB).rstack with
    | [] => s.trapE c Code.RETEMPTY
    | t :: r =>
      if s.targetOk c.grp t then (s.modSlot c.grp c.slotB fun x => { x with rstack := r }).goTo t
      else s.trapE c Code.ILLTGT

/-- Distinct targets of the active lanes, by lowest lane, each with its lanes. -/
def Group.targets (g : Group) (lanes : Mask) (a : Nat) : List (Dword × Mask) :=
  let ts := (lanesOf lanes).foldl (fun l i => if l.contains (g.vp a i) then l else l ++ [g.vp a i]) []
  ts.map fun t => (t, mask1 lanes fun i => g.vp a i == t)

/-- CALLI on the targets of the active lanes (R100); a slot with no active lane has none and goes on. (DEDUCED, log 22) -/
def State.calli (s : State) (c : Cursor) (ts : List (Dword × Mask)) : State :=
  let g := s.grp c.grp
  let x := g.slot c.slotB
  match ts.findSome? fun t => s.calleeCause c.grp t.1 with
  | some k => s.trapE c k
  | none =>
    if 7 ≤ x.rstack.length then s.trapE c Code.CALLSTK
    else
      match ts with
      | [] => s
      | [t] => s.callTo c t.1
      | t :: rest =>
        if g.tryR.isSome then s.abortTry c.grp abCAPREG 0 0
        else if (s.wg g.wg).hdr.dstack < g.dsp + rest.length then s.trapE c Code.DSOVF
        else
          let img := c.after :: x.rstack
          let s := rest.reverse.foldl (fun s e =>
            s.pushStack c.grp { target := e.1, mask := e.2, point := some c.after, rstack := img }) s
          let others := rest.foldl (fun m e => m ||| e.2) 0
          let s := s.setLanes c (x.owned &&& ~~~others) t.2
          ((s.modSlot c.grp c.slotB fun y => { y with point := some c.after, rstack := img }).goTo t.1).r14 c.grp c.slotB

/-- CALLI (R100). -/
def execCalli (a : BitVec 7) (s : State) : Host.Outcome State Fault Refusal :=
  word (.calli a) s fun c s => s.calli c ((s.grp c.grp).targets c.lanes a.toNat)

/-- RECONV (R101): a point at its own packet parks the slot there before its next bundle. (DEDUCED, log 22) -/
def execReconv (o : BitVec 24) (s : State) : Host.Outcome State Fault Refusal :=
  word (.reconv o) s fun c s =>
    let p := c.target o.toInt
    let s := s.modSlot c.grp c.slotB fun x => { x with point := some p }
    if p = c.target 0 then s.goTo p else s

/-! ## Prefixes (R44, R45) -/

end Sys2Proof.Machine

namespace Sys2Proof

/-- Formats whose words REP may repeat, with the widths that its fields step: (lowest bit, width) of D, A and B, none where
the format has no such field (R35-R38, R44). -/
structure RepFields where
  d : Nat × Nat
  a : Nat × Nat
  b : Option (Nat × Nat)

/-- Formats of the opcode map by major (R46). -/
def repFields (op : Nat) : Option RepFields :=
  if op = 0x07 ∨ op = 0x14 then some ⟨(18, 6), (12, 6), some (6, 6)⟩
  else if op = 0x04 ∨ op = 0x05 ∨ op = 0x0B then some ⟨(17, 7), (10, 7), none⟩
  else if 0x28 ≤ op ∧ op ≤ 0x2B then some ⟨(17, 7), (10, 7), none⟩
  else if op = 0x20 ∨ op = 0x21 ∨ op = 0x23 ∨ op = 0x24 ∨ op = 0x25 ∨ op = 0x33 ∨ op = 0x3F ∨ op = 0 ∨ op = 0x0F ∨
      op = 0x1F ∨ (0x35 ≤ op ∧ op ≤ 0x37) ∨ 0x40 ≤ op then none
  else some ⟨(17, 7), (10, 7), some (3, 7)⟩

/-- Words whose D field is no operand, so that their operands begin with A. -/
def Instr.noD (i : Instr) : Bool :=
  match i with
  | .tmld .. | .skdef .. | .skundef .. | .skmerge .. | .skfold .. | .skclr .. | .sksnap .. | .unpin .. | .ptouch .. => true
  | .spawn .. | .spawnr .. | .jdec .. | .ret | .calli .. | .jmpi .. | .calls .. | .xtrig .. | .red .. => true
  | .cclean .. | .cinv .. | .cflush .. | .pref .. | .fence .. | .commitTry | .abortTry .. | .barinit .. | .barexp .. => true
  | .rginit .. | .mwait .. | .msync .. | .spfen | .mcfg .. | .mjoin .. | .mleave => true
  | _ => false

/-- The operand that a field holds: `k` is 0 for D, 1 for A, 2 for B; none where the field holds no register. A field has its kind also
where another one makes the word's form illegal. -/
def Instr.fieldOpnd (i : Instr) (k : Nat) : Option Opnd :=
  match i, k with
  | .ld d _ _ z _, 0 => some (if z = .illegal then .v d.toNat else z.vdata d.toNat)
  | .st d _ _ z _, 0 => some (if z = .illegal then .v d.toNat else z.vdata d.toNat)
  | .lds d _ _ z _, 0 => some (if z = .b64 then .sp d.toNat else .s d.toNat)
  | .sts d _ _ z _, 0 => some (if z = .b64 then .sp d.toNat else .s d.toNat)
  | .ld _ a p _ _, 1 => some (p.vaddr a.toNat)
  | .st _ a p _ _, 1 => some (p.vaddr a.toNat)
  | .lds _ a p _ _, 1 => some (if p = .glob then .sp a.toNat else .s a.toNat)
  | .sts _ a p _ _, 1 => some (if p = .glob then .sp a.toNat else .s a.toNat)
  | i, k =>
    let l := i.opnds.filter fun x => x != .bad
    if i.noD then if k = 0 then none else l[k - 1]? else l[k]?

/-- The registers in the file that a stepped field names, none inside for a field that names no register; none for a triple or a
constant, which may not step (R44). -/
def Opnd.file (o : Opnd) : Option (Option Nat) :=
  match o with
  | .s _ | .sp _ | .card _ _ | .mul4 _ _ => some (some 64)
  | .sc n | .scp n => if n < 64 then some (some 64) else none
  | .q _ => none
  | .v _ | .vp _ | .vq _ | .part _ => some (some 128)
  | _ => some none

/-- A word with a field stepped by `k`, and whether the field's bits still hold it; none where a register leaves its file (R44). -/
def stepField (w : Nat × Bool) (p : Nat × Nat) (file : Option Nat) (k : Nat) : Option (Nat × Bool) :=
  let v := fld w.1 p.1 p.2 + k
  let fits := decide (v < 2 ^ p.2)
  match file with
  | some top => if v < top ∧ fits = true then some (w.1 + k * 2 ^ p.1, w.2) else none
  | none => some (if fits then w.1 + k * 2 ^ p.1 else w.1, w.2 && fits)

end Sys2Proof

namespace Sys2Proof.Machine

/-- Word `i` of a REP as bits, and whether its fields hold it; none where it breaks a rule of REP itself (R44): an enabled field that the
format does not have, a triple, a constant, a register beyond its file. `i₀` says what the fields hold, none where no row does. -/
def repWord (raw : Nat) (i₀ : Option Instr) (f : RepFields) (d a b : Bool) (stride i : Nat) : Option (Nat × Bool) :=
  let one (on : Bool) (p : Option (Nat × Nat)) (k : Nat) (w : Option (Nat × Bool)) : Option (Nat × Bool) :=
    if !on then w
    else
      let file := match i₀.bind fun x => x.fieldOpnd k with
        | some o => o.file
        | none => some none
      match w, p, file with
      | some w, some p, some file => stepField w p file (i * stride)
      | _, _, _ => none
  one b f.b 2 (one a (some f.a) 1 (one d (some f.d) 0 (some (raw, true))))

/-- A decoded word whatever its kinds; none for a word of no row. -/
def rawWord (w : Nat) : Option DWord :=
  (decodeRaw w).map fun i => ⟨fld w 31 1 = 1, fld w 30 1 = 1, i, BitVec.ofNat 32 w⟩

/-- What the fields of a word hold, also where it sets a field that its row reserves: the row of the word, or of the word with as few of
its D, A and B fields cleared as give one. (DEDUCED, log 21) -/
def rawLoose (w : Nat) (f : RepFields) : Option Instr :=
  let clear (p : Nat × Nat) (w : Nat) : Nat := w - fld w p.1 p.2 * 2 ^ p.1
  let b (w : Nat) : Nat := match f.b with | some p => clear p w | none => w
  let d := clear f.d
  let a := clear f.a
  [w, b w, d w, a w, d (b w), a (b w), d (a w), d (a (b w))].findSome? decodeRaw

/-- Word `i` of a REP, none where it is not a word of the opcode map. -/
def repAt (target : DWord) (f : RepFields) (d a b : Bool) (stride i : Nat) : Option DWord :=
  match repWord target.raw.toNat (some target.instr) f d a b stride i with
  | some (w, true) => rawWord w
  | _ => none

/-- The iterations of a REP after the first; none for one that breaks R44. (DEDUCED, log 21) -/
def repLater (n : BitVec 6) (d a b : BitVec 1) (t : BitVec 2) (target : DWord) : List DWord :=
  match repFields (fld target.raw.toNat 24 6) with
  | none => []
  | some f =>
    (List.range n.toNat).filterMap fun i =>
      repAt target f (d == 1) (a == 1) (b == 1) (2 ^ t.toNat) (i + 1)

/-- REP (R44): the word after it issues again, once for each further iteration, after the bundle. -/
def execRep (n : BitVec 6) (d a b : BitVec 1) (t : BitVec 2) (s : State) : Host.Outcome State Fault Refusal :=
  word (.rep n d a b t) s fun c s =>
    match s.issued with
    | [] => s
    | i :: rest =>
      match i.words[(c.pos - i.pos).toNat + 1]? with
      | none => s
      | some w => { s with issued := { i with later := repLater n d a b t w, repPos := c.pos + 1 } :: rest }

/-- LIT (R45): V24 for the word after it. -/
def execLit (v : BitVec 24) (s : State) : Host.Outcome State Fault Refusal :=
  word (.lit v) s fun _ s => s.modCursor fun c => { c with lit := some v }

end Sys2Proof.Machine
end

