-- ==== Sys2Proof/Machine/Special.lean ====
section
/-! DEFINITION. The special functions (R67, R90) and the transformed mean (R68-R73). Irrational values are bracketed
in fixed point of 256 or 512 fraction bits; which of two allowed values a chip returns is a free value of Config. -/

namespace Sys2Proof.Fp

/-! ## Fixed-point series -/

/-- ln 2, times 2^256, rounded down. -/
def ln2Fix : Nat :=
  0xb17217f7d1cf79abc9e3b39803f2f6af40f343267298b62d8a0d175b8baafa2b

/-- 2 pi, times 2^512, rounded down. -/
def twoPiFix : Nat :=
  0x6487ed5110b4611a62633145c06e0e68948127044533e63a0105df531d89cd9128a5043cc71a026ef7ca8cd9e69d218d98158536f92f8a1ba7f09ab6b6a8e122e

/-- Sum of y^n / n! from the term `t` on, in fixed point of `b` fraction bits: `n` is the next divisor. -/
def expSeries (b y : Nat) : Nat → Nat → Nat → Nat
  | 0, _, t => t
  | k + 1, n, t => t + expSeries b y k (n + 1) (t * y / 2 ^ b / n)

/-- 2^f times 2^256 for f = `x` / 2^256 in [0, 1), rounded down. -/
def exp2Fix (x : Nat) : Nat :=
  expSeries 256 (x * ln2Fix / 2 ^ 256) 72 1 (2 ^ 256)

/-- Bits of log2 of m = `x` / 2^256 in [1, 2): 200 of them, by repeated squaring. -/
def log2Bits (acc : Nat) : Nat → Nat → Nat
  | 0, _ => acc
  | k + 1, x =>
    let y := x * x / 2 ^ 256
    if 2 ^ 257 ≤ y then log2Bits (2 * acc + 1) k (y / 2) else log2Bits (2 * acc) k y

/-- Alternating series of sine (start n = 1, term x) or cosine (start n = 0, term 1) in 512 fraction bits, with the
sign of the next term. -/
def trigSeries (x2 : Nat) : Nat → Nat → Int → Nat → Int
  | 0, _, _, _ => 0
  | k + 1, n, sg, t => sg * t + trigSeries x2 k (n + 2) (-sg) (t * x2 / 2 ^ 512 / ((n + 1) * (n + 2)))

/-! ## Brackets -/

/-- The FP32 magnitudes next below and next above an inexact exact value: codes without sign. (DESIGN CHOICE, log 2) -/
def bracket (x : Exact) : Nat × Nat :=
  let c := (fp32.round .rz false { x with neg := false }).1
  (c, c + 1)

/-- The order of FP32 inputs as a natural number, for the cuts of Config. -/
def inputOrder (w : Word) : Nat := (orderKey w + 0x80000001).toNat

/-- Flags of a chosen inexact result: NX, OF past the largest finite value, UF when the result is tiny (R57, R58). -/
def pickFlags (mag : Nat) : Word :=
  if mag = 0x7F800000 then fOF ||| fNX
  else if mag < 0x00800000 then fUF ||| fNX else fNX

/-- A chosen inexact result with its flags, flushed under FTZ (R57). -/
def picked (ftz neg : Bool) (mag : Nat) : Word × Word :=
  let sg := fp32.signBit neg
  if ftz && mag < 0x00800000 then (BitVec.ofNat 32 sg, fUF ||| fNX)
  else (BitVec.ofNat 32 (sg + mag), pickFlags mag)

/-- The exact result, when it is representable; under FTZ a subnormal one is flushed. -/
def exactly (ftz : Bool) (x : Exact) : Word × Word :=
  let r := fp32.round .rne ftz x
  (BitVec.ofNat 32 r.1, r.2)

/-! ## EX2 and LG2 (R67) -/

/-- 2^v for a finite non-zero v = (-1)^n m 2^e: an integer exponent is exact, any other is irrational. -/
def ex2Fin (ftz : Bool) (w : Word) (n : Bool) (m : Nat) (e : Int) : Word × Word :=
  if decide (9 < Nat.log2 m + e) then
    if n then picked ftz false (if Config.ex2Cut 0 ≤ inputOrder w then 1 else 0)
    else (0x7F800000, fOF ||| fNX)
  else
    let fx := scaled n m e (-256)
    let k := fx / 2 ^ 256
    let f := (fx % 2 ^ 256).toNat
    if f = 0 then
      if 128 ≤ k then (0x7F800000, fOF ||| fNX)
      else if k < -149 then picked ftz false (if Config.ex2Cut 0 ≤ inputOrder w then 1 else 0)
      else exactly ftz ⟨false, 1, k, false⟩
    else
      let b := bracket ⟨false, exp2Fix f, k - 256, true⟩
      if 128 ≤ k || b.2 = 0x7F800000 then (0x7F800000, fOF ||| fNX)
      else picked ftz false (if Config.ex2Cut (BitVec.ofNat 32 b.1) ≤ inputOrder w then b.2 else b.1)

def ex2 (ftz : Bool) (w : Word) : Word × Word :=
  match fp32.read ftz w.toNat with
  | .nan s => (nan32, if s then fNV else 0)
  | .inf true => (0, 0)
  | .inf false => (0x7F800000, 0)
  | .zero _ => (0x3F800000, 0)
  | .fin n m e => ex2Fin ftz w n m e

/-- log2 of m x 2^e > 0, not a power of two, as an exact magnitude with a sticky bit. -/
def lg2Exact (m : Nat) (e : Int) : Exact :=
  let k := Nat.log2 m
  let frac := log2Bits 0 200 (m * 2 ^ (256 - k))
  let v : Int := (k + e) * 2 ^ 200 + frac
  if 0 ≤ v then ⟨false, v.toNat, -200, true⟩ else ⟨true, (-v).toNat - 1, -200, true⟩

def lg2 (ftz : Bool) (w : Word) : Word × Word :=
  match fp32.read ftz w.toNat with
  | .nan s => (nan32, if s then fNV else 0)
  | .inf true => (nan32, fNV)
  | .inf false => (0x7F800000, 0)
  | .zero _ => (0xFF800000, fDZ)
  | .fin true _ _ => (nan32, fNV)
  | .fin false m e =>
    if m = 2 ^ Nat.log2 m then
      let k := Nat.log2 m + e
      if k = 0 then (0, 0) else exactly false ⟨decide (k < 0), k.natAbs, 0, false⟩
    else
      let x := lg2Exact m e
      let b := bracket x
      let low := if x.neg then b.2 else b.1
      let high := if x.neg then b.1 else b.2
      let lowW := BitVec.ofNat 32 (fp32.signBit x.neg + low)
      picked ftz x.neg (if Config.lg2Cut lowW ≤ inputOrder w then high else low)

/-! ## RCP, RSQ, SQRT (R90) -/

def rcp (ftz : Bool) (w : Word) : Word × Word :=
  match fp32.read ftz w.toNat with
  | .nan s => (nan32, if s then fNV else 0)
  | .inf n => (BitVec.ofNat 32 (fp32.signBit n), 0)
  | .zero n => (BitVec.ofNat 32 (fp32.infCode n), fDZ)
  | .fin n m e =>
    let k := 64 + Nat.log2 m
    let x : Exact := ⟨n, 2 ^ k / m, -e - k, 2 ^ k % m != 0⟩
    if !x.sticky && (fp32.round .rz false x).2 = 0 then exactly ftz x
    else
      let b := bracket x
      let mag := if Config.rcpUp w then b.2 else b.1
      if b.2 = 0x7F800000 then (BitVec.ofNat 32 (fp32.signBit n + mag), fOF ||| fNX)
      else picked ftz n mag

def rsq (ftz : Bool) (w : Word) : Word × Word :=
  match fp32.read ftz w.toNat with
  | .nan s => (nan32, if s then fNV else 0)
  | .inf true => (nan32, fNV)
  | .inf false => (0, 0)
  | .zero n => (BitVec.ofNat 32 (fp32.infCode n), fDZ)
  | .fin true _ _ => (nan32, fNV)
  | .fin false m e =>
    let k := Nat.log2 m
    if m = 2 ^ k && (k + e) % 2 = 0 then exactly ftz ⟨false, 1, -((k + e) / 2), false⟩
    else
      let odd := e % 2 != 0
      let j := k / 2 * 2 + 200
      let n := 2 ^ (2 * j + (if odd then 1 else 0)) / m
      let x : Exact := ⟨false, sqrtFloor n, -((if odd then e + 1 else e) / 2) - j, true⟩
      let b := bracket x
      picked ftz false (if Config.rsqUp w then b.2 else b.1)

def sqrt32 (m : Mode) (ftz : Bool) (w : Word) : Word × Word :=
  let r := fp32.sqrt m ftz (fp32.read ftz w.toNat)
  (BitVec.ofNat 32 r.1, r.2)

/-! ## SIN, COS, TANH (R90) -/

/-- The exact value is `v` / 2^512. A candidate code is within the larger of 2 ulp and `floor` of it. -/
def within (v : Int) (floor : Nat) (c : Word) : Bool :=
  match fp32.unpack c.toNat with
  | .zero _ => decide (v.natAbs ≤ max floor (2 * 2 ^ (512 - 149)))
  | .fin n m e =>
    let x := scaled n m e (-512)
    let ulp := 2 ^ ((max ((Nat.log2 v.natAbs : Int) - 512) (-126) - 23 + 512).toNat)
    decide ((x - v).natAbs ≤ max floor (2 * ulp))
  | _ => false

/-- The chip's value where it keeps the bound, else the nearest one; it is inexact, and tiny where its magnitude is below the
least normal one, zero included. (DESIGN CHOICE, log 2) -/
def bounded (ftz : Bool) (v : Int) (floor : Nat) (c : Word) : Word × Word :=
  let r := if within v floor c then c
    else if v = 0 then 0
    else BitVec.ofNat 32 (fp32.round .rne false ⟨decide (v < 0), v.natAbs, -512, true⟩).1
  if r.toNat / 2 ^ 23 % 256 = 0 then (flush ftz r, fUF ||| fNX) else (r, fNX)

/-- Angle of a finite value modulo 2 pi, times 2^512. -/
def angle (n : Bool) (m : Nat) (e : Int) : Nat :=
  (scaled n m e (-512) % twoPiFix).toNat

def sinFix (x : Nat) : Int := trigSeries (x * x / 2 ^ 512) 80 1 1 x
def cosFix (x : Nat) : Int := trigSeries (x * x / 2 ^ 512) 80 0 1 (2 ^ 512)

def sin (ftz : Bool) (w : Word) : Word × Word :=
  match fp32.read ftz w.toNat with
  | .nan s => (nan32, if s then fNV else 0)
  | .inf _ => (nan32, fNV)
  | .zero n => (BitVec.ofNat 32 (fp32.signBit n), 0)
  | .fin n m e =>
    let v := if n then -sinFix (angle false m e) else sinFix (angle false m e)
    bounded ftz v (2 ^ 488) (Config.sinVal w)

def cos (ftz : Bool) (w : Word) : Word × Word :=
  match fp32.read ftz w.toNat with
  | .nan s => (nan32, if s then fNV else 0)
  | .inf _ => (nan32, fNV)
  | .zero _ => (0x3F800000, 0)
  | .fin _ m e => bounded ftz (cosFix (angle false m e)) (2 ^ 488) (Config.cosVal w)

/-- tanh of m x 2^e > 0, times 2^512: (E - 1) / (E + 1) with E = exp(2x); 1 to within 2^-180 from 64 on. -/
def tanhFix (m : Nat) (e : Int) : Nat :=
  if 6 ≤ (Nat.log2 m : Int) + e then 2 ^ 512 - 1
  else
    let y := (scaled false m e (-513)).toNat
    let big := expSeries 512 (y / 128) 90 1 (2 ^ 512)
    let sq (t : Nat) : Nat := t * t / 2 ^ 512
    let E := sq (sq (sq (sq (sq (sq (sq big))))))
    (E - 2 ^ 512) * 2 ^ 512 / (E + 2 ^ 512)

def tanh (ftz : Bool) (w : Word) : Word × Word :=
  match fp32.read ftz w.toNat with
  | .nan s => (nan32, if s then fNV else 0)
  | .inf n => (BitVec.ofNat 32 (fp32.signBit n + 0x3F800000), 0)
  | .zero n => (BitVec.ofNat 32 (fp32.signBit n), 0)
  | .fin n m e =>
    let v : Int := tanhFix m e
    bounded ftz (if n then -v else v) 0 (Config.tanhVal w)

/-! ## Transformed mean (R68-R73) -/

/-- A partial (R69). -/
structure Partial where
  s : Word
  e : Word
  n : Word
  deriving DecidableEq, Repr

/-- What one lane of a transformed-mean step gives: a value and flags, or a fault of the lane; TOVF keeps the flags that the step
raised beside it (R69). -/
inductive TmRes (α : Type) where
  | ok (x : α) (flags : Word)
  | tdom
  | tovf (flags : Word)
  | ttab
  deriving DecidableEq, Repr

/-- Modes of %tshape (R68). -/
inductive TmMode where
  | power (p16 : Int)
  | geometric
  | maximum
  | table (k : Nat)
  deriving DecidableEq, Repr

def tmMode (shape : Word) : TmMode :=
  let p := (shape.extractLsb' 0 16).toInt
  if shape.toNat / 65536 % 2 = 1 then .table (shape.toNat / 1048576 % 16)
  else if p = 0x7FFF then .maximum
  else if p = 0 then .geometric
  else .power p

/-- A P that %tshape may hold (R68). -/
def tmShapeOk (shape : Word) : Bool :=
  let p := (shape.extractLsb' 0 16).toInt
  (decide (-128 ≤ p) && decide (p ≤ 512)) || p == 0x7FFF

def add32 (a b : Word) : Word × Word :=
  let r := fp32.add .rne false (fp32.unpack a.toNat) (fp32.unpack b.toNat)
  (BitVec.ofNat 32 r.1, r.2)

def div32 (a b : Word) : Word × Word :=
  let r := fp32.div .rne false (fp32.unpack a.toNat) (fp32.unpack b.toNat)
  (BitVec.ofNat 32 r.1, r.2)

/-- An integer rounded to FP32 (R72). -/
def int32 (i : Int) : Word × Word :=
  let r := fp32.ofVal .rne false (ofInt i)
  (BitVec.ofNat 32 r.1, r.2)

/-- The exact value p16/16 as an FP32 code; every p of R68 is representable. -/
def p32 (p16 : Int) : Word :=
  BitVec.ofNat 32 (fp32.ofVal .rne false (if p16 = 0 then .zero false else .fin (decide (p16 < 0)) p16.natAbs (-4))).1

/-- floor of a finite FP32 code. -/
def floor32 (w : Word) : Int :=
  match fp32.unpack w.toNat with
  | .fin n m e => if 0 ≤ e then scaled n m e 0 else scaled n m e e / 2 ^ (-e).toNat
  | _ => 0

/-- A partial with an exponent inside the i32 range, or TOVF (R69, R70). -/
def withE (s : Word) (e : Int) (n : Word) (fl : Word) : TmRes Partial :=
  if e < -2147483648 || 2147483647 < e then .tovf fl else .ok ⟨s, BitVec.ofInt 32 e, n⟩ fl

/-- renorm of an exact magnitude man x 2^exp into [0.5, 1) (R70); the code keeps 24 bits. -/
def renorm (man : Nat) (exp e : Int) (n : Word) (fl : Word) : TmRes Partial :=
  let k := (Nat.log2 man : Int) + exp + 1
  let sig := (fp32.round .rne false ⟨false, man, exp - k, false⟩).1
  withE (BitVec.ofNat 32 sig) (e + k) n fl

/-- renorm of an FP32 S with exponent E (R70). -/
def renorm32 (s : Word) (e : Int) (n : Word) (fl : Word) : TmRes Partial :=
  match fp32.unpack s.toNat with
  | .fin _ m x => renorm m x e n fl
  | _ => .ok ⟨0, 0x80000000, n⟩ fl

/-- Knot `i` of a list of FP32 knots. -/
def knot (t : List Word) (i : Nat) : Word := t.getD i 0

/-- A finite FP32 code in units of 2^-149. -/
def units (w : Word) : Int :=
  match fp32.unpack w.toNat with
  | .fin n m e => scaled n m e (-149)
  | _ => 0

/-- num / den x 2^-149, rounded once to nearest even. -/
def ratio32 (num : Int) (den : Nat) : Word × Word :=
  if num = 0 then (0, 0)
  else
    let k := 64 + Nat.log2 den
    let x := num.natAbs * 2 ^ k
    let r := fp32.round .rne false ⟨decide (num < 0), x / den, -149 - k, x % den != 0⟩
    (BitVec.ofNat 32 r.1, r.2)

/-- Linear interpolation from `a` to `b` at num/den of the way, with one rounding (R73). -/
def lerp (a b : Word) (num den : Nat) : Word × Word :=
  ratio32 (units a * den + (units b - units a) * num) den

/-- table_f (R73): LG2 clamped to -64 .. 64, between knots at -64 + i/2. -/
def tableF (f : List Word) (x : Word) : Word × Word :=
  let t := lg2 false x
  -- position 2(t + 64) in units of 2^-149
  let pos := 2 * units t.1 + 128 * 2 ^ 149
  let one : Nat := 2 ^ 149
  if pos ≤ 0 then (knot f 0, t.2)
  else if 256 * one ≤ pos.toNat then (knot f 256, t.2)
  else
    let i := pos.toNat / one
    let r := lerp (knot f i) (knot f (i + 1)) (pos.toNat % one) one
    (r.1, t.2 ||| r.2)

/-- table_finv (R73): y clamped to f_0 .. f_256, g at evenly spaced points, then EX2. A NaN y, for which the rule states no result,
is clamped to f_256. (DESIGN CHOICE, log 100) -/
def tableG (f g : List Word) (y : Word) : Word × Word :=
  let lo := units (knot f 0)
  let den := (units (knot f 256) - lo).toNat
  if valKey y ≤ valKey (knot f 0) then ex2 false (knot g 0)
  else if valKey (knot f 256) ≤ valKey y then ex2 false (knot g 256)
  else
    let pos := 256 * (units y - lo).toNat
    let i := pos / den
    let r := lerp (knot g i) (knot g (i + 1)) (pos % den) den
    let z := ex2 false r.1
    (z.1, r.2 ||| z.2)

/-- The pair's tables if it is loaded (R68, R73). -/
abbrev Tables := Nat → Option (List Word × List Word)

/-- Entry (R70). -/
def tmEntry (mode : TmMode) (tabs : Tables) (x : Word) : TmRes Partial :=
  let zero := x.toNat % 0x80000000 = 0
  let pos := x.toNat < 0x7F800000 && x.toNat != 0
  match mode with
  | .maximum => if zero then .ok ⟨0, 0, 1⟩ 0 else if pos then .ok ⟨x, 0, 1⟩ 0 else .tdom
  | .table k =>
    match tabs k with
    | none => .ttab
    | some (f, _) => if pos then let r := tableF f x; .ok ⟨r.1, 0, 1⟩ r.2 else .tdom
  | .geometric => if pos then let r := lg2 false x; .ok ⟨r.1, 0, 1⟩ r.2 else .tdom
  | .power p16 =>
    if zero then if 0 < p16 then .ok ⟨0, 0x80000000, 1⟩ 0 else .tdom
    else if pos then
      let l := lg2 false x
      let t := fp32.mul .rne false (fp32.unpack (p32 p16).toNat) (fp32.unpack l.1.toNat)
      let tw := BitVec.ofNat 32 t.1
      let e := floor32 tw + 1
      let d := fp32.add .rne false (fp32.unpack t.1) (ofInt (-e))
      let s := ex2 false (BitVec.ofNat 32 d.1)
      renorm32 s.1 e 1 (l.2 ||| t.2 ||| d.2 ||| s.2)
    else .tdom

/-- The input rule of R71. -/
def tmInputOk (mode : TmMode) (a : Partial) : Bool :=
  let finite := decide (a.s.toNat % 0x80000000 < 0x7F800000)
  let zero := a.s.toNat % 0x80000000 == 0
  let signOk := match mode with
    | .power _ => zero || decide (a.s.toNat < 0x80000000)
    | .maximum => zero || decide (a.s.toNat < 0x80000000)
    | _ => true
  finite && (zero || a.n != 0) && signOk

/-- A partial is the zero partial, with -0 read as +0 (R69, R71). -/
def isZeroPartial (a : Partial) : Bool := a.s.toNat % 0x80000000 == 0 && a.e == 0x80000000

/-- Power-mode sum: both terms exact, one rounding to 24 bits with an unbounded exponent (R71). -/
def tmSum (a b : Partial) (n : Word) : TmRes Partial :=
  match fp32.unpack a.s.toNat, fp32.unpack b.s.toNat with
  | .fin _ m1 x1, .fin _ m2 x2 =>
    -- the terms at their own exponents: m1 x 2^(x1 + E1), m2 x 2^(x2 + E2)
    let y1 := x1 + a.e.toInt
    let y2 := x2 + b.e.toInt
    -- beyond 600 binary places the smaller term is only a sticky bit
    let hi := max (y1 + Nat.log2 m1) (y2 + Nat.log2 m2)
    let sum : Exact :=
      if y1 + 600 < hi then ⟨false, m2 * 2 ^ 64, y2 - 64, true⟩
      else if y2 + 600 < hi then ⟨false, m1 * 2 ^ 64, y1 - 64, true⟩
      else
        let q := min y1 y2
        ⟨false, (scaled false m1 y1 q + scaled false m2 y2 q).toNat, q, false⟩
    let r := sum.roundAt .rne (sum.lead - 23)
    renorm r.1 (sum.lead - 23) 0 n (if r.2 then fNX else 0)
  | .fin _ m1 x1, _ => renorm m1 x1 a.e.toInt n 0
  | _, .fin _ m2 x2 => renorm m2 x2 b.e.toInt n 0
  | _, _ => .ok ⟨0, 0x80000000, n⟩ 0

/-- The merge of two inputs that the rule admits, with `n` the sum of their counts (R71). -/
def tmMergeAs (mode : TmMode) (a b : Partial) (n : Word) : TmRes Partial :=
  match mode with
  | .power _ => tmSum a b n
  | .maximum =>
    let s1 := if a.s = 0x80000000 then 0 else a.s
    let s2 := if b.s = 0x80000000 then 0 else b.s
    .ok ⟨pickMax s1 s2, 0, n⟩ 0
  | _ =>
    let r := add32 a.s b.s
    .ok ⟨r.1, 0, n⟩ r.2

/-- A result whose count has left the n32 range (R69). -/
def TmRes.overflowed {α : Type} (r : TmRes α) : TmRes α :=
  match r with
  | .ok _ fl => .tovf fl
  | x => x

/-- Merge (R71), `a` the first input. A merge whose n passes 2^32 - 1 has raised the flags of its sum. (DEDUCED, log 29) -/
def tmMerge (mode : TmMode) (a b : Partial) : TmRes Partial :=
  if !(tmInputOk mode a && tmInputOk mode b) then .tdom
  else if 4294967295 < a.n.toNat + b.n.toNat then (tmMergeAs mode a b (a.n + b.n)).overflowed
  else tmMergeAs mode a b (a.n + b.n)

/-- round(S / n) with the exact count: one rounding (R72). -/
def meanOf (a : Partial) : Word × Word :=
  let r := fp32.div .rne false (fp32.unpack a.s.toNat) (ofInt a.n.toNat)
  (BitVec.ofNat 32 r.1, r.2)

/-- Exit (R72). In maximum mode S is the result as it stands, a NaN S included, and no flag is raised. (DESIGN CHOICE, log 100) -/
def tmExit (mode : TmMode) (tabs : Tables) (a : Partial) : TmRes Word :=
  if a.n = 0 then .tdom
  else match mode with
    | .maximum => .ok a.s 0
    | .geometric =>
      let q := meanOf a
      let r := ex2 false q.1
      .ok r.1 (q.2 ||| r.2)
    | .table k =>
      match tabs k with
      | none => .ttab
      | some (f, g) =>
        let q := meanOf a
        let r := tableG f g q.1
        .ok r.1 (q.2 ||| r.2)
    | .power p16 =>
      if 0 < p16 && isZeroPartial a then .ok 0 0
      else
        let n := int32 a.n.toNat
        let q := div32 a.s n.1
        let l := lg2 false q.1
        let e := int32 a.e.toInt
        let t := add32 e.1 l.1
        let u := div32 t.1 (p32 p16)
        let r := ex2 false u.1
        .ok r.1 (n.2 ||| q.2 ||| l.2 ||| e.2 ||| t.2 ||| u.2 ||| r.2)

/-- The checks of R73 on a loaded pair: finite, non-decreasing, f_0 below f_256. -/
def tableOk (t : List Word) : Bool :=
  t.all (fun w => decide (w.toNat % 0x80000000 < 0x7F800000)) &&
    (t.zip (t.drop 1)).all (fun p => decide (valKey p.1 ≤ valKey p.2))

def pairOk (f g : List Word) : Bool :=
  tableOk f && tableOk g && decide (valKey (knot f 0) < valKey (knot f 256))

end Sys2Proof.Fp
end

