-- ==== Sys2Proof/Machine/Colander.lean ====
section
/-! DEFINITION. Colander regions as data: descriptors (R244, R245), hashing (R250), inserts and saturation (R251,
R252), queries (R253), merge, fold and images (R258, R259, R261-R263). -/

namespace Sys2Proof.Machine

open Sys2Proof.Fp

/-! ## Descriptors -/

inductive SkType where
  | filter | freq | distinct | quant
  deriving DecidableEq, Repr

def cfgType (cfg : Nat) : SkType :=
  match cfg % 4 with
  | 0 => .filter | 1 => .freq | 2 => .distinct | _ => .quant

def cfgSatt (cfg : Nat) : Bool := fld cfg 2 1 == 1
def cfgCu (cfg : Nat) : Bool := fld cfg 3 1 == 1
def cfgCw (cfg : Nat) : Nat := fld cfg 4 2
def cfgLog (cfg : Nat) : Nat := fld cfg 6 5
def cfgNr (cfg : Nat) : Nat := fld cfg 11 4
def cfgG (cfg : Nat) : Nat := fld cfg 15 4

/-- Multipliers that a type uses (R245). -/
def cfgMults (cfg : Nat) : Nat :=
  match cfgType cfg with
  | .filter => 2 | .freq => cfgNr cfg + 1 | .distinct => 1 | .quant => 0

/-- Storage bytes S (R245). -/
def cfgSize (cfg : Nat) : Nat :=
  match cfgType cfg with
  | .filter => 2 ^ cfgLog cfg / 2
  | .freq => (cfgNr cfg + 1) * 2 ^ cfgLog cfg * 2 ^ cfgCw cfg
  | .distinct => 2 ^ cfgLog cfg
  | .quant => 4 * 2 ^ cfgLog cfg

/-- A 64-byte descriptor is valid (R244, R245). -/
def descOk (bs : List Byte) : Bool :=
  let w (i : Nat) : Nat := (wordLe bs i)
  let cfg := w 0
  let t := cfgType cfg
  let lg := cfgLog cfg
  let nr := cfgNr cfg
  let fields := match t with
    | .filter => 4 ≤ lg && lg ≤ 23 && cfgG cfg == 0 && cfgCw cfg == 0 && !cfgCu cfg
    | .freq => 2 ≤ lg && lg ≤ 22 && nr ≤ 7 && cfgG cfg == 0 && cfgCw cfg ≤ 2
    | .distinct => 4 ≤ lg && lg ≤ 16 && nr == 0 && cfgG cfg == 0 && cfgCw cfg == 0 && !cfgCu cfg
    | .quant => 4 ≤ lg && lg ≤ 20 && nr == 0 && cfgG cfg ≤ 10 && cfgCw cfg == 0 && !cfgCu cfg
  fields && cfg < 524288 && (t == .quant || w 1 == 0) && w 2 == 0 && w 3 == 0 &&
    ((List.range 8).all fun j => if j < cfgMults cfg then w (4 + j) % 2 == 1 else w (4 + j) == 0) &&
    ((List.range 4).all fun j => w (12 + j) == 0) && cfgSize cfg ≤ 4194304
where
  wordLe (bs : List Byte) (i : Nat) : Nat := leNat ((bs.drop (4 * i)).take 4)

def Region.typ (r : Region) : SkType := cfgType r.cfg.toNat
def Region.log (r : Region) : Nat := cfgLog r.cfg.toNat
def Region.size (r : Region) : Nat := cfgSize r.cfg.toNat
def Region.width (r : Region) : Nat := 2 ^ r.log
def Region.rows (r : Region) : Nat := cfgNr r.cfg.toNat + 1

/-- Number of counters, registers or slots. -/
def Region.count (r : Region) : Nat :=
  match r.typ with
  | .freq => r.rows * r.width
  | _ => r.width

/-- MAX of R251; a distinct register holds 6 bits. -/
def Region.ctrMax (r : Region) : Nat :=
  match r.typ with
  | .filter => 15
  | .freq => 2 ^ (8 * 2 ^ cfgCw r.cfg.toNat) - 1
  | .distinct => 63
  | .quant => 4294967295

/-- Byte offset of a counter in the storage (R245). -/
def Region.byteAt (r : Region) (i : Nat) : Nat :=
  match r.typ with
  | .filter => i / 2
  | .freq => 2 ^ cfgCw r.cfg.toNat * i
  | .distinct => i
  | .quant => 4 * i

def Region.ctr (r : Region) (i : Nat) : Nat := tgetD r.counters i 0

def Region.setCtr (r : Region) (i v : Nat) : Region :=
  { r with counters := if v = 0 then tdel r.counters i else tset r.counters i v }

/-- A region from its descriptor. -/
def regionOf (bs : List Byte) : Region :=
  { cfg := leWord (bs.take 4), imin := leWord ((bs.drop 4).take 4)
    mult := (List.range 8).map fun j => leWord ((bs.drop (16 + 4 * j)).take 4) }

/-- Bytes 0-47 of the descriptor. -/
def Region.desc (r : Region) : List Byte :=
  leBytes 4 r.cfg.toNat ++ leBytes 4 r.imin.toNat ++ leBytes 8 0 ++
    (List.range 8).flatMap fun j => leBytes 4 (r.mult.getD j 0).toNat

/-- The status word (R261). -/
def Region.status (r : Region) : Word :=
  BitVec.ofNat 32 (2147483648 + r.sat.toNat * 1073741824 + r.under.toNat * 536870912 + r.clamp.toNat * 268435456 +
    r.merges * 256 + r.folds)

/-- The storage bytes in the layout of R245. -/
def Region.bytes (r : Region) : List Byte :=
  match r.typ with
  | .filter => (List.range r.size).map fun b => BitVec.ofNat 8 (r.ctr (2 * b) + 16 * r.ctr (2 * b + 1))
  | .freq =>
    let c := 2 ^ cfgCw r.cfg.toNat
    (List.range r.count).flatMap fun i => leBytes c (r.ctr i)
  | .distinct => (List.range r.size).map fun b => BitVec.ofNat 8 (r.ctr b)
  | .quant => (List.range r.count).flatMap fun i => leBytes 4 (r.ctr i)

/-- Counter `i` of an image's storage bytes. -/
def Region.ctrOf (r : Region) (bs : Nat → Byte) (i : Nat) : Nat :=
  match r.typ with
  | .filter => (bs (i / 2)).toNat / 16 ^ (i % 2) % 16
  | .freq =>
    let c := 2 ^ cfgCw r.cfg.toNat
    leNat ((List.range c).map fun k => bs (c * i + k))
  | .distinct => (bs i).toNat % 64
  | .quant => leNat ((List.range 4).map fun k => bs (4 * i + k))

/-! ## Hashing (R250) -/

def Region.multN (r : Region) (j : Nat) : Nat := (r.mult.getD j 0).toNat

/-- The top LOG bits of a 32-bit number. -/
def Region.top (r : Region) (h : Nat) : Nat := h % 4294967296 / 2 ^ (32 - r.log)

/-- Bucket of a positive finite FP32 value: ceil(2^G x LG2(v)), by the LG2 of R67. -/
def bucketOf (g : Nat) (x : Word) : Int := -((-(units (lg2 false x).1 * 2 ^ g)) / 2 ^ 149)

/-- Slot of a quantile key, and whether it was clamped; none fails SKTYPE. -/
def Region.slotOf (r : Region) (x : Word) : Option (Nat × Bool) :=
  if x.toNat % 2147483648 = 0 then some (0, false)
  else if x.toNat < 0x7F800000 then
    let s := bucketOf (cfgG r.cfg.toNat) x - r.imin.toInt + 1
    if s < 1 then some (1, true)
    else if (r.width : Int) - 1 < s then some (r.width - 1, true)
    else some (s.toNat, false)
  else none

/-- Leading zeros of a 32-bit number. -/
def clz32 (n : Nat) : Nat := if n = 0 then 32 else 31 - Nat.log2 n

/-- Register and rank of a distinct key. -/
def Region.rankOf (r : Region) (x : Word) : Nat × Nat :=
  let y := x.toNat * r.multN 0 % 4294967296
  let rest := y * 2 ^ r.log % 4294967296
  (y / 2 ^ (32 - r.log), if rest = 0 then 33 - r.log else clz32 rest + 1)

/-- Counters that a key touches, with repeats as probed. -/
def Region.places (r : Region) (x : Word) : List Nat :=
  match r.typ with
  | .freq => (List.range r.rows).map fun j => j * r.width + r.top (x.toNat * r.multN j)
  | .filter =>
    let h1 := x.toNat * r.multN 0 % 4294967296
    let h2 := (x.toNat * r.multN 1 % 4294967296) ||| 1
    (List.range r.rows).map fun i => r.top (h1 + i * h2)
  | .distinct => [(r.rankOf x).1]
  | .quant => ((r.slotOf x).map fun p => p.1).toList

/-! ## Inserts (R251, R252) -/

def clampI64 (i : Int) : Int := max (-9223372036854775808) (min i 9223372036854775807)

/-- One counter changed by w, sticky at MAX; with `under` when it would fall below 0. -/
def bumped (mx c : Nat) (w : Int) : Nat × Bool :=
  if c = mx then (c, false)
  else if 0 ≤ w then (min (c + w.toNat) mx, false)
  else if c < w.natAbs then (0, true) else (c - w.natAbs, false)

/-- Sets a counter, noting SAT when it comes from below MAX to MAX. -/
def Region.reach (r : Region) (i v : Nat) : Region :=
  let r' := r.setCtr i v
  if r.ctr i < r.ctrMax && v == r.ctrMax && r.typ != .distinct then { r' with sat := true } else r'

/-- Smallest of some counters. -/
def Region.least (r : Region) (is : List Nat) : Nat :=
  match is with
  | [] => 0
  | i :: t => t.foldl (fun m k => min m (r.ctr k)) (r.ctr i)

/-- The prior estimate that ATOMG.ADD returns and conservative update uses. -/
def Region.simple (r : Region) (x : Word) : Nat := r.least (r.places x)

/-- An insert that is performed, of key x with weight w. -/
def Region.insert (r : Region) (x : Word) (w : Int) : Region :=
  let r := { r with nw := clampI64 (r.nw + w) }
  match r.typ with
  | .distinct =>
    let p := r.rankOf x
    if w = 0 then r else r.reach p.1 (max (r.ctr p.1) p.2)
  | .freq =>
    if cfgCu r.cfg.toNat then
      let e := r.simple x
      if w = 0 then r
      else (r.places x).foldl (fun r i => r.reach i (max (r.ctr i) (min (e + w.toNat) r.ctrMax))) r
    else (r.places x).foldl (fun r i =>
      let b := bumped r.ctrMax (r.ctr i) w
      let r := r.reach i b.1
      if b.2 then { r with under := true } else r) r
  | _ =>
    let r := match r.typ, r.slotOf x with
      | .quant, some (_, true) => { r with clamp := true }
      | _, _ => r
    (r.places x).foldl (fun r i =>
      let b := bumped r.ctrMax (r.ctr i) w
      let r := r.reach i b.1
      if b.2 then { r with under := true } else r) r

/-- A home-side check of an insert (R249, R251). -/
def Region.insertCause (r : Region) (x : Word) (w : Int) : Option Cause :=
  match r.typ with
  | .distinct => if w < 0 then some Code.SKDEL else none
  | .freq => if w < 0 && cfgCu r.cfg.toNat then some Code.SKTYPE else none
  | .quant => if (r.slotOf x).isNone then some Code.SKTYPE else none
  | .filter => none

/-! ## Binary64 (R253) -/

def fp64 : Fmt := ⟨11, 52, 1023, true, true⟩

def bin64 (x : Exact) : FVal :=
  if x.man = 0 then .zero false else fp64.unpack (fp64.round .rne false x).1

def f64 (n : Nat) (e : Int) : FVal := bin64 ⟨false, n, e, false⟩

/-- A decimal constant num / 10^k as binary64. -/
def dec64 (num k : Nat) : FVal := bin64 ⟨false, num * 2 ^ 256 / 10 ^ k, -256, num * 2 ^ 256 % 10 ^ k != 0⟩

def add64 (a b : FVal) : FVal := fp64.unpack (fp64.add .rne false a b).1
def mul64 (a b : FVal) : FVal := fp64.unpack (fp64.mul .rne false a b).1
def div64 (a b : FVal) : FVal := fp64.unpack (fp64.div .rne false a b).1

/-- Natural logarithm of a finite value of 1 or more, correctly rounded: log2 to 200 bits times ln 2 to 256. (DEDUCED, log 42) -/
def ln64 (v : FVal) : FVal :=
  match v with
  | .fin false m e =>
    if m = 2 ^ Nat.log2 m ∧ (Nat.log2 m : Int) + e = 0 then .zero false
    else
      let k := Nat.log2 m
      let frac := if m = 2 ^ k then 0 else log2Bits 0 200 (m * 2 ^ (256 - k))
      let l := ((k : Int) + e).toNat * 2 ^ 200 + frac
      bin64 ⟨false, l * ln2Fix, -456, true⟩
  | _ => .zero false

/-- Rounded to an integer, ties to even, clamped to n32. -/
def round32 (v : FVal) : Nat :=
  match v with
  | .fin false m e => min ((⟨false, m, e, false⟩ : Exact).roundAt .rne 0).1 4294967295
  | .inf false => 4294967295
  | _ => 0

/-- floor, ceiling of a positive value as naturals. -/
def ceil64 (v : FVal) : Nat :=
  match v with
  | .fin false m e => if 0 ≤ e then m * 2 ^ e.toNat else (m + 2 ^ (-e).toNat - 1) / 2 ^ (-e).toNat
  | _ => 0

/-- a ≤ b on non-negative values. -/
def le64 (a b : FVal) : Bool :=
  match a, b with
  | .zero _, _ => true
  | .fin false m e, .fin false m' e' =>
    let q := min e e'
    decide (m * 2 ^ (e - q).toNat ≤ m' * 2 ^ (e' - q).toNat)
  | _, _ => false

/-! ## Queries (R253, R263) -/

/-- Number of zero registers. -/
def Region.zeros (r : Region) : Nat := r.width - r.counters.length

/-- Sum of 2^(-reg) as a multiple of 2^(-64). -/
def Region.zSum (r : Region) : Nat := r.zeros * 2 ^ 64 + (r.counters.map fun c => 2 ^ (64 - c.2)).sum

/-- The distinct estimate. (DEDUCED, log 42) -/
def Region.distinct (r : Region) : Nat :=
  let m := f64 r.width 0
  let z := f64 r.zSum (-64)
  let a := match r.log with
    | 4 => dec64 673 3
    | 5 => dec64 697 3
    | 6 => dec64 709 3
    | _ => div64 (dec64 7213 4) (add64 (f64 1 0) (div64 (dec64 1079 3) m))
  let e := div64 (mul64 (mul64 a m) m) z
  let e := if le64 e (mul64 (dec64 25 1) m) && r.zeros != 0 then mul64 m (ln64 (div64 m (f64 r.zeros 0))) else e
  round32 e

/-- Sum of all slot counts. -/
def Region.total (r : Region) : Nat := (r.counters.map fun c => c.2).sum

/-- 2^(i x 2^(-g)) as binary64, correctly rounded; none beyond 2^1024, zero below 2^(-1200). (DEDUCED, log 42) -/
def exp64 (i : Int) (g : Nat) : FVal :=
  let k := i / 2 ^ g
  let f := (i % 2 ^ g).toNat
  if 1024 ≤ k then .inf false
  else if k < -1200 then .zero false
  else if f = 0 then f64 1 k
  else bin64 ⟨false, exp2Fix (f * 2 ^ (256 - g)), k - 256, true⟩

/-- Lowest slot whose cumulative count exceeds `n`. -/
def lowestSlot : Table Nat → Nat → Nat → Nat
  | [], _, _ => 0
  | (s, c) :: t, acc, n => if n < acc + c then s else lowestSlot t (acc + c) n

/-- The q-quantile (R253). (DEDUCED, log 42) -/
def Region.quantile (r : Region) (q : Word) : Word :=
  let t := r.total
  let qn := q.toNat
  if t = 0 || (0x3F800000 < qn && qn != 0x80000000) then nan32
  else
    let rk := match fp32.unpack qn with
      | .fin _ m e => if 0 ≤ e then m * 2 ^ e.toNat * (t - 1) else m * (t - 1) / 2 ^ (-e).toNat
      | _ => 0
    let s := lowestSlot r.counters 0 rk
    if s = 0 then 0
    else
      let g := cfgG r.cfg.toNat
      let i := r.imin.toInt + s - 1
      let v := div64 (mul64 (f64 2 0) (exp64 i g)) (add64 (f64 1 0) (exp64 1 g))
      BitVec.ofNat 32 (fp32.ofVal .rne false v).1

/-- A query of key x (R253). (DEDUCED, log 41) -/
def Region.query (r : Region) (x : Word) : Word :=
  match r.typ with
  | .distinct => BitVec.ofNat 32 r.distinct
  | .quant => r.quantile x
  | _ => BitVec.ofNat 32 (r.simple x)

/-- The estimate before an insert, for ATOMG.ADD (R248, R253). -/
def Region.prior (r : Region) (x : Word) : Word :=
  match r.typ with
  | .distinct => BitVec.ofNat 32 r.distinct
  | _ => BitVec.ofNat 32 (r.simple x)

def sat32 (n : Nat) : Nat := min n 4294967295

/-- SKQV (R263). -/
def Region.detail (r : Region) (x : Word) : Word × Word :=
  match r.typ with
  | .filter => (r.query x, BitVec.ofNat 32 ((r.places x).filter fun i => r.ctr i != 0).length)
  | .freq =>
    let e := div64 (mul64 (f64 (max r.nw 0).toNat 0) (dec64 2718281828459045 15)) (f64 r.width 0)
    (r.query x, BitVec.ofNat 32 (sat32 (ceil64 e)))
  | .distinct => (r.query x, BitVec.ofNat 32 r.zeros)
  | .quant =>
    let n := match r.slotOf x with
      | none => 0
      | some (s, _) => ((r.counters.filter fun c => c.1 ≤ s).map fun c => c.2).sum
    (BitVec.ofNat 32 (sat32 n), BitVec.ofNat 32 (sat32 r.total))

/-! ## Merge, fold, clear (R258-R260) -/

/-- Counters of merge row `k`: a frequency row, or a 4 KiB block of storage. -/
def Region.rowOf (r : Region) (k : Nat) : Nat × Nat :=
  match r.typ with
  | .freq => (k * r.width, r.width)
  | .filter => (8192 * k, min 8192 (r.count - 8192 * k))
  | .distinct => (4096 * k, min 4096 (r.count - 4096 * k))
  | .quant => (1024 * k, min 1024 (r.count - 1024 * k))

/-- Number of merge rows. -/
def Region.nrows (r : Region) : Nat :=
  match r.typ with
  | .freq => r.rows
  | _ => (r.size + 4095) / 4096

/-- Adds source counters, given as (index, value), into the region. -/
def Region.addRow (r : Region) (src : List (Nat × Nat)) : Region :=
  src.foldl (fun r c =>
    match r.typ with
    | .distinct => r.reach c.1 (max (r.ctr c.1) c.2)
    | _ => if r.ctr c.1 = r.ctrMax then r else r.reach c.1 (min (r.ctr c.1 + c.2) r.ctrMax)) r

/-- The same parameters: bytes 0-47 with SATT ignored (R258). -/
def sameParams (a b : List Byte) : Bool :=
  let f (l : List Byte) : List Byte := ((l.headD 0) &&& 0xFB) :: (l.drop 1).take 47
  f a == f b

/-- Folds whose level a region allows (R259). -/
def Region.canFold (r : Region) (b : Nat) : Bool :=
  1 ≤ b && b ≤ 8 &&
    (match r.typ with
    | .filter => 4 + b ≤ r.log
    | .freq => 2 + b ≤ r.log
    | .distinct => 4 + b ≤ r.log
    | .quant => b ≤ cfgG r.cfg.toNat)

/-- Sets a counter of the region being folded into; SAT when it comes to MAX. -/
def Region.foldCtr (q : Region) (mx i v : Nat) : Region :=
  let q' := q.setCtr i v
  if v == mx then { q' with sat := true } else q'

/-- One level of a fold. -/
def Region.fold1 (r : Region) : Region :=
  match r.typ with
  | .quant =>
    -- slot 0 kept; bucket i moves to ceil(i / 2) under the new IMIN
    let im : Int := -((-r.imin.toInt) / 2)
    let r0 : Region := { r with cfg := r.cfg - 32768, imin := BitVec.ofInt 32 im, counters := [] }
    r.counters.foldl (fun q c =>
      let s := if c.1 = 0 then 0 else (-((-(r.imin.toInt + c.1 - 1)) / 2) - im + 1).toNat
      q.foldCtr r.ctrMax s (min (q.ctr s + c.2) 4294967295)) r0
  | .distinct =>
    let r0 : Region := { r with cfg := r.cfg - 64, counters := [] }
    r.counters.foldl (fun q c =>
      let v := if c.1 % 2 = 0 then min (c.2 + 1) 63 else 1
      q.setCtr (c.1 / 2) (max (q.ctr (c.1 / 2)) v)) r0
  | _ =>
    let r0 : Region := { r with cfg := r.cfg - 64, counters := [] }
    r.counters.foldl (fun q c => q.foldCtr r.ctrMax (c.1 / 2) (min (q.ctr (c.1 / 2) + c.2) r.ctrMax)) r0

end Sys2Proof.Machine
end

