-- ==== Sys2Proof/Machine/Flags.lean ====
section
/-! DEFINITION. Floating-point flags and their traps (R54-R56). -/

namespace Sys2Proof.Machine

/-- Flag bit, enable bit of %mode and cause, in the order of R56. -/
def flagTraps : List (Nat × Nat × Cause) :=
  [(0, 4, Code.FINV), (1, 5, Code.FDZ), (2, 6, Code.FOVF), (5, 10, Code.CVTSAT), (6, 9, Code.NFSPEC),
   (3, 7, Code.FUNF), (4, 8, Code.FINX)]

/-- OR of the flags of the lanes of a mask. -/
def orFlags (lanes : Mask) (fl : Nat → Word) : Word := (lanesOf lanes).foldl (fun w i => w ||| fl i) 0

/-- The enabled exception that an instruction takes: its cause and the lanes that raised it (R56). -/
def enabledTrap (mode : Word) (lanes : Mask) (fl : Nat → Word) : Option (Cause × Mask) :=
  (flagTraps.find? fun t => mode.getLsbD t.2.1 && (orFlags lanes fl).getLsbD t.1).map fun t =>
    (t.2.2, mask1 lanes fun i => (fl i).getLsbD t.1)

/-- ORs flags into %fflags as a result (R55). -/
def State.postFlags (s : State) (c : Cursor) (fl : Word) : State :=
  if fl = 0 then s
  else s.postR c.grp { slotB := c.slotB, reg := .spr 0x01, mask := 1, vals := [fl], how := .or, src := 0 }

/-- Writes with flags (R56): an enabled exception traps and nothing is written; otherwise `k` writes the destination
and the flags are ORed in. -/
def State.withFlags (s : State) (c : Cursor) (fl : Nat → Word) (k : State → State) : State :=
  match enabledTrap (s.grp c.grp).regs.mode c.lanes fl with
  | some (cause, m) => s.raiseE c cause m 0 (orFlags c.lanes fl) []
  | none => (k s).postFlags c (orFlags c.lanes fl)

/-- A floating-point vector word: each lane rounds `n` values under mode `rm` and gives a value with flags. -/
def State.floatV (s : State) (c : Cursor) (d n : Nat) (rm : Rm) (f : (Nat → Fp.Mode) → Nat → Word × Word) : State :=
  let g := s.grp c.grp
  let m := g.rmOf rm
  let res := (List.range 96).map fun i => if c.lanes.getLsbD i then f (g.laneMode m i) i else (0, 0)
  let s' := if m = 6 then s.postSeeds c (g.seedsAfter c.lanes n) else s
  match enabledTrap g.regs.mode c.lanes fun i => (res.getD i (0, 0)).2 with
  | some (cause, k) => s.raiseE c cause k 0 (orFlags c.lanes fun i => (res.getD i (0, 0)).2) []
  | none => (s'.postV c d (res.map Prod.fst)).postFlags c (orFlags c.lanes fun i => (res.getD i (0, 0)).2)

/-- A floating-point vector word that reads no rounding mode. -/
def State.floatU (s : State) (c : Cursor) (d : Nat) (f : Nat → Word × Word) : State :=
  s.floatV c d 0 .rne fun _ i => f i

end Sys2Proof.Machine
end

