-- ==== Sys2Proof/Machine/Access.lean ====
section
/-! DEFINITION. Accesses at the word: the address checks of R132 and R247, the pieces of an access (R129), the bank
passes of R178, the causes of memory words (R107, R108, R132) and the entry that goes into the issue queue (R159). -/

namespace Sys2Proof.Machine

/-! ## Causes of memory words -/

/-- The checking order of R132 and R248. -/
def memOrder : List Cause :=
  [Code.NCADDR, Code.ALIGN, Code.PBND, Code.SPBND, Code.CSPBND, Code.PFNP, Code.PFWP, Code.FROZEN, Code.SKADDR,
   Code.ATOMSP, Code.ECCU, Code.POISON, Code.RMWU, Code.SKDEL, Code.SKTYPE, Code.SKPAR, Code.SKSAT]

/-- A lane that is refused: lane, cause, address. -/
abbrev Bad := Nat × Cause × Nat

/-- The cause taken: the first in the checking order that a lane raised. (DEDUCED, log 23; DEDUCED, log 43) -/
def firstCause (bad : List Bad) : Option Cause := memOrder.find? fun c => bad.any fun b => b.2.1 == c

/-- Lane 96 stands for the whole group's access, which is lane 0 of %tmask and %faddr. -/
def laneNo (l : Nat) : Nat := if l = 96 then 0 else l

def badMask (bad : List Bad) (c : Cause) : Mask := maskOf ((bad.filter fun b => b.2.1 == c).map fun b => laneNo b.1)

/-- %faddr of the lanes that raised `c` (R107). -/
def badAddrs (bad : List Bad) (c : Cause) : List Dword :=
  (List.range 96).map fun i =>
    match bad.find? fun b => b.2.1 == c && laneNo b.1 == i with
    | some b => BitVec.ofNat 64 b.2.2
    | none => 0

/-- %tinfo of a memory cause (R108). -/
def memInfo (op : BitVec 6) (write : Bool) : Word := BitVec.ofNat 32 (op.toNat + (if write then 256 else 0))

/-- %tinfo of a cause raised through the memory path: codes outside 0x20 to 0x2F hold 0. -/
def infoOf (c : Cause) (op : BitVec 6) (write : Bool) : Word :=
  if 0x20 ≤ c.toNat ∧ c.toNat ≤ 0x2F then memInfo op write else 0

def AccKind.writes : AccKind → Bool
  | .load _ => false
  | .store => true
  | .atomic _ => true
  | .red _ => true
  | .skqv => false
  | .skstat => false

/-- The access returns a value, so that its faults are class E (R115). -/
def AccKind.returns : AccKind → Bool
  | .store => false
  | .red _ => false
  | _ => true

/-! ## Colander windows (R243, R247) -/

/-- The kind checks at the word (R247). (DESIGN CHOICE, log 40) -/
def windowCause (k : AccKind) (glob : Bool) (size : Nat) (query : Bool) : Option Cause :=
  match k with
  | .load .b32 => if glob && size == 4 && query then none else some Code.SKADDR
  | .store => if glob && size == 4 && !query then none else some Code.SKADDR
  | .atomic .add => if !glob || query then some Code.SKADDR else none
  | .red .add => if !glob || query then some Code.SKADDR else none
  | .atomic _ => some Code.ATOMSP
  | .red _ => some Code.ATOMSP
  | _ => some Code.SKADDR

/-! ## Address checks (R132, R177) -/

/-- A lane's access after its checks: refused, or in a scratchpad or not, with its pieces. -/
abbrev Checked := Except (Cause × Nat) (Bool × List Piece)

/-- Checks of one lane's access of `size` bytes at `a`, the operand plus OFF x size, and its pieces. `spr` is the space. (DESIGN CHOICE, log 40;
DEDUCED, log 43) -/
def State.checkLane (s : State) (g lane : Nat) (spr : Space) (k : AccKind) (a size : Nat) : Checked :=
  let w := s.wg (s.grp g).wg
  let core := coreOf g
  match spr with
  | .priv =>
    if a % size ≠ 0 then .error (Code.ALIGN, a)
    else if w.hdr.priv < a + size then .error (Code.PBND, a)
    else
      let ps : List Piece :=
        if size ≤ 4 then [{ lane := lane, addr := s.privAddr g a lane, len := size }]
        else (List.range (size / 4)).map fun j => { lane := lane, addr := s.privAddr g (a + 4 * j) lane, len := 4, off := 4 * j }
      if ps.any fun p => (s.window w.ctx p.addr).isSome then .error (Code.SKADDR, a) else .ok (false, ps)
  | .loc =>
    if a % size ≠ 0 then .error (Code.ALIGN, a)
    else if w.hdr.spad < a + size then .error (Code.SPBND, a)
    else .ok (true, [{ lane := lane, addr := 262144 * (core % 32) + w.spb + a, len := size }])
  | .clu =>
    let owner := core / 32 * 32 + a / 262144
    if a % size ≠ 0 then .error (Code.ALIGN, a)
    else if 8388608 ≤ a then .error (Code.CSPBND, a)
    else if !s.spadRange w.ctx owner (a % 262144) size then .error (Code.CSPBND, a)
    else .ok (true, [{ lane := lane, addr := a, len := size }])
  | .glob =>
    let va := a % 18446744073709551616
    if !canonical va then .error (Code.NCADDR, va)
    else if va % size ≠ 0 then .error (Code.ALIGN, va)
    else
      match s.window w.ctx va with
      | some (base, q) =>
        match windowCause k true size q with
        | some c => .error (c, va)
        | none => .ok (false, [{ lane := lane, addr := va, len := size, win := some base }])
      | none => .ok (false, [{ lane := lane, addr := va, len := size }])

/-- Cores of a cluster address: the owning core (R176). -/
def ownerOf (g addr : Nat) : Nat := coreOf g / 32 * 32 + addr / 262144

/-! ## Bank passes (R178) -/

/-- Distinct words, as (core, p div 4) in one number, that the lanes of a sub-beat touch. -/
def touched (ps : List Piece) : List Nat :=
  let ws := ps.flatMap fun p => (List.range ((p.len + 3) / 4)).map fun j => p.addr / 4 + j
  ws.foldl (fun l w => if l.contains w then l else w :: l) []

/-- P of R178: the most words in one bank of one core. -/
def passes (ws : List Nat) : Nat :=
  ws.foldl (fun m w => max m (ws.filter fun x => x / 65536 == w / 65536 && x % 32 == w % 32).length) 0

/-- What a scratchpad word adds to %lrep: for each sub-beat with a lane, P - 1. -/
def extraPasses (size : Nat) (ps : List Piece) : Nat :=
  let n := if size ≤ 4 then 32 else if size = 8 then 16 else 8
  (List.range (96 / n)).foldl (fun t k =>
    let sub := ps.filter fun p => p.lane / n == k
    t + (passes (touched sub) - 1)) 0

/-! ## Entering the issue queue (R159) -/

/-- An entry takes its place in an issue queue: before those issued after it. Entries come in the order of issue, but for a replayed
access, which keeps the place of the old one (R172). -/
def insertEntry (e : Entry) : List Entry → List Entry
  | [] => [e]
  | y :: r => if e.id < y.id then e :: y :: r else y :: insertEntry e r

/-- The word at the cursor replays a faulted access: the access it replays (R172). -/
def Group.replayOf (x : Group) (c : Cursor) : Option Replay :=
  x.replays.find? fun r => r.stage == .due && r.slotB == c.slotB && r.pos == c.pos && r.repi == c.repi

/-- The number of an access that issues: a replay has that of the access it replays, whose place it takes (R172). -/
def State.accessId (s : State) (c : Cursor) : Nat × State :=
  match (s.grp c.grp).replayOf c with
  | some r => (r.id, s.modGrp c.grp fun x => { x with replays := x.replays.filter fun y => y != r })
  | none => s.fresh

/-- The slot of the cursor runs a trap handler. -/
def Group.handling (x : Group) (b : Bool) : Bool := x.priv && b == x.privB

/-- Adds an entry to the group's issue queue. -/
def State.enqueue (s : State) (c : Cursor) (id : Nat) (opc : BitVec 6) (body : EntryBody) (bad : List Bad)
    (dst : Nat) : State :=
  let e (x : Group) : Entry :=
    { id := id, serial := c.serial, slotB := c.slotB, pos := c.pos, resume := c.next, repi := c.repi, opc := opc
      body := body, done := c.done, bad := bad, dst := dst, handler := x.handling c.slotB }
  s.modGrp c.grp fun x => { x with queue := insertEntry (e x) x.queue }

/-- Raises the class E cause of refused lanes, with the lanes done. (DEDUCED, log 43) -/
def State.raiseBad (s : State) (c : Cursor) (opc : BitVec 6) (write : Bool) (bad : List Bad) (done : Mask) : State :=
  match firstCause bad with
  | none => s
  | some k => s.raiseE c k (badMask bad k) done (infoOf k opc write) (badAddrs bad k)

/-- Splits the lanes' checks into the pieces that passed and the lanes refused. -/
def sortLanes (xs : List (Nat × Checked)) : List (Bool × List Piece) × List Bad :=
  (xs.filterMap fun x => x.2.toOption,
   xs.filterMap fun x => match x.2 with
    | .error (k, a) => some (x.1, k, a)
    | .ok _ => none)

/-- Destination registers of a value-returning access: `n` vector or scalar registers from `d`. -/
def State.postDest (s : State) (c : Cursor) (vec : Bool) (d n : Nat) (mask : Mask) (id : Nat) : State :=
  (List.range n).foldl (fun s j =>
    s.postWait c (if vec then .v (d + j) else sreg (d + j)) (if vec then mask else 1) id) s

/-- Issues an access: lanes that passed enter the queue as one entry, refused lanes raise class E: at once for a word
that returns nothing or whose every lane is refused, with the completion otherwise (R132). `regs` counts the destination
registers. -/
def State.issueAccess (s : State) (c : Cursor) (opc : BitVec 6) (kind : AccKind) (bank : Bool)
    (xs : List (Nat × Checked)) (size : Nat) (dst regs : Nat) : State :=
  let (ok, bad) := sortLanes xs
  let ps := ok.flatMap Prod.snd
  let done := maskOf (ps.map fun p => laneNo p.lane)
  let whole := ps.any fun p => p.lane == 96
  if ps.isEmpty then s.raiseBad c opc kind.writes bad 0
  else
    let (id, s) := s.accessId c
    let s := if kind.returns then s.postDest c (!whole) dst regs done id else s
    let s := if bank && !whole then
        let n := extraPasses size ps
        if n = 0 then s
        else s.postR c.grp { slotB := c.slotB, reg := .spr 0x30, mask := 1, vals := [BitVec.ofNat 32 n], how := .add, src := 0 }
      else s
    let s := s.enqueue c id opc (.mem kind bank ps) (if kind.returns then bad else []) dst
    if kind.returns then s else s.raiseBad c opc kind.writes bad done

/-! ## EXPORT pages and Colander windows inside a try region (R150) -/

/-- Stores, atomics and REDs of an open region that reach an EXPORT page abort with SCOPE. Stores, ATOMG and RED that reach a Colander
window abort with COLANDER, be it with a form that the window refuses (DESIGN CHOICE, log 40); ATOMX (opcode 0x2F), which R150 does not
name, acts as outside a region. -/
def State.regionStop (s : State) (g : Nat) (opc : BitVec 6) (kind : AccKind) (bank : Bool) (ps : List Piece) (bad : List Bad) : Option Nat :=
  if (s.grp g).tryR.isNone || bank || !kind.writes then none
  else if opc != 0x2F && ((ps.any fun p => p.win.isSome) || bad.any fun b => b.2.1 == Code.SKADDR || b.2.1 == Code.ATOMSP) then some abCOLANDER
  else if ps.any fun p => s.exported (s.ctxOf g) p.addr then some abSCOPE
  else none

/-- `issueAccess` after the region's aborts. -/
def State.access (s : State) (c : Cursor) (opc : BitVec 6) (kind : AccKind) (bank : Bool) (xs : List (Nat × Checked))
    (size dst regs : Nat) : State :=
  match s.regionStop c.grp opc kind bank ((sortLanes xs).1.flatMap Prod.snd) (sortLanes xs).2 with
  | some code => s.abortTry c.grp code 0 0
  | none => s.issueAccess c opc kind bank xs size dst regs

/-! ## Values -/

/-- Low bytes of a datum held in registers, lowest address first. -/
def datum (ws : List Word) (n : Nat) : List Byte := (ws.flatMap fun w => leBytes 4 w.toNat).take n

/-- The bytes of a piece of a lane's datum. -/
def Piece.withData (p : Piece) (d : List Byte) : Piece := { p with data := (d.drop p.off).take p.len }

/-- Register `j` of a loaded datum, extended by R53. -/
def extended (z : Size) (bs : List Byte) (j : Nat) : Word :=
  match z with
  | .i8 => (leWord bs).extractLsb' 0 8 |>.signExtend 32
  | .i16 => (leWord bs).extractLsb' 0 16 |>.signExtend 32
  | _ => wordAt bs j

/-- The address operand of a lane in a space (R132). -/
def Group.laneAddr (g : Group) (p : Space) (a lane : Nat) : Nat :=
  match p with
  | .glob => (g.vp a lane).toNat
  | _ => (g.v a lane).toNat

/-- The scalar address operand. -/
def Group.scalarAddr (g : Group) (b : Bool) (p : Space) (a : Nat) : Nat :=
  match p with
  | .glob => (g.sp b a).toNat
  | _ => (g.s b a).toNat

end Sys2Proof.Machine

namespace Sys2Proof

/-- Registers that a size takes. -/
def Size.regs (z : Size) : Nat := max 1 (z.bytes / 4)

/-- The space is a scratchpad. -/
def Space.bank (p : Space) : Bool :=
  match p with
  | .loc => true
  | .clu => true
  | _ => false

end Sys2Proof
end

