-- ==== Sys2Proof/Machine/MemWords.lean ====
section
/-! DEFINITION. Memory words: LD, ST, LDS, STS (R132), the atomics (R133, R134) and RED (R135), cache maintenance
(R136), FENCE (R137, R138). Each checks its lanes and places an entry in the group's issue queue; the machine's steps
perform it (Queue.lean, Homes.lean). -/

namespace Sys2Proof.Machine

/-- The checks of every active lane of a vector access, with its register data or operands. -/
def State.lanesOfAccess (s : State) (c : Cursor) (p : Space) (k : AccKind) (a off size : Nat) (data ops : Nat → List Word) :
    List (Nat × Checked) :=
  let g := s.grp c.grp
  (lanesOf c.lanes).map fun i =>
    let d := datum (data i) size
    (i, (s.checkLane c.grp i p k (g.laneAddr p a i + off) size).map fun r =>
      (r.1, r.2.map fun x => { x.withData d with ops := ops i }))

/-- A scalar access: once for the whole group, as lane 96. -/
def State.scalarAccess (s : State) (c : Cursor) (p : Space) (k : AccKind) (a off size : Nat) (data : List Word) :
    List (Nat × Checked) :=
  let d := datum data size
  [(96, (s.checkLane c.grp 96 p k ((s.grp c.grp).scalarAddr c.slotB p a + off) size).map fun r =>
    (r.1, r.2.map fun x => x.withData d))]

/-- LD (R132). -/
def execLd (d a : BitVec 7) (p : Space) (z : Size) (o : BitVec 5) (s : State) : Host.Outcome State Fault Refusal :=
  word (.ld d a p z o) s fun c s =>
    s.access c 0x28 (.load z) p.bank
      (s.lanesOfAccess c p (.load z) a.toNat (o.toNat * z.bytes) z.bytes (fun _ => []) (fun _ => [])) z.bytes d.toNat z.regs

/-- ST (R132). -/
def execSt (d a : BitVec 7) (p : Space) (z : Size) (o : BitVec 5) (s : State) : Host.Outcome State Fault Refusal :=
  word (.st d a p z o) s fun c s =>
    let g := s.grp c.grp
    s.access c 0x29 .store p.bank
      (s.lanesOfAccess c p .store a.toNat (o.toNat * z.bytes) z.bytes
        (fun i => (List.range z.regs).map fun j => g.v (d.toNat + j) i) (fun _ => [])) z.bytes 0 0

/-- LDS (R132). -/
def execLds (d a : BitVec 7) (p : Space) (z : Size) (o : BitVec 5) (s : State) : Host.Outcome State Fault Refusal :=
  word (.lds d a p z o) s fun c s =>
    s.access c 0x2A (.load z) p.bank (s.scalarAccess c p (.load z) a.toNat (o.toNat * z.bytes) z.bytes [])
      z.bytes d.toNat z.regs

/-- STS (R132). -/
def execSts (d a : BitVec 7) (p : Space) (z : Size) (o : BitVec 5) (s : State) : Host.Outcome State Fault Refusal :=
  word (.sts d a p z o) s fun c s =>
    let g := s.grp c.grp
    s.access c 0x2B .store p.bank
      (s.scalarAccess c p .store a.toNat (o.toNat * z.bytes) z.bytes
        ((List.range z.regs).map fun j => g.s c.slotB (d.toNat + j))) z.bytes 0 0

/-! ## Atomics -/

/-- Operations of ATOM, ATOMC and ATOMG (R133). -/
def atOpOf (o : AOp) : AtOp :=
  match o with
  | .add => .add | .min => .min | .max => .max | .and => .and | .or => .or | .xor => .xor | .xchg => .xchg | .cas => .cas

/-- Operations of ATOMX (R133). -/
def atOpOfX (o : XOp) : AtOp :=
  match o with
  | .add64 => .add64 | .min64 => .min64 | .max64 => .max64 | .cas64 => .cas64
  | .fadd => .fadd | .fadd2bf => .fadd2bf | .fmin => .fmin | .fmax => .fmax

/-- Operations of RED (R135). -/
def atOpOfR (o : ROp) : AtOp :=
  match o with
  | .add => .add | .min => .min | .max => .max | .and => .and | .or => .or | .xor => .xor
  | .fadd => .fadd | .add64 => .add64

/-- Bytes of the location (R133). -/
def AtOp.size (o : AtOp) : Nat :=
  match o with
  | .add64 | .min64 | .max64 | .cas64 => 8
  | _ => 4

/-- Operand registers. -/
def AtOp.operands (o : AtOp) : Nat :=
  match o with
  | .cas | .add64 | .min64 | .max64 => 2
  | .cas64 => 4
  | _ => 1

/-- The shared form of the atomics and RED (R133-R135). -/
def atomicWord (opc : BitVec 6) (kind : AccKind) (op : AtOp) (p : Space) (d a b : Nat) (c : Cursor) (s : State) : State :=
  let g := s.grp c.grp
  s.access c opc kind p.bank
    (s.lanesOfAccess c p kind a 0 op.size (fun _ => [])
      (fun i => (List.range op.operands).map fun j => g.v (b + j) i)) op.size d (op.size / 4)

/-- ATOM (R133). -/
def execAtom (d a b : BitVec 7) (o : AOp) (s : State) : Host.Outcome State Fault Refusal :=
  word (.atom d a b o) s (atomicWord 0x2C (.atomic (atOpOf o)) (atOpOf o) .loc d.toNat a.toNat b.toNat)

/-- ATOMC (R133). -/
def execAtomc (d a b : BitVec 7) (o : AOp) (s : State) : Host.Outcome State Fault Refusal :=
  word (.atomc d a b o) s (atomicWord 0x2D (.atomic (atOpOf o)) (atOpOf o) .clu d.toNat a.toNat b.toNat)

/-- ATOMG (R133). -/
def execAtomg (d a b : BitVec 7) (o : AOp) (s : State) : Host.Outcome State Fault Refusal :=
  word (.atomg d a b o) s (atomicWord 0x2E (.atomic (atOpOf o)) (atOpOf o) .glob d.toNat a.toNat b.toNat)

/-- ATOMX (R133). -/
def execAtomx (d a b : BitVec 7) (o : XOp) (s : State) : Host.Outcome State Fault Refusal :=
  word (.atomx d a b o) s (atomicWord 0x2F (.atomic (atOpOfX o)) (atOpOfX o) .glob d.toNat a.toNat b.toNat)

/-- RED (R135): FADD and ADD64 in a scratchpad raise ATOMSP. -/
def execRed (p : Space) (a b : BitVec 7) (o : ROp) (s : State) : Host.Outcome State Fault Refusal :=
  word (.red p a b o) s fun c s =>
    if p.bank && (o = .fadd || o = .add64) then
      let g := s.grp c.grp
      s.raiseBad c 0x30 true ((lanesOf c.lanes).map fun i => (i, Code.ATOMSP, g.laneAddr p a.toNat i)) 0
    else atomicWord 0x30 (.red (atOpOfR o)) (atOpOfR o) p 0 a.toNat b.toNat c s

/-! ## Maintenance (R136) -/

def levelNo (l : Level) : Nat :=
  match l with
  | .l1 => 0 | .llc => 1 | .msc => 2 | .illegal => 3

/-- The shared form of CCLEAN, CINV, CFLUSH and PREF. -/
def maintWord (x : Nat) (l : Level) (a b : BitVec 7) (c : Cursor) (s : State) : State :=
  let g := s.grp c.grp
  let va := (g.sp c.slotB a.toNat).toNat
  let n := (g.sc c.slotB b.toNat).toNat
  if l = .illegal || 1073741824 < n || !canonical va || (n ≠ 0 && !canonical ((va + n - 1) % 18446744073709551616)) ||
      (n ≠ 0 && canonical va && (va / 72057594037927936 != (va + n - 1) / 72057594037927936)) ||
      (x = 1 && (va % 128 ≠ 0 || n % 128 ≠ 0)) then
    s.raiseE c Code.CMAINT 0 0 (memInfo 0x31 false) []
  else
    let (id, s) := s.fresh
    s.enqueue c id 0x31 (.maint x (levelNo l) va n) [] 0

/-- CCLEAN (R136). -/
def execCclean (l : Level) (a b : BitVec 7) (s : State) : Host.Outcome State Fault Refusal :=
  word (.cclean l a b) s (maintWord 0 l a b)

/-- CINV (R136). -/
def execCinv (l : Level) (a b : BitVec 7) (s : State) : Host.Outcome State Fault Refusal :=
  word (.cinv l a b) s (maintWord 1 l a b)

/-- CFLUSH (R136). -/
def execCflush (l : Level) (a b : BitVec 7) (s : State) : Host.Outcome State Fault Refusal :=
  word (.cflush l a b) s (maintWord 2 l a b)

/-- PREF (R136). (DEDUCED, log 38) -/
def execPref (l : Level) (a b : BitVec 7) (s : State) : Host.Outcome State Fault Refusal :=
  word (.pref l a b) s (maintWord 3 l a b)

/-! ## FENCE (R137, R138) -/

/-- Try slots of a core in use: by try regions and by speculative fences (R138, R141). -/
def State.trySlotsUsed (s : State) (core : Nat) : Nat :=
  (s.groups.filter fun e => coreOf e.1 == core && (e.2.tryR.isSome || e.2.spec.isSome)).length

/-- A fence is strict when it says so, inside a try region, with another speculative fence pending, or without a free
try slot (R138). -/
def State.fenceStrict (s : State) (g : Nat) (t : BitVec 1) : Bool :=
  t == 1 || (s.grp g).spec.isSome || (s.grp g).tryR.isSome || decide (4 ≤ s.trySlotsUsed (coreOf g))

/-- FENCE (R137, R138). -/
def execFence (k : FKind) (t : BitVec 1) (p : Scope) (s : State) : Host.Outcome State Fault Refusal :=
  word (.fence k t p) s fun c s =>
    let strict := s.fenceStrict c.grp t
    let (id, s) := s.fresh
    let s := s.enqueue c id 0x32 (.fence k p strict) [] 0
    if strict then s
    else
      let g := s.grp c.grp
      let f : SpecFence :=
        { id := id, serial := c.serial, ckpt := { regs := g.regs, trapRegs := g.trapRegs, a := g.a, b := g.b, out := g.out } }
      s.setGrp c.grp { g with spec := some f }

end Sys2Proof.Machine
end

