-- ==== Sys2Proof/Machine/Queue.lean ====
section
/-! DEFINITION. The issue queue and the buffers between cores and homes (R159-R163): when an entry may leave (R162),
what a memory access and a maintenance word do when they leave (R161, R136), release and acquire parts (R137, R165),
write-back, drop and delivery. -/

namespace Sys2Proof.Machine

/-! ## Overlap (R162) -/

/-- A piece shares a byte with `n` bytes at `a`. -/
def Piece.touches (p : Piece) (a n : Nat) : Bool := decide (p.addr < a + n) && decide (a < p.addr + p.len)

/-- Two pieces share a byte, or lie in one Colander region. -/
def Piece.meets (p q : Piece) : Bool := p.touches q.addr q.len || p.win.isSome && p.win == q.win

/-- A piece lies in lines of a maintenance range (R136). -/
def inRange (va n addr len : Nat) : Bool :=
  n != 0 && len != 0 && decide (va / 128 ≤ (addr + len - 1) / 128) && decide (addr / 128 ≤ (va + n - 1) / 128)

/-- A merge source is a region where its address is a window base (R258). -/
def isBase (va : Nat) : Bool := va % 34359738368 == 0

/-- The regions that a word of major 0x1C works on. -/
def skRegions (op : SkOp) (base arg : Nat) : List Nat := if op == .merge && isBase arg then [base, arg] else [base]

/-- Bytes of ordinary memory that a word of major 0x1C covers: its descriptor or its image (R256, R258, R262). -/
def State.skArea (s : State) (ctx : Nat) (op : SkOp) (base arg : Nat) : Nat × Nat :=
  let image := match tget (s.ctx ctx).regions base with
    | some q => 64 + q.size
    | none => 0
  match op with
  | .skdef => (arg, 64)
  | .merge => (arg, if isBase arg then 0 else image)
  | .snap => (arg, image)
  | _ => (arg, 0)

/-- A piece of a global access lies in a region, or in the bytes, that a word of major 0x1C works on. -/
def State.skMeets (s : State) (ctx : Nat) (op : SkOp) (base arg : Nat) (p : Piece) : Bool :=
  match p.win with
  | some w => (skRegions op base arg).contains w
  | none => p.touches (s.skArea ctx op base arg).1 (s.skArea ctx op base arg).2

/-- The bytes of join counters and records that an entry changes or reads when it leaves (R275, R276). -/
def EntryBody.joins (e : EntryBody) : Option (Nat × Nat) :=
  match e with
  | .jdec va _ => some (va, 64)
  | .spawn r => if r.lch then some (r.jadr.toNat + 24, 4) else none
  | _ => none

/-- An entry covers a byte of a join counter, or of a record, that `a` changes or reads. -/
def EntryBody.joinMeets (a b : EntryBody) : Bool :=
  match a.joins, b with
  | some j, .mem _ false ps => ps.any fun p => p.touches j.1 j.2
  | some j, .maint _ _ va n => inRange va n j.1 j.2
  | _, _ => false

/-- Two entries cover a common byte, or the same Colander region. -/
def State.meet (s : State) (ctx : Nat) (a b : EntryBody) : Bool :=
  a.joinMeets b || b.joinMeets a || match a, b with
  | .mem _ k ps, .mem _ k' qs => k == k' && ps.any fun p => qs.any p.meets
  | .mem _ false ps, .maint _ _ va n => ps.any fun p => inRange va n p.addr p.len
  | .maint _ _ va n, .mem _ false ps => ps.any fun p => inRange va n p.addr p.len
  | .maint _ _ va n, .maint _ _ va' n' => inRange va n va' n'
  | .mem _ false ps, .sk op base arg => ps.any (s.skMeets ctx op base arg)
  | .sk op base arg, .mem _ false ps => ps.any (s.skMeets ctx op base arg)
  | .maint _ _ va n, .sk op base arg => inRange va n (s.skArea ctx op base arg).1 (s.skArea ctx op base arg).2
  | .sk op base arg, .maint _ _ va n => inRange va n (s.skArea ctx op base arg).1 (s.skArea ctx op base arg).2
  | .sk op base arg, .sk op' base' arg' => (skRegions op base arg).any (skRegions op' base' arg').contains
  | _, _ => false

/-- A load of ordinary pages, which alone may pass a speculative fence (R161, R162). -/
def State.plainLoad (s : State) (ctx : Nat) (b : EntryBody) : Bool :=
  match b with
  | .mem (.load _) false ps => ps.all fun p => p.win.isNone && !s.exported ctx p.addr
  | _ => false

/-- The entry changes memory and answers, so that a release waits for it (R137, R171). -/
def Entry.storing (e : Entry) : Bool :=
  match e.body with
  | .mem k _ _ => k.writes
  | .maint .. => true
  | .sk .. => true
  | _ => false

def Entry.isMaint (e : Entry) : Bool :=
  match e.body with
  | .maint .. => true
  | _ => false

/-- A fence of group scope. -/
def Entry.grpFence (e : Entry) : Bool :=
  match e.body with
  | .fence _ .grp _ => true
  | _ => false

/-- A fence of another scope; its speculation. -/
def Entry.fence? (e : Entry) : Option Bool :=
  match e.body with
  | .fence _ .grp _ => none
  | .fence _ _ strict => some strict
  | _ => none

/-- A strict fence, which parks its group (R138). -/
def Entry.strictFence (e : Entry) : Bool :=
  match e.body with
  | .fence _ _ strict => strict
  | _ => false

/-- A handler's entry goes past what the group had left before the trap while a replay is pending: that may wait for the replay, and the
replay for the handler (R172). (DESIGN CHOICE, log 92) -/
def Group.apart (x : Group) (e y : Entry) : Bool := e.handler && !y.handler && !x.replays.isEmpty

/-- The entries of the queue before number `k` that entry `e` may have to wait for. -/
def Group.earlier (x : Group) (k : Nat) (e : Entry) : List Entry := (x.queue.take k).filter fun y => !x.apart e y

/-- What of R162 holds back every kind of entry: an earlier fence of group scope, or an earlier fence of another scope
unless the entry is a load and the fence speculative. -/
def State.fenced (s : State) (ctx : Nat) (earlier : List Entry) (b : EntryBody) : Bool :=
  earlier.any Entry.grpFence ||
    earlier.any fun x => match x.fence? with
      | some strict => strict || !s.plainLoad ctx b
      | none => false

/-- The replay of an earlier access to a common byte is pending; the handler's own accesses do not wait for it (R162, R172). (DESIGN
CHOICE, log 92) -/
def State.replayMeets (s : State) (ctx : Nat) (x : Group) (e : Entry) : Bool :=
  !e.handler && x.replays.any fun r => decide (r.id < e.id) && s.meet ctx (.mem .store r.bank r.ps) e.body

/-- A home has refused the request for a frozen page, and it has not been performed since (R172, R242). -/
def Req.retried (r : Req) : Bool := r.waiting || r.retries != 0

/-- An access of the group is pending on a frozen page (R172, R242). -/
def State.frozenFlight (s : State) (g : Nat) (f : Flight) : Bool :=
  s.arrived.any fun r => r.retried && r.grp == g && r.fid == f.entry.id

/-- A memory access or maintenance word may leave (R162, R172). (DEDUCED, log 33) -/
def State.mayLeave (s : State) (g k : Nat) : Bool :=
  let x := s.grp g
  let ctx := s.ctxOf g
  match x.queue[k]? with
  | none => false
  | some e =>
    let earlier := x.earlier k e
    let busy := x.flights.filter fun f =>
      f.serviced || f.entry.isMaint || e.isMaint || x.tryR.isSome && f.entry.storing || s.frozenFlight g f
    !s.fenced ctx earlier e.body && !(earlier.any fun y => s.meet ctx y.body e.body) &&
      !(busy.any fun f => s.meet ctx f.entry.body e.body) && !s.replayMeets ctx x e

/-! ## Requests and the write-back queue (R159, R163) -/

/-- First address a request touches. -/
def Req.addr (r : Req) : Nat :=
  match r.body with
  | .read p _ => p.addr
  | .write p => p.addr
  | .atomic _ _ ps => (ps.head?.map fun p => p.addr).getD 0
  | .wb w => 128 * w.line
  | .colander base _ _ => base
  | .maint _ _ line => 128 * line
  | .probe p _ _ _ => p.addr
  | .sk _ base _ _ _ _ => base

/-- The core whose bank the request goes to. -/
def Req.bank? (r : Req) : Option Nat :=
  match r.home with
  | .bank c => some c
  | _ => none

/-- Dirty bytes leave the write-back queue for the request queue of their home. -/
def State.sendWb (s : State) (core : Nat) (w : WriteBack) : State :=
  let c := s.core core
  let r : Req := { core := core, home := s.homeOf w.ctx (128 * w.line), ctx := w.ctx, grp := 32 * core, fid := 0, body := .wb w }
  { s.setCore core { c with wbq := c.wbq.filter fun x => x.id != w.id } with reqs := s.reqs ++ [r] }

/-- The write-backs of a kind leave the write-back queue, in their order. -/
def State.drainWb (s : State) (core : Nat) (p : WriteBack → Bool) : State :=
  ((s.core core).wbq.filter p).foldl (fun s w => s.sendWb core w) s

/-- A request enters its queue, after the core's write-backs of its line: a read never passes the core's own older writes (R164). -/
def State.pushReq (s : State) (r : Req) : State :=
  let s := if r.bank?.isSome then s else s.drainWb r.core fun w => w.ctx == r.ctx && w.line == r.addr / 128
  { s with reqs := s.reqs ++ [r] }

/-! ## Acquires and releases (R137, R163, R165) -/

/-- The line is under watch by a group of the core (R131, R165). -/
def State.watched (s : State) (core ctx line : Nat) : Bool :=
  s.watches.any fun w => !w.bank && coreOf w.grp == core && w.ctx == ctx && w.line == line

/-- The acquire step at cluster scope and wider: the context's lines not under watch are dropped, dirty lines keep their
dirty bytes (R137, R165). -/
def State.acquire (s : State) (core ctx : Nat) : State :=
  let c := s.core core
  let f (l : L1Line) : Option L1Line :=
    if l.ctx != ctx || s.watched core ctx l.line then some l
    else if l.dirty == 0 then none else some { l with valid := l.dirty }
  (s.setCore core { c with l1 := c.l1.filterMap f }).noInstall core ctx fun n => !s.watched core ctx n

/-- Dirty bytes of the context leave the core's L1 and its write-back queue (R165). -/
def State.pushDirty (s : State) (core ctx : Nat) : State :=
  (((s.core core).l1.filter fun l => l.ctx == ctx && l.dirty != 0).foldl (fun s l => s.writeBack core l l.dirty) s).drainWb core
    fun w => w.ctx == ctx

/-- A write-back of the core for the context, of a number below `n`, has not been acknowledged yet (R165). -/
def State.wbPending (s : State) (core ctx n : Nat) : Bool :=
  ((s.wbsOf core).any fun w => w.ctx == ctx && decide (w.id < n)) ||
    s.resps.any fun r => r.core == core && r.ctx == ctx && r.wb != 0 && decide (r.wb < n)

/-- The context has dirty bytes in the core's L1. -/
def State.dirty (s : State) (core ctx : Nat) : Bool := (s.core core).l1.any fun l => l.ctx == ctx && l.dirty != 0

/-- The context's dirty bytes as they stood when they were last moved, below number `moved`, have reached their homes; without a move
yet, there are none (R165). -/
def State.wbDone (s : State) (core ctx moved : Nat) : Bool :=
  if moved = 0 then !(s.dirty core ctx || s.wbPending core ctx s.nextId) else !s.wbPending core ctx moved

/-- Order of scopes. -/
def scopeNo (p : Scope) : Nat :=
  match p with
  | .grp => 0 | .core => 1 | .clu => 2 | .die => 3 | .pkg => 4 | .sys => 5 | .illegal6 => 6 | .illegal7 => 7

/-- Every storing access before the entry has landed, and every replay of an earlier access has been performed (R137, R165, R172). -/
def State.landed (s : State) (g : Nat) (e : Entry) : Bool :=
  let x := s.grp g
  !(x.flights.any fun f => decide (f.entry.id < e.id) && (f.serviced || f.entry.storing)) && x.deferred.isEmpty &&
    (e.handler || !x.replays.any fun r => decide (r.id < e.id))

/-- The release part at a scope for the entries before this one, which have all left: they have landed and, from cluster scope on, the
context's dirty bytes are at their homes (R137, R165, R172). -/
def State.releasedFor (s : State) (g : Nat) (p : Scope) (e : Entry) : Bool :=
  s.landed g e && (decide (scopeNo p ≤ 1) || s.wbDone (coreOf g) (s.ctxOf g) e.moved)

/-- The core moves every dirty byte of the context for a release part, once (R165). -/
def State.startRelease (s : State) (g : Nat) (p : Scope) (e : Entry) : State :=
  if scopeNo p ≤ 1 ∨ e.moved ≠ 0 then s
  else
    let s := s.pushDirty (coreOf g) (s.ctxOf g)
    let mark (y : Entry) : Entry := if y.id == e.id then { y with moved := s.nextId } else y
    s.modGrp g fun x => { x with queue := x.queue.map mark }

/-! ## What an access does when it leaves (R161) -/

/-- Bytes of a piece already held where `m` is set, one by one: they come before the fetched ones. -/
def heldBytes (p : Piece) (data : List Byte) (m : BitVec 128) : List (Nat × Nat × List Byte) :=
  (List.range p.len).filterMap fun i =>
    let o := p.addr % 128 + i
    if m.getLsbD o then some (p.lane, p.off + i, [data.getD o 0]) else none

/-- One piece of a load leaves: served by the L1, or sent to its home with the L1's dirty bytes kept for the result. -/
def State.leaveLoad (s : State) (g : Nat) (f : Flight) (bank : Bool) (p : Piece) : State × Flight :=
  let core := coreOf g
  let ctx := s.ctxOf g
  if bank then
    (s.pushReq { core := core, home := .bank (ownerOf g p.addr), ctx := ctx, grp := g, fid := f.entry.id
                 body := .read p false }, { f with left := f.left + 1 })
  else
    let exp := s.exported ctx p.addr
    let spec := !exp && (s.grp g).spec.any fun x => decide (x.id < f.entry.id)
    let s := if spec then s.dropClean core ctx (p.addr / 128) else s
    match (if spec || exp then none else (s.core core).hitBytes ctx p.addr p.len) with
    | some bs => (s, { f with got := f.got ++ [(p.lane, p.off, bs)] })
    | none =>
      let held := match (s.core core).line ctx (p.addr / 128) with
        | some l => if exp then [] else heldBytes p l.data l.dirty
        | none => []
      (s.pushReq { core := core, home := s.homeOf ctx p.addr, ctx := ctx, grp := g, fid := f.entry.id
                   body := .read p !exp, watch := if spec then some .fence else none },
       { f with left := f.left + 1, got := f.got ++ held })

/-- One piece of a store leaves: into the L1 as dirty bytes, or to a bank or the memory-side cache. A page that refuses
the write refuses the lane. -/
def State.leaveStore (s : State) (g : Nat) (f : Flight) (bank : Bool) (p : Piece) : State × Flight :=
  let core := coreOf g
  let ctx := s.ctxOf g
  let send (h : Home) : State × Flight :=
    (s.pushReq { core := core, home := h, ctx := ctx, grp := g, fid := f.entry.id, body := .write p },
     { f with left := f.left + 1 })
  if bank then send (.bank (ownerOf g p.addr))
  else
    match s.translate ctx p.addr .write with
    | .error c => (s, { f with bad := f.bad ++ [(p.lane, c, p.addr)] })
    | .ok e =>
      if leafExport e then send (.msc (chanOf p.addr))
      else ((s.setCore core ((s.core core).store ctx p.addr p.data (g % 32))).fitL1 core, f)

/-- The pieces of an atomic by distinct address, in order of first lane. -/
def byAddr (ps : List Piece) : List (List Piece) :=
  let as := ps.foldl (fun l p => if l.contains p.addr then l else l ++ [p.addr]) []
  as.map fun a => ps.filter fun p => p.addr == a

/-- One address of an atomic leaves (R134). -/
def State.leaveAtomic (s : State) (g : Nat) (f : Flight) (bank red : Bool) (op : AtOp) (ps : List Piece) :
    State × Flight :=
  let core := coreOf g
  let ctx := s.ctxOf g
  match ps with
  | [] => (s, f)
  | p :: _ =>
    let s := if bank then s else s.flushLine core ctx (p.addr / 128)
    (s.pushReq { core := core, home := if bank then .bank (ownerOf g p.addr) else s.homeOf ctx p.addr, ctx := ctx
                 grp := g, fid := f.entry.id, body := .atomic op red ps }, { f with left := f.left + 1 })

/-- The lanes of a word on one Colander region leave (R248). -/
def State.leaveColander (s : State) (g : Nat) (f : Flight) (base : Nat) (kind : AccKind) (ps : List Piece) :
    State × Flight :=
  (s.pushReq { core := coreOf g, home := .llc (sliceOf base), ctx := s.ctxOf g, grp := g, fid := f.entry.id
               body := .colander base kind ps }, { f with left := f.left + 1 })

/-- The regions that pieces address, each with its pieces, and the pieces outside any window, as the core's table told them apart when
the word issued (R246, R256). -/
def byRegion (ps : List Piece) : List (Nat × List Piece) × List Piece :=
  let bs := (ps.filterMap fun p => p.win).eraseDups
  (bs.map fun b => (b, ps.filter fun p => p.win == some b), ps.filter fun p => p.win.isNone)

/-- Ascending lanes (R132). -/
def byLane (ps : List Piece) : List Piece :=
  (List.range 97).flatMap fun i => ps.filter fun p => p.lane == i

/-- A memory access leaves whole, outside a try region. -/
def State.leaveMem (s : State) (g : Nat) (f : Flight) (kind : AccKind) (bank : Bool) (ps : List Piece) : State × Flight :=
  let (regions, plain) := if bank then ([], ps) else byRegion ps
  let r := regions.foldl (fun r b => r.1.leaveColander g r.2 b.1 kind b.2) (s, f)
  match kind with
  | .load _ => plain.foldl (fun r p => r.1.leaveLoad g r.2 bank p) r
  | .store => (byLane plain).foldl (fun r p => r.1.leaveStore g r.2 bank p) r
  | .atomic op => (byAddr plain).foldl (fun r ps => r.1.leaveAtomic g r.2 bank false op ps) r
  | .red op => (byAddr plain).foldl (fun r ps => r.1.leaveAtomic g r.2 bank true op ps) r
  | .skqv => (r.1, { r.2 with bad := r.2.bad ++ plain.map fun p => (p.lane, Code.SKADDR, p.addr) })
  | .skstat => r

/-! ## Maintenance when it leaves (R136) -/

/-- Lines of the context in a range that a level below the L1 may hold: those in the LLC and those with write-backs on
their way. -/
def State.linesBelow (s : State) (core ctx va n : Nat) : List Nat :=
  let inr (l : Nat) : Bool := inRange va n (128 * l) 1
  let all := (s.llc.filterMap fun l => if l.ctx == ctx && inr l.line then some l.line else none) ++
    (s.wbsOf core).filterMap fun w => if w.ctx == ctx && inr w.line then some w.line else none
  (all.filter fun l => (s.window ctx (128 * l)).isNone).eraseDups

/-- The L1 part of a maintenance word on one line. -/
def State.maintL1 (s : State) (core ctx x : Nat) (l : L1Line) : State :=
  match x with
  | 0 => s.writeBack core l l.dirty
  | 1 => (s.setCore core ((s.core core).dropLine ctx l.line)).noInstall core ctx fun n => n == l.line
  | 2 => s.flushLine core ctx l.line
  | _ => s

/-- CINV and CFLUSH of a line are a conflicting write for the other groups that watch it: those of the core, and those of
every core where the word acts below the L1 (R136, R151). (DEDUCED, log 32) -/
def State.maintHits (s : State) (ctx grp lvl va n : Nat) : State :=
  let mine (w : Watch) : Bool :=
    !w.bank && w.ctx == ctx && w.grp != grp && (lvl != 0 || coreOf w.grp == coreOf grp) && inRange va n (128 * w.line) 128 &&
      (s.window ctx (128 * w.line)).isNone
  (s.watches.filter mine).foldl State.hitWatch s

/-- Lines of a range that PREF fetches into the L1: lines of ordinary pages, outside every window, that it does not hold whole (R130,
R136). -/
def State.prefLines (s : State) (core ctx va n : Nat) : List Nat :=
  if n = 0 then [] else
    ((List.range ((va + n - 1) / 128 - va / 128 + 1)).map (va / 128 + ·)).filter fun l =>
      (match s.leaf ctx (128 * l) with | some e => !leafExport e | none => false) && (s.window ctx (128 * l)).isNone &&
        ((s.core core).hitBytes ctx (128 * l) 128).isNone

/-- The requests of a maintenance word to the homes of some lines. -/
def State.maintReqs (s : State) (g : Nat) (f : Flight) (ls : List Nat) (body : Nat → ReqBody) : State × Flight :=
  let core := coreOf g
  let ctx := s.ctxOf g
  ls.foldl (fun r l =>
    (r.1.pushReq { core := core, home := r.1.homeOf ctx (128 * l), ctx := ctx, grp := g, fid := f.entry.id, body := body l },
     { r.2 with left := r.2.left + 1 })) (s, f)

/-- A maintenance word leaves: it acts on the L1, then sends a request for each line below up to its level. PREF fetches its lines from
their homes into the L1; what the LLC and the memory-side cache then hold is the fetch's own doing (R136). (DEDUCED, log 32; DEDUCED,
log 38) -/
def State.leaveMaint (s : State) (g : Nat) (f : Flight) (x lvl va n : Nat) : State × Flight :=
  let core := coreOf g
  let ctx := s.ctxOf g
  if x = 3 then s.maintReqs g f (s.prefLines core ctx va n) fun l => .read { lane := 96, addr := 128 * l, len := 128 } true
  else
    let ls := (s.core core).l1.filter fun l =>
      l.ctx == ctx && inRange va n (128 * l.line) 128 && (s.window ctx (128 * l.line)).isNone
    let s := ls.foldl (fun s l => s.maintL1 core ctx x l) s
    let s := if x = 0 then s else s.maintHits ctx g lvl va n
    if lvl = 0 then (s, f) else s.maintReqs g f (s.linesBelow core ctx va n) (.maint x lvl)

/-! ## Delivery and the L1's own steps (R163) -/

/-- The head of a core's request queue to a home moves to the home. -/
def State.deliverReq (s : State) (k : Nat) : State :=
  match s.reqs[k]? with
  | none => s
  | some r =>
    if (s.reqs.take k).any fun q => q.core == r.core && q.home == r.home then s
    else { s with reqs := dropAt s.reqs k, arrived := s.arrived ++ [r] }

/-- REQUEST_DELIVER (R163). -/
def execRequestDeliver (k : Nat) (s : State) : Host.Outcome State Fault Refusal := .next (s.deliverReq k)

/-- L1_WRITE_BACK (R163): dirty bytes of line `k` of a core's L1 move into its write-back queue; a `k` past the lines names an entry of
that queue, the oldest of its line, which moves on into the request queue of its home: write-backs of a byte keep their order (R164).
(DESIGN CHOICE, log 31) -/
def execL1WriteBack (core k : Nat) (bytes : BitVec 128) (s : State) : Host.Outcome State Fault Refusal :=
  let c := s.core core
  .next (match c.l1[k]? with
    | some l => s.writeBack core l bytes
    | none => match c.wbq[k - c.l1.length]? with
      | some w =>
        if (c.wbq.take (k - c.l1.length)).any fun x => x.ctx == w.ctx && x.line == w.line then s
        else s.drainWb core fun x => x.id == w.id
      | none => s)

/-- L1_DROP (R163): a line without dirty bytes goes; its watch stays. (DESIGN CHOICE, log 31) -/
def execL1Drop (core k : Nat) (s : State) : Host.Outcome State Fault Refusal :=
  .next (match (s.core core).l1[k]? with
    | none => s
    | some l => if l.dirty = 0 then s.setCore core ((s.core core).dropLine l.ctx l.line) else s)

end Sys2Proof.Machine
end

