-- ==== Sys2Proof/Machine/Homes.lean ====
section
/-! DEFINITION. What a home does with an arrived request (R160, R163, R164): reads and fills with ECC and poison (R240),
writes and RMWU (R241), frozen pages (R242), the operations of atomics (R133, R134), the steps of Colander regions (R248,
R249, R255-R263), cache maintenance below the L1 (R136), refresh retries (R238). -/

namespace Sys2Proof.Machine

open Sys2Proof.Fp

/-! ## Read-modify-write operations (R133) -/

/-- One 32-bit operation. -/
def AtOp.word (o : AtOp) (m b b1 : Word) : Word :=
  match o with
  | .add => m + b
  | .min => if m.slt b then m else b
  | .max => if m.slt b then b else m
  | .and => m &&& b
  | .or => m ||| b
  | .xor => m ^^^ b
  | .xchg => b
  | .cas => if m = b then b1 else m
  | .fadd => BitVec.ofNat 32 (fp32.add .rne false (fp32.unpack m.toNat) (fp32.unpack b.toNat)).1
  | .fadd2bf =>
    let half (k : Nat) : Nat :=
      (bf16.add .rne false (bf16.unpack (m.toNat / 65536 ^ k % 65536)) (bf16.unpack (b.toNat / 65536 ^ k % 65536))).1
    BitVec.ofNat 32 (half 1 * 65536 + half 0)
  | .fmin => (minMax false pickMin m b).1
  | .fmax => (minMax false pickMax m b).1
  | _ => m

/-- One 64-bit operation: operand, and the new value of CAS64. -/
def AtOp.dword (o : AtOp) (m b b1 : Dword) : Dword :=
  match o with
  | .add64 => m + b
  | .min64 => if m.slt b then m else b
  | .max64 => if m.slt b then b else m
  | .cas64 => if m = b then b1 else m
  | _ => m

/-- The location after one lane's operation. -/
def AtOp.apply (o : AtOp) (m : List Byte) (ops : List Word) : List Byte :=
  let w (i : Nat) : Word := ops.getD i 0
  if o.size = 8 then leBytes 8 (o.dword (leDword m) (w 1 ++ w 0 : BitVec 64) (w 3 ++ w 2 : BitVec 64)).toNat
  else leBytes 4 (o.word (leWord m) (w 0) (w 1)).toNat

/-- The lanes at one address, in ascending order: what each receives and the location at the end (R134). -/
def AtOp.aggregate (o : AtOp) : List Piece → List Byte → List (Nat × List Byte) × List Byte
  | [], m => ([], m)
  | p :: r, m =>
    let x := o.aggregate r (o.apply m p.ops)
    ((p.lane, m) :: x.1, x.2)

/-! ## Requests -/

/-- Lanes of a request with their addresses. -/
def Req.lanes (r : Req) : List (Nat × Nat) :=
  match r.body with
  | .read p _ => [(p.lane, p.addr)]
  | .write p => [(p.lane, p.addr)]
  | .atomic _ _ ps => ps.map fun p => (p.lane, p.addr)
  | .wb _ => []
  | .colander _ _ ps => ps.map fun p => (p.lane, p.addr)
  | .maint .. => []
  | .probe p m _ _ => if p.lane = 96 ∨ m = 0 then [(p.lane, p.addr)] else (lanesOf m).map fun l => (l, p.addr)
  | .sk _ base _ _ _ _ => [(96, base)]

/-- First byte and length of what a request reads or writes, for the order of requests to one location. -/
def Req.span (r : Req) : Nat × Nat :=
  match r.body with
  | .read p _ => (p.addr, p.len)
  | .write p => (p.addr, p.len)
  | .atomic _ _ ps => (r.addr, (ps.head?.map fun p => p.len).getD 0)
  | .wb _ => (r.addr, 128)
  | .colander base _ _ => (base, 34359738368)
  | .maint .. => (r.addr, 128)
  | .probe p _ _ _ => (p.addr, p.len)
  | .sk _ base _ _ _ _ => (base, 34359738368)

/-- Two requests of one core to one home touch a common location, for the same group or for a write-back. -/
def Req.ordered (q r : Req) : Bool :=
  q.core == r.core && q.home == r.home && (q.grp == r.grp || q.fid == 0 || r.fid == 0) &&
    decide (q.span.1 < r.span.1 + r.span.2) && decide (r.span.1 < q.span.1 + q.span.2)

/-- A word of major 0x1C whose steps at the home have begun and are not all done. -/
def Req.started (r : Req) : Bool :=
  match r.body with
  | .sk _ _ _ row src _ => row != 0 || src.isSome
  | _ => false

/-- A request that works on a region. -/
def Req.region? (r : Req) : Option Nat :=
  match r.body with
  | .colander base _ _ => some base
  | .sk _ base _ _ _ _ => some base
  | _ => none

/-- A write sent by a group that a home has refused for a frozen page: it parks the group and gives up at the limit (R123, R242).
Write-backs, maintenance and words of major 0x1C wait without limit. (DESIGN CHOICE, log 34) -/
def Req.parks (r : Req) : Bool :=
  r.retried && r.fid != 0 && (match r.body with | .maint .. => false | .sk .. => false | _ => true)

/-- What a home does with a request. -/
inductive Outcome where
  /-- Performed, with its response. -/
  | done (s : State) (b : RespBody)
  /-- Refused for now: a write to a frozen page (R242). -/
  | frozen
  /-- A step of a merge performed; the request goes on (R258). -/
  | more (s : State) (r : Req)

/-- Every lane refused with one cause. -/
def Req.refuse (r : Req) (c : Cause) : RespBody := .faults (r.lanes.map fun l => (l.1, c, l.2)) []

/-! ## Reads and writes -/

/-- Two watches of one group for one purpose over one line. -/
def Watch.same (x w : Watch) : Bool :=
  x.bank == w.bank && x.ctx == w.ctx && x.line == w.line && x.grp == w.grp && x.what == w.what

/-- Adds a watch, joining its lanes to one the group already has; where a write has hit that one, the lanes that use it now are rollback
lanes too (R153). -/
def State.addWatch (s : State) (w : Watch) : State :=
  let join (x : Watch) : Watch := if x.same w then { x with lanes := x.lanes ||| w.lanes } else x
  if s.watches.any fun x => x.same w then
    let t := { s with watches := s.watches.map join }
    if s.watches.any fun x => x.same w && x.hit then t.modGrp w.grp fun g => g.hit w else t
  else { s with watches := w :: s.watches }

/-- Lanes that a request's watch is for. -/
def Req.watchLanes (r : Req) (p : Piece) : Mask :=
  match r.body with
  | .probe _ m _ _ => m
  | _ => maskOf [laneNo p.lane]

/-- The watch that a request asks for. -/
def State.watchFor (s : State) (r : Req) (p : Piece) : State :=
  match r.watch with
  | none => s
  | some k =>
    let line := match r.bank? with
      | some c => 2048 * c + p.addr % 262144 / 128
      | none => p.addr / 128
    s.addWatch { bank := r.bank?.isSome, ctx := if r.bank?.isSome then 0 else r.ctx, line := line, grp := r.grp, what := k
                 lanes := r.watchLanes p }

/-- A read at a global home: the bytes, and for a fill the line with its valid bytes. The read of the line finds every granule of it that
has failed; a fill brings none of them (R240). -/
def State.readGlobal (s : State) (r : Req) (p : Piece) (fill : Bool) : State × RespBody :=
  match s.translate r.ctx p.addr .read with
  | .error c => (s, r.refuse c)
  | .ok e =>
    let gs := s.granules r.ctx p.addr p.len
    match s.eccCheck gs with
    | some c => (s.readEcc gs, r.refuse c)
    | none =>
      let s := s.watchFor r p
      let s := if leafExport e then s else
        (s.readEcc (s.granules r.ctx (128 * (p.addr / 128)) 128)).staleFills r.core r.ctx fun n => n == p.addr / 128
      let s := if s.reachesMsc r.ctx p.addr (leafExport e) then s.touchPins r.ctx p.addr else s
      if leafExport e then (s, .data p (cells s.mem (leafPa e p.addr) p.len))
      else
        let line := p.addr / 128
        let pa := leafPa e (128 * line)
        let bad := (List.range 4).filter fun i => s.poison.contains (pa / 32 + i)
        let valid := bad.foldl (fun m i => m &&& ~~~lineMask (32 * i) 32) (BitVec.allOnes 128)
        let x := s.llcRead r.ctx (128 * line) 128
        if fill then (x.2, .fill p line valid x.1) else (x.2, .data p (part x.1 (p.addr % 128) p.len))

/-- A bank access after the allocation has ended raises CSPBND (R177). -/
def State.bankOk (s : State) (r : Req) (core : Nat) (p : Piece) : Bool :=
  s.spadRange r.ctx core (p.addr % 262144) p.len

/-- A write that a frozen page holds (R242). -/
def State.heldWrite (s : State) (ctx va : Nat) : Bool := s.frz ctx va && (s.translate ctx va .write).toBool

/-- A write at a home other than a bank: performed, refused with a cause, or held by a frozen page. -/
def State.writeGlobal (s : State) (r : Req) (line : Nat) (m : BitVec 128) (data : List Byte) (writer : Option Nat) :
    Outcome :=
  if s.heldWrite r.ctx (128 * line) then .frozen
  else
    match s.homeWrite r.ctx line m data writer with
    | (.ok s, _) => .done s .ack
    | (.error c, s) => .done s (r.refuse c)

/-- RMWU of a write-back goes to each group that dirtied the line, as class D (R241). (DEDUCED, log 26) -/
def State.wbRefused (s : State) (r : Req) (line : Nat) (m : BitVec 128) (groups : List Nat) : State :=
  let bad := (s.splitGranules r.ctx (128 * line) m).2.filter s.poison.contains
  let pa := match s.leaf r.ctx (128 * line) with | some e => leafPa e (128 * line) | none => 0
  let va := 128 * line + 32 * ((bad.headD 0) - pa / 32)
  groups.foldl (fun s k =>
    s.modGrp (32 * r.core + k) fun g =>
      let own := g.a.owned ||| g.b.owned
      let b := g.a.st == SlotSt.free
      let x : Raised :=
        { cause := Code.RMWU, cls := .d, slotB := b, pos := 0, mask := own, info := memInfo 0x29 true
          faddr := (List.range 96).map fun i => if own.getLsbD i then BitVec.ofNat 64 va else 0 }
      if g.dead then g else { g with deferred := g.deferred ++ [x] }) s

/-- An atomic or RED at its home, as one step (R134). Where its read finds the granule uncorrectable the acknowledgement carries RMWU
(R241); a granule poisoned before gives POISON (R240). (DEDUCED, log 26) -/
def State.atomicHome (s : State) (r : Req) (op : AtOp) (red : Bool) (ps : List Piece) : Outcome :=
  match ps with
  | [] => .done s .ack
  | p :: _ =>
    let answer (olds : List (Nat × List Byte)) : RespBody := if red then .ack else .olds olds
    match r.bank? with
    | some core =>
      if s.bankOk r core p then
        let x := op.aggregate ps (s.spadBytes core (p.addr % 262144) op.size)
        .done (s.setSpad core (p.addr % 262144) x.2 (some r.grp)) (answer x.1)
      else .done s (r.refuse Code.CSPBND)
    | none =>
      match s.translate r.ctx p.addr .write with
      | .error c => .done s (r.refuse c)
      | .ok e =>
        if leafFrz e then .frozen
        else
          let gs := s.granules r.ctx p.addr op.size
          match s.eccCheck gs with
          | some c => .done (s.readEcc gs) (r.refuse (if c = Code.ECCU then Code.RMWU else c))
          | none =>
            let x := op.aggregate ps (s.homeBytes r.ctx p.addr op.size)
            .done (s.putLine r.ctx p.addr x.2 (some r.grp)) (answer x.1)

/-! ## Colander steps at the region's home (R248, R249) -/

/-- Byte addresses in the storage of some counters. -/
def Region.addrs (r : Region) (base : Nat) (is : List Nat) : List Nat := is.map fun i => base + r.byteAt i

/-- Counters that a query or insert of a key reads. -/
def Region.reads (r : Region) (x : Word) (query : Bool) : List Nat :=
  match r.typ with
  | .distinct => if query then List.range ((r.size + 31) / 32) |>.map (32 * ·) else r.places x
  | .quant => if query then List.range ((r.size + 31) / 32) |>.map (8 * ·) else r.places x
  | _ => r.places x

/-- The page and ECC checks of bytes that a step at a home uses: the first cause in the order of R132, and the address of the byte that
raises it; no byte of ordinary memory, `plain`, lies in a window (R247). With `frz` a frozen page is refused. (DEDUCED, log 106) -/
def State.storageCause (s : State) (ctx : Nat) (as : List Nat) (k : Acc) (plain frz : Bool) : Option (Cause × Nat) :=
  let inside (a : Nat) : Bool := plain && (s.window ctx a).isSome
  let checks (a : Nat) : List Cause :=
    if inside a then [Code.SKADDR]
    else match s.translate ctx a k with
      | .error c => [c]
      | .ok e => (if frz && leafFrz e then [Code.FROZEN] else []) ++ (s.eccCheck (s.granules ctx a 1)).toList
  let found := as.flatMap fun a => (checks a).map fun c => (c, a)
  [Code.PFNP, Code.PFWP, Code.FROZEN, Code.SKADDR, Code.ECCU, Code.POISON].findSome? fun c => found.find? fun x => x.1 == c

/-- Key of an address in a window (R243). -/
def keyOf (base addr : Nat) : Word := BitVec.ofNat 32 ((addr - base) / 4)

/-- The access reads the region's estimate: a query, or an ATOMG.ADD on a distinct counter, whose estimate needs every register (R253).
-/
def AccKind.queries (k : AccKind) (t : SkType) : Bool :=
  match k with
  | .store => false
  | .red _ => false
  | .atomic _ => t == .distinct
  | _ => true

/-- Key of a lane's access. -/
def AccKind.key (k : AccKind) (base : Nat) (p : Piece) : Word :=
  match k with
  | .skqv => p.ops.headD 0
  | _ => keyOf base p.addr

/-- Storage addresses that a lane's access reads at the step (R249); SKSTAT reads none (R261). -/
def Region.readsOf (r : Region) (base : Nat) (k : AccKind) (p : Piece) : List Nat :=
  match k with
  | .skstat => []
  | _ => r.addrs base (r.reads (k.key base p) (k.queries r.typ))

/-- One lane of a Colander word on the region as it stands: why the lane is refused and at which address, the region after, the lane's
value. -/
structure SkLane where
  bad : Option (Cause × Nat) := none
  region : Region
  val : List Byte := []
  sat : Bool := false

/-- An insert performed, and whether it saturated a counter. -/
def Region.inserted (r : Region) (x w : Word) : Region × Bool :=
  let q := { r with sat := false }.insert x w.toInt
  ({ q with sat := q.sat || r.sat }, q.sat)

/-- One lane's access to a region (R248); with `up` a write to a frozen page has come to its limit (R242). A storage check names the
storage byte that fails it. (DEDUCED, log 106) -/
def State.skLane (s : State) (ctx base : Nat) (r : Region) (kind : AccKind) (up : Bool) (p : Piece) : SkLane :=
  let x := kind.key base p
  let w := match kind with
    | .store => leWord p.data
    | _ => p.ops.headD 0
  let insert := kind.writes
  match s.storageCause ctx (r.readsOf base kind p) (if insert then .write else .read) false (up && insert) with
  | some c => { bad := some c, region := r }
  | none =>
    match (if insert then r.insertCause x w.toInt else none) with
    | some c => { bad := some (c, p.addr), region := r }
    | none =>
      let before := leBytes 4 (r.prior x).toNat
      if insert then
        let q := r.inserted x w
        { region := q.1, val := before, sat := q.2 }
      else
        match kind with
        | .skqv => { region := r, val := leBytes 4 (r.detail x).1.toNat ++ leBytes 4 (r.detail x).2.toNat }
        | .skstat =>
          { region := r, val := leBytes 4 r.status.toNat ++ leBytes 4 (max 0 (min r.nw 4294967295)).toNat }
        | _ => { region := r, val := leBytes 4 (r.query x).toNat }

/-- The lanes of a word on one region, in ascending order. -/
def State.skLanes (s : State) (ctx base : Nat) (kind : AccKind) (up : Bool) :
    List Piece → Region → List (Nat × Cause × Nat) × List (Nat × List Byte) × List (Nat × Nat) × Region
  | [], r => ([], [], [], r)
  | p :: rest, r =>
    let x := s.skLane ctx base r kind up p
    let y := s.skLanes ctx base kind up rest x.region
    match x.bad with
    | some c => ((p.lane, c) :: y.1, y.2.1, y.2.2.1, y.2.2.2)
    | none => (y.1, (p.lane, x.val) :: y.2.1, if x.sat then (p.lane, p.addr) :: y.2.2.1 else y.2.2.1, y.2.2.2)

/-- Sets a region. -/
def State.setRegion (s : State) (ctx base : Nat) (r : Region) : State :=
  let c := s.ctx ctx
  s.setCtx ctx { c with regions := tset c.regions base r }

/-- A lane of the word writes to a counter in a frozen page of the region's storage (R242, R249). -/
def State.skFrozen (s : State) (ctx base : Nat) (kind : AccKind) (ps : List Piece) : Bool :=
  match tget (s.ctx ctx).regions base with
  | none => false
  | some reg => kind.writes && ps.any fun p => (reg.addrs base (reg.places (kind.key base p))).any (s.frz ctx)

/-- The step of a word on one region (R248, R249, R252). It waits for a frozen page, unless with `up` it has come to its limit: then the
lanes whose storage is frozen raise FROZEN, and the others perform (R242). -/
def State.colanderHome (s : State) (r : Req) (base : Nat) (kind : AccKind) (ps : List Piece) (up : Bool) : Outcome :=
  let status (x : AccKind) : Bool := match x with | .skstat => true | _ => false
  match tget (s.ctx r.ctx).regions base with
  | none =>
    if status kind then .done s (.faults [] [(96, leBytes 8 0)]) else .done s (r.refuse Code.SKADDR)
  | some reg =>
    if !up && s.skFrozen r.ctx base kind ps then .frozen
    else
      let x := s.skLanes r.ctx base kind up (byLane ps) reg
      let first := cfgSatt reg.cfg.toNat && !reg.sat
      let sat := if first then x.2.2.1.map fun l => (l.1, Code.SKSAT, l.2) else []
      let s := s.readEcc (((ps.flatMap (reg.readsOf base kind)).flatMap fun a => s.granules r.ctx a 1).eraseDups)
      let s := if kind.writes then s.setRegion r.ctx base x.2.2.2 else s
      .done s (.faults (x.1 ++ sat) x.2.1)

/-! ## Words of major 0x1C at the home (R256-R262) -/

/-- Lines of the storage range leave every slice without write-back. -/
def State.dropStorage (s : State) (ctx base size : Nat) : State :=
  let inside (l : LlcLine) : Bool := l.ctx == ctx && inRange base size (128 * l.line) 128
  { s with llc := s.llc.filter fun l => !inside l }

/-- Start addresses of the pages that `n` bytes from `a` touch. -/
def pagesOf (a n : Nat) : List Nat :=
  if n = 0 then [] else (List.range ((a + n - 1) / 262144 - a / 262144 + 1)).map fun i => (a / 262144 + i) * 262144

/-- The first cause that the pages of a range raise; EXPORT pages raise SKADDR where `noExp`. -/
def State.pagesCause (s : State) (ctx : Nat) (ps : List Nat) (k : Acc) (noExp : Bool) : Option (Cause × Nat) :=
  ps.findSome? fun a =>
    match s.translate ctx a k with
    | .error c => some (c, a)
    | .ok e => if noExp && leafExport e then some (Code.SKADDR, a) else none

/-- Addresses, one a granule, of a byte range. -/
def granuleAddrs (a n : Nat) : List Nat := (List.range ((n + 31) / 32)).map fun i => a + 32 * i

/-- Writes bytes below the LLC, page by page, which touches their windows (R233); a granule written whole is good again (R240). -/
def State.putBelow (s : State) (ctx base : Nat) (bs : List Byte) : State :=
  let f (m : List Host.Cell × Nat) (b : Byte) : List Host.Cell × Nat :=
    (match s.leaf ctx m.2 with
    | some e => setCell m.1 (leafPa e m.2) b
    | none => m.1, m.2 + 1)
  let gs := (granuleAddrs base (bs.length / 32 * 32)).flatMap fun a => s.granules ctx a 1
  (pagesOf base bs.length).foldl (fun s a => s.touchPins ctx (max base a))
  { s with mem := (bs.foldl f (s.mem, base)).1
           poison := s.poison.filter fun g => !gs.contains g
           failed := s.failed.filter fun g => !gs.contains g }

/-- Refusal of the whole word at its base or operand address. -/
def skFault (c : Cause) (va : Nat) : RespBody := .faults [(96, c, va)] []

/-- Descriptors that a slice holds, over all contexts (R246). -/
def State.descriptorsAt (s : State) (slice : Nat) : Nat :=
  (s.ctxs.map fun c => (c.2.regions.filter fun r => sliceOf r.1 == slice).length).sum

/-- The source of a merge: a region's parameters, status bits and NW, or an image's. -/
structure MergeSrc where
  desc : List Byte
  sat : Bool
  under : Bool
  clamp : Bool
  nw : Int

/-- DEDUCED, log 41. -/
def State.mergeSrc (s : State) (ctx va : Nat) : Option MergeSrc :=
  if isBase va then
    (tget (s.ctx ctx).regions va).map fun r => { desc := r.desc, sat := r.sat, under := r.under, clamp := r.clamp, nw := r.nw }
  else
    let bs := s.homeBytes ctx va 64
    let st := (wordAt bs 12).toNat
    some { desc := bs.take 48, sat := st / 1073741824 % 2 == 1, under := st / 536870912 % 2 == 1
           clamp := st / 268435456 % 2 == 1, nw := (dwordAt bs 7).toInt }

/-- Non-zero counters of a merge row of the source. -/
def State.sourceRow (s : State) (ctx va : Nat) (dst : Region) (row : Nat) : List (Nat × Nat) :=
  let k := dst.rowOf row
  if isBase va then
    match tget (s.ctx ctx).regions va with
    | some q => q.counters.filter fun c => decide (k.1 ≤ c.1) && decide (c.1 < k.1 + k.2)
    | none => []
  else
    (List.range k.2).filterMap fun j =>
      let v := dst.ctrOf (fun b => s.homeByte ctx (va + 64 + b)) (k.1 + j)
      if v = 0 then none else some (k.1 + j, v)

/-- Byte range of a merge row in the storage. -/
def Region.rowBytes (r : Region) (row : Nat) : Nat × Nat :=
  let k := r.rowOf row
  (r.byteAt k.1, r.byteAt (k.1 + k.2 - 1) + 1 - r.byteAt k.1)

/-- Why bytes that a step reads or writes, a row of storage or of ordinary memory, cannot be used: the cause with its address, and the
granules read. -/
def State.rowCause (s : State) (ctx a n : Nat) (k : Acc) (plain : Bool) : Option (Cause × Nat) × List Nat :=
  let as := granuleAddrs a n
  (s.storageCause ctx as k plain false, as.flatMap fun x => s.granules ctx x 1)

/-- One step of SKMERGE (R258): the checks before the first row, the read of a source row, its addition to the destination, the end. The
parameters are compared before the first row only: a SKFOLD, a SKCLR or a new SKDEF of either region between two rows is a step of its own,
after which the rows go on with the parameters as they then stand. (DEDUCED, log 41; DESIGN CHOICE, log 107) -/
def State.skMerge (s : State) (r : Req) (base va row : Nat) (src : Option (List (Nat × Nat))) (sat : Bool) : Outcome :=
  let image := !isBase va
  match tget (s.ctx r.ctx).regions base with
  | none => .done s (skFault Code.SKADDR base)
  | some d =>
    if va = base then .done s (skFault Code.SKADDR va)
    else
      match (if image then (s.rowCause r.ctx va 64 .read true).1 else none), s.mergeSrc r.ctx va with
      | some c, _ => .done (s.readEcc (s.granules r.ctx va 64)) (.stopped c.1 c.2 row sat)
      | none, none => .done s (.stopped Code.SKADDR va row sat)
      | none, some m =>
        if row = 0 ∧ src = none ∧ sameParams m.desc d.desc = false then .done s (skFault Code.SKPAR va)
        else
          let rb := d.rowBytes row
          match src with
          | none =>
            if d.nrows ≤ row then
              let q := { d with
                nw := clampI64 (d.nw + m.nw), sat := d.sat || m.sat, under := d.under || m.under
                clamp := d.clamp || m.clamp, merges := min (d.merges + 1) 65535 }
              let s := s.setRegion r.ctx base q
              .done s (if cfgSatt d.cfg.toNat && sat then .faults [(96, Code.SKSAT, base)] [(96, [])] else .ack)
            else
              let a := (if image then va + 64 else va) + rb.1
              match s.rowCause r.ctx a rb.2 .read image with
              | (some c, gs) => .done (s.readEcc gs) (.stopped c.1 c.2 row sat)
              | (none, _) => .more (if image then s.touchRead r.ctx a rb.2 else s)
                { r with body := .sk .merge base va row (some (s.sourceRow r.ctx va d row)) sat }
          | some xs =>
            if (granuleAddrs (base + rb.1) rb.2).any fun a => s.frz r.ctx a then .frozen
            else
              match s.rowCause r.ctx (base + rb.1) rb.2 .write false with
              | (some c, gs) => .done (s.readEcc gs) (.stopped c.1 c.2 row sat)
              | (none, _) =>
                let q := { d with sat := false }.addRow xs
                .more (s.setRegion r.ctx base { q with sat := q.sat || d.sat })
                  { r with body := .sk .merge base va (row + 1) none (sat || q.sat && !d.sat) }

/-- The image of a region (R262). -/
def Region.image (q : Region) : List Byte :=
  q.desc ++ leBytes 4 q.status.toNat ++ leBytes 4 0 ++ leBytes 8 (BitVec.ofInt 64 q.nw).toNat ++ q.bytes

/-- One step of SKSNAP (R262): the read of the whole region, then the write of one line of the image after another, each performed at its
LLC home. -/
def State.skSnap (s : State) (r : Req) (base arg row : Nat) (src : Option (List (Nat × Nat))) : Outcome :=
  match src with
  | some xs =>
    let bs : List Byte := xs.map fun x => BitVec.ofNat 8 x.2
    let va := arg + 64 * row
    let here := bs.take 64
    let rest := xs.drop 64
    match s.writeGlobal r (va / 128) (lineMask (va % 128) here.length) (placed (va % 128) here) (some r.grp) with
    | .done s .ack =>
      if rest.isEmpty then .done s .ack else .more s { r with body := .sk .snap base arg (row + 1) (some rest) false }
    | .done s (.faults bad _) => .done s (.faults (bad.map fun b => (b.1, b.2.1, va)) [])
    | o => o
  | none =>
    match tget (s.ctx r.ctx).regions base with
    | none => .done s (skFault Code.SKADDR base)
    | some q =>
      let bs := q.image
      let laps (w : Nat × Region) : Bool := decide (arg < w.1 + 34359738368) && decide (w.1 < arg + bs.length)
      if (s.ctx r.ctx).regions.any laps then .done s (skFault Code.SKADDR arg)
      else
        match s.pagesCause r.ctx (pagesOf arg bs.length) .write false, s.rowCause r.ctx base q.size .read false with
        | some c, _ => .done s (skFault c.1 c.2)
        | none, (some c, gs) => .done (s.readEcc gs) (skFault c.1 c.2)
        | none, (none, _) => .more s { r with body := .sk .snap base arg 0 (some (bs.map fun b => (0, b.toNat))) false }

/-- A word of major 0x1C at its region's home. The counters that SKDEF and SKCLR set to zero live at the home: no granule of the storage is
written, and a poisoned one stays poisoned (R256, R260). Every word but SKSTAT and SKQV waits on a frozen page of what it writes until the
page thaws. (DESIGN CHOICE, log 108; DESIGN CHOICE, log 34) -/
def State.skHome (s : State) (r : Req) (op : SkOp) (base arg row : Nat) (src : Option (List (Nat × Nat))) (sat : Bool) :
    Outcome :=
  match op with
  | .skdef =>
    let q := regionOf (leBytes 64 arg)
    if (tget (s.ctx r.ctx).regions base).isSome ∨ 256 ≤ (s.ctx r.ctx).regions.length ∨
        64 ≤ s.descriptorsAt (sliceOf base) then .done s (skFault Code.SKADDR base)
    else
      match s.pagesCause r.ctx (pagesOf base q.size) .write true with
      | some c => .done s (skFault c.1 c.2)
      | none => .done ((s.dropStorage r.ctx base q.size).setRegion r.ctx base q) .ack
  | .merge => s.skMerge r base arg row src sat
  | .snap => s.skSnap r base arg row src
  | _ =>
    match tget (s.ctx r.ctx).regions base with
    | none => .done s (skFault Code.SKADDR base)
    | some q =>
      let held := (pagesOf base q.size).any fun a => s.frz r.ctx a
      match op with
      | .undef =>
        if held then .frozen
        else
          let c := s.ctx r.ctx
          let s := (s.dropStorage r.ctx base q.size).putBelow r.ctx base q.bytes
          .done (s.setCtx r.ctx { c with regions := tdel c.regions base }) .ack
      | .fold =>
        if q.canFold arg = false then .done s (skFault Code.SKTYPE base)
        else if held then .frozen
        else
          match s.rowCause r.ctx base q.size .write false with
          | (some c, gs) => .done (s.readEcc gs) (skFault c.1 c.2)
          | (none, _) =>
            let f := (List.range arg).foldl (fun x _ => Region.fold1 x) { q with sat := false }
            let t := { f with sat := f.sat || q.sat, folds := (q.folds + arg) % 256 }
            let s := s.setRegion r.ctx base t
            let s := (s.dropStorage r.ctx (base + t.size) (q.size - t.size)).putBelow r.ctx (base + t.size)
              (List.replicate (q.size - t.size) 0)
            .done s (if cfgSatt q.cfg.toNat && f.sat && !q.sat then .faults [(96, Code.SKSAT, base)] [(96, [])] else .ack)
      | .clr =>
        if held then .frozen
        else
          .done (s.setRegion r.ctx base
            { q with counters := [], nw := 0, sat := false, under := false, clamp := false, merges := 0, folds := 0 }) .ack
      | _ => .done s .ack

/-! ## HOME_PERFORM -/

/-- Read-set lines of a group's region (R145). -/
def State.readSet (s : State) (g : Nat) : Nat :=
  (s.watches.filter fun w => w.grp == g && w.what == WatchFor.region).length

/-- A try region's probe at a home (R145, R147, R149). -/
def State.probeHome (s : State) (r : Req) (p : Piece) (rd wr : Bool) : Outcome :=
  match r.bank? with
  | some core =>
    if s.bankOk r core p then
      .done (s.watchFor r p) (if rd then .data p (s.spadBytes core (p.addr % 262144) p.len) else .ack)
    else .done s (r.refuse Code.CSPBND)
  | none =>
    match (if wr then s.translate r.ctx p.addr .write else .ok 0) with
    | .error c => .done s (r.refuse c)
    | .ok e =>
      if wr && leafFrz e then .frozen
      else if rd then
        let x := s.readGlobal r p false
        .done x.1 x.2
      else .done s .ack

/-- What a home does with an arrived request. (DEDUCED, log 35) -/
def State.performReq (s : State) (r : Req) : Outcome :=
  match r.body with
  | .read p fill =>
    match r.bank? with
    | some core =>
      if s.bankOk r core p then .done s (.data p (s.spadBytes core (p.addr % 262144) p.len))
      else .done s (r.refuse Code.CSPBND)
    | none =>
      let x := s.readGlobal r p fill
      .done x.1 x.2
  | .write p =>
    match r.bank? with
    | some core =>
      if s.bankOk r core p then .done (s.setSpad core (p.addr % 262144) p.data (some r.grp)) .ack
      else .done s (r.refuse Code.CSPBND)
    | none =>
      s.writeGlobal r (p.addr / 128) (lineMask (p.addr % 128) p.len) (placed (p.addr % 128) p.data)
        (some r.grp)
  | .atomic op red ps => s.atomicHome r op red ps
  | .wb w =>
    if s.heldWrite r.ctx (128 * w.line) then .frozen
    else
      match s.homeWrite r.ctx w.line w.mask w.data w.writer with
      | (.ok s, _) => .done s .ack
      | (.error c, s) => .done (if c = Code.RMWU then s.wbRefused r w.line w.mask w.groups else s) .ack
  | .colander base kind ps => s.colanderHome r base kind ps false
  | .maint x lvl line =>
    if x != 1 && s.llcHeld r.ctx line then .frozen
    else if lvl = 0 then .done s .ack
    else
      match x with
      | 0 => .done (s.cleanLlc r.ctx line) .ack
      | 1 => .done ((s.dropLlc r.ctx line).written false r.ctx line (some r.grp)) .ack
      | 2 => .done ((s.evictLlc r.ctx line).written false r.ctx line (some r.grp)) .ack
      | _ => .done s .ack
  | .probe p _ rd wr => s.probeHome r p rd wr
  | .sk op base arg row src sat => s.skHome r op base arg row src sat

/-- A request may be performed: nothing the same core sent earlier to the home is still to be performed, but for writes waiting on frozen
pages and words of major 0x1C whose steps have begun, which hold only what must follow them; no earlier request to its line waits for its
re-queue; SKUNDEF comes after every step already accepted for its region (R159, R164, R238, R242, R257). -/
def State.ready (s : State) (k : Nat) (r : Req) : Bool :=
  let before := s.arrived.take k
  let undef (x : ReqBody) : Bool := match x with | .sk .undef .. => true | _ => false
  !r.waiting && !r.requeue &&
    !(before.any fun q => q.core == r.core && q.home == r.home && !q.waiting && !q.started) &&
    !(before.any fun q => (q.waiting || q.started) && q.ordered r) &&
    !(before.any fun q => q.requeue && q.ctx == r.ctx && q.home == r.home && q.addr / 128 == r.addr / 128) &&
    !(undef r.body && before.any fun q => !q.waiting && q.ctx == r.ctx && q.region? == r.region?)

/-- Request `k` leaves the home with its response. -/
def State.answered (s : State) (k : Nat) (r : Req) (b : RespBody) : State :=
  let x : Resp :=
    { core := r.core, grp := r.grp, fid := r.fid, ctx := r.ctx, body := b, wb := (r.wb?.map fun w => w.id).getD 0 }
  { s with arrived := dropAt s.arrived k, resps := s.resps ++ [x] }

/-- The stored bits of some granules fail: the next read of one finds it uncorrectable. A number past the last granule, 2^34, stands for an
error that a read has corrected, which is counted (R240). (DEDUCED, log 37) -/
def State.fail (s : State) (gs : List Nat) : State :=
  { s with failed := (gs.filter fun g => decide (g < 17179869184) && !s.failed.contains g) ++ s.failed
           corrected := s.corrected + (gs.filter fun g => decide (17179869184 ≤ g)).length }

/-- A home performs arrived request `k`; LLC lines of `evict` leave first, and the granules of `ecc` have failed by now, or had an error that
was corrected. -/
def State.perform (s : State) (k : Nat) (ecc : List Nat) (evict : List (Nat × Nat)) : State :=
  match s.arrived[k]? with
  | none => s
  | some r =>
    if s.ready k r then
      let s := evict.foldl (fun s e => s.spillLlc e.1 e.2) (s.fail ecc)
      match s.performReq r with
      | .frozen => { s with arrived := setAt s.arrived k { r with waiting := true } }
      | .more s r => { s with arrived := setAt s.arrived k r }
      | .done s b =>
        let s := s.answered k r b
        let many := match r.watch with
          | some .region => decide (512 < s.readSet r.grp)
          | _ => false
        if many then s.abortTry r.grp abOVERFLOW 0 0 else s
    else s

/-- HOME_PERFORM (R163). (DEDUCED, log 37) -/
def execHomePerform (k : Nat) (ecc : List Nat) (evict : List (Nat × Nat)) (s : State) : Host.Outcome State Fault Refusal :=
  .next (s.perform k ecc evict)

/-! ## Frozen pages and refresh (R238, R242) -/

/-- The page for which a home has refused the request is still frozen. -/
def State.stillFrozen (s : State) (r : Req) : Bool :=
  match r.body with
  | .colander base kind ps => s.skFrozen r.ctx base kind ps
  | _ => s.frz r.ctx r.addr

/-- A write of the group is pending on a page that is still frozen: the group is parked (R123, R242). -/
def State.frozenPark (s : State) (g : Nat) : Bool := s.arrived.any fun r => r.grp == g && r.parks && s.stillFrozen r

/-- A waiting write gives up: its lanes raise FROZEN and perform nothing. Of a word on a Colander region those whose storage is frozen do, and
the others perform (R242, R249). -/
def State.frozenLimit (s : State) (k : Nat) : State :=
  match s.arrived[k]? with
  | none => s
  | some r =>
    if r.waiting && r.parks then
      match r.body with
      | .colander base kind ps =>
        match s.colanderHome r base kind ps true with
        | .done s b => s.answered k r b
        | _ => s
      | _ => s.answered k r (r.refuse Code.FROZEN)
    else s

/-- FROZEN_WRITE_RETRY (R242): the write is re-sent; after 64 retries the lanes raise FROZEN. (DESIGN CHOICE, log 34) -/
def execFrozenWriteRetry (k : Nat) (s : State) : Host.Outcome State Fault Refusal :=
  .next (match s.arrived[k]? with
    | none => s
    | some r =>
      if r.waiting then
        if r.parks && decide (64 ≤ r.retries) then s.frozenLimit k
        else { s with arrived := setAt s.arrived k { r with waiting := false, retries := r.retries + 1 } }
      else s)

/-- FROZEN_LIMIT (R242): 1 ms has passed since the first retry. (DESIGN CHOICE, log 34) -/
def execFrozenLimit (k : Nat) (s : State) : Host.Outcome State Fault Refusal := .next (s.frozenLimit k)

/-- HBM_REFRESH_RETRY (R238): at most three a request; with a hint of 0 it is re-queued at once. -/
def execHbmRefreshRetry (k : Nat) (hint : BitVec 4) (s : State) : Host.Outcome State Fault Refusal :=
  .next (match s.arrived[k]? with
    | none => s
    | some r =>
      if r.bank?.isNone && decide (r.refresh < 3) && !r.requeue then
        { s with arrived := setAt s.arrived k { r with refresh := r.refresh + 1, requeue := hint != 0 } }
      else s)

/-- REFRESH_REQUEUE_TIMER (R238). -/
def execRefreshRequeueTimer (k : Nat) (s : State) : Host.Outcome State Fault Refusal :=
  .next (match s.arrived[k]? with
    | none => s
    | some r => { s with arrived := setAt s.arrived k { r with requeue := false } })

end Sys2Proof.Machine
end

