-- ==== Sys2Proof/Machine/Reads.lean ====
section
/-! DEFINITION. Structures in global memory that a word reads when it issues (a table image, a record, a parameter block,
a descriptor): the checks of LDS and the bytes as the group sees them, its own earlier stores included (R131, R132).
notes/assumptions/8.md. -/

namespace Sys2Proof.Machine

/-- A byte that a store of the group still on its way will write: from the queue, or on its way to an EXPORT page. -/
def State.storedByte (s : State) (g va : Nat) : Option Byte :=
  let ofPieces (ps : List Piece) : Option Byte :=
    (ps.reverse.find? fun p => decide (p.addr ≤ va) && decide (va < p.addr + p.data.length)).map fun p =>
      p.data.getD (va - p.addr) 0
  let ofEntry (e : Entry) : Option Byte :=
    match e.body with
    | .mem .store false ps => ofPieces (byLane ps)
    | _ => none
  let ofReq (r : Req) : Option Byte :=
    match r.body with
    | .write p => if r.grp == g && r.bank?.isNone then ofPieces [p] else none
    | _ => none
  match (s.grp g).queue.reverse.findSome? ofEntry with
  | some b => some b
  | none => (s.arrived ++ s.reqs).reverse.findSome? ofReq

/-- A byte as the group sees it. (DEDUCED, log 8) -/
def State.viewByte (s : State) (g va : Nat) : Byte :=
  match s.storedByte g va with
  | some b => b
  | none => s.seenByte (coreOf g) (s.ctxOf g) va

def State.viewBytes (s : State) (g va : Nat) : Nat → List Byte
  | 0 => []
  | n + 1 => s.viewByte g va :: s.viewBytes g (va + 1) n

/-- Start addresses of the pages and of the lines that `n` bytes from `a` touch. -/
def pageStarts (a n : Nat) : List Nat :=
  if n = 0 then [] else
    a :: (List.range ((a + n - 1) / 262144 - a / 262144)).map fun i => (a / 262144 + i + 1) * 262144

/-- A structure of `n` bytes at `va`, aligned to `al`: the checks of LDS in their order, then the bytes. (DEDUCED, log 8) -/
def State.readAt (s : State) (g va n al : Nat) : Except (Cause × Nat) (List Byte) :=
  let ctx := s.ctxOf g
  let ps := pageStarts va n
  let lines := (List.range ((va + n - 1) / 32 - va / 32 + 1)).map fun i => 32 * (va / 32 + i)
  if !canonical va || !canonical (va + n - 1) then .error (Code.NCADDR, va)
  else if va % al ≠ 0 then .error (Code.ALIGN, va)
  else
    match ps.find? fun a => (s.window ctx a).isNone && !(s.translate ctx a .read).toBool with
    | some a => .error (Code.PFNP, a)
    | none =>
      match ps.find? fun a => (s.window ctx a).isSome with
      | some a => .error (Code.SKADDR, a)
      | none =>
        match lines.findSome? fun a => (s.eccCheck (s.granules ctx a 1)).map fun c => (c, a) with
        | some k => .error k
        | none => .ok (s.viewBytes g va n)

/-- Such a read touches the windows of the lines that the group's L1 does not hold (R233). -/
def State.seenAt (s : State) (g va n : Nat) : State :=
  let ctx := s.ctxOf g
  ((List.range ((va + n - 1) / 128 - va / 128 + 1)).map (va / 128 + ·)).foldl (fun s l =>
    if ((s.core (coreOf g)).hitBytes ctx (128 * l) 128).isSome then s else s.touchRead ctx (128 * l) 128) s

/-- The word parks until firmware has looked at the page (R229): then it issues again. `arg` says whether its bundle is marked, `arg2` is
the word. (DEDUCED, log 36) -/
def State.parkRead (s : State) (c : Cursor) (va : Nat) : State :=
  match s.issued with
  | [] => s
  | i :: _ =>
    match i.words[(c.pos - i.pos).toNat]? with
    | none => s
    | some d =>
      let p : Park :=
        { why := .service va, word := d.instr, pos := c.pos, lanes := c.lanes, serial := c.serial, repi := c.repi
          arg := if i.marked then 1 else 0, arg2 := d.raw }
      s.modGrp c.grp fun x => x.setSlot c.slotB { x.slot c.slotB with park := some p }

/-- The class E cause of such a read, raised at the word (R107, R108); a page that is not present is first offered to firmware (R229).
(DEDUCED, log 8) -/
def State.raiseRead (s : State) (c : Cursor) (opc : BitVec 6) (k : Cause × Nat) : State :=
  if k.1 = Code.PFNP && c.declined != some (k.2 / 262144) then s.parkRead c k.2
  else (s.readEcc (s.granules (s.ctxOf c.grp) k.2 1)).raiseBad c opc false [(96, k.1, k.2)] 0

/-- A class E cause with one address in lane 0, as of a scalar memory word. -/
def State.raiseAt (s : State) (c : Cursor) (opc : BitVec 6) (write : Bool) (k : Cause) (va : Nat) : State :=
  s.raiseBad c opc write [(96, k, va)] 0

end Sys2Proof.Machine
end

