-- ==== Sys2Proof/Machine/System.lean ====
section
/-! DEFINITION. System instructions of major 0x3F (R114, R117-R121): NOP, YIELD, EXIT, TRAP, BKPT, MFS, MTS, WIDF and the
returns from a trap RTT, REPLAY, EMRET, ENDG; and how a slot parks inside a word (R123). -/

namespace Sys2Proof.Machine

/-! ## Parking inside a word (R123) -/

/-- The issuing slot parks inside the word at the cursor. `id` numbers the result its destination waits for. -/
def State.park (s : State) (c : Cursor) (why : ParkWhy) (i : Instr) (arg : Word) (id : Nat) : State :=
  let p : Park :=
    { why := why, word := i, pos := c.pos, lanes := c.lanes, arg := arg, id := id, serial := c.serial, repi := c.repi }
  s.modSlot c.grp c.slotB fun x => { x with park := some p }

/-- Changes the park of a slot. -/
def State.modPark (s : State) (g : Nat) (b : Bool) (f : Park → Park) : State :=
  s.modSlot g b fun x => { x with park := x.park.map f }

/-- The bundle's words leave the slot's place to the word itself. -/
def State.fixed (s : State) : State := s.modCursor fun c => { c with gone := true }

/-- Changes every park that the group holds for slot `b`: the slot's own, one kept behind a trap (R103), those that a speculative fence's
checkpoint would bring back (R138). -/
def Group.mapParks (x : Group) (b : Bool) (f : Park → Option Park) : Group :=
  let y (z : Slot) : Slot := { z with park := z.park.bind f, keptPark := z.keptPark.bind f }
  let k (c : Ckpt) : Ckpt := if b then { c with b := y c.b } else { c with a := y c.a }
  let h (z : SpecFence) : SpecFence := { z with ckpt := k z.ckpt }
  { x with spec := x.spec.map h }.setSlot b (y (x.slot b))

/-- The parks that the group holds for slot `b`. -/
def Group.parksOf (x : Group) (b : Bool) : List Park :=
  let own (y : Slot) : List Park := y.park.toList ++ y.keptPark.toList
  own (x.slot b) ++ match x.spec with
    | some f => own (if b then f.ckpt.b else f.ckpt.a)
    | none => []

/-- Every park of slot `b` with property `p` ends, wherever the group holds it, and its destination gets `w`. -/
def Group.wakeWhere (x : Group) (b : Bool) (p : Park → Bool) (w : Word) : Group :=
  ((x.parksOf b).filter p).foldl (fun x q => x.supply1 q.id w) (x.mapParks b fun q => if p q then none else some q)

/-- Ends a slot's park, also in the checkpoint of a pending speculative fence. -/
def Group.unpark (x : Group) (b : Bool) : Group :=
  match (x.slot b).park with
  | none => x
  | some p => x.mapParks b fun q => if q == p then none else some q

def State.unpark (s : State) (g : Nat) (b : Bool) : State := s.modGrp g fun x => x.unpark b

/-- A cause of a word in which the slot is parked, of class E if nothing else is said: the park ends, its destination is not written. -/
def State.raiseParked (s : State) (g : Nat) (b : Bool) (p : Park) (cause : Cause) (cls : Cls := .e) : State :=
  let s := (s.unpark g b).modGrp g fun x => x.supply p.id (fun _ => (0, [])) true
  (s.raise g
    { cause := cause, cls := cls, slotB := b, pos := p.pos, repi := p.repi, resume := ((s.grp g).slot b).pc
      serial := p.serial }).settle g

/-- A class E cause of a word whose entry leaves the issue queue. -/
def State.raiseEntry (s : State) (g : Nat) (e : Entry) (cause : Cause) : State :=
  (s.raise g
    { cause := cause, cls := .e, slotB := e.slotB, pos := e.pos, repi := e.repi, resume := e.resume
      serial := e.serial }).settle g

/-- A parked word ends: its destination, if any, gets a value and the slot goes on. -/
def State.wake (s : State) (g : Nat) (b : Bool) (p : Park) (w : Word) : State :=
  (s.unpark g b).modGrp g fun x => x.supply1 p.id w

/-- The acquire part at a scope (R137, R165). -/
def State.acquireAt (s : State) (g : Nat) (p : Scope) : State :=
  if 2 ≤ scopeNo p then s.acquire (coreOf g) (s.ctxOf g) else s

/-- The parks of a slot with property `p` end, with a value for their destination and the acquire part of their word. -/
def State.wakeParks (s : State) (g : Nat) (b : Bool) (p : Park → Bool) (w : Word) (scope : Scope) : State :=
  if ((s.grp g).parksOf b).any p then (s.modGrp g fun x => x.wakeWhere b p w).acquireAt g scope else s

/-! ## NOP, YIELD, EXIT, TRAP, BKPT (R117-R119) -/

/-- NOP (R117). -/
def execNop (s : State) : Host.Outcome State Fault Refusal := word .nop s fun _ s => s

/-- The round-robin order of a level, pointer first (R122). -/
def Core.order (c : Core) (level : Nat) : List Nat := tgetD c.rr level (List.range 32)

/-- YIELD (R117): the group moves to the position just behind its level's pointer, the last of the order (R122). -/
def execYield (s : State) : Host.Outcome State Fault Refusal :=
  word .yield s fun c s =>
    let core := s.core (coreOf c.grp)
    let level := (s.wg (s.grp c.grp).wg).prio
    let me := c.grp % 32
    let order := (core.order level).filter (fun k => k != me) ++ [me]
    s.setCore (coreOf c.grp) { core with rr := tset core.rr level order }

/-- What becomes of the replays that the handler of slot `b` decided about: REPLAY issues them, the other returns give them up (R172). -/
def Group.closeReplays (x : Group) (b again : Bool) : Group :=
  let mine (y : Replay) : Bool := y.slotB == b && y.stage == .handled
  if again then { x with replays := x.replays.map fun y => if mine y then { y with stage := .due } else y }
  else { x with replays := x.replays.filter fun y => !mine y }

/-- EXIT has ended the last lane of the slot that runs the handler, so that no return can come: the group leaves privileged mode, what the
trap kept for the slot goes with its lanes, and the other slot's held cause is taken next. (DESIGN CHOICE, log 104) -/
def Group.exitHandler (x : Group) : Group :=
  let b := x.privB
  let x := x.closeReplays b false
  ({ x with priv := false, privI := false }.setSlot b
    { x.slot b with pend := none, kept := none, keptPark := none, step := false }).takePending (!b)

/-- EXIT (R118). (DEDUCED, log 13) -/
def execExit (s : State) : Host.Outcome State Fault Refusal :=
  word .exit s fun c s =>
    let x := (s.grp c.grp).slot c.slotB
    let owned := x.owned &&& ~~~c.lanes
    let s := s.setLanes c owned 0
    if owned = 0 then
      let free (x : Group) : Group :=
        let x := (x.setSlot c.slotB (x.slot c.slotB).free).dropActs c.slotB
        if x.priv && c.slotB == x.privB then x.exitHandler else x
      ((s.modGrp c.grp free).fixed).r14 c.grp c.slotB
    else s

/-- TRAP (R119): SWTRAP is raised by the frame of the word, as class I. -/
def execTrap (n : BitVec 7) (s : State) : Host.Outcome State Fault Refusal := word (.trap n) s fun _ s => s

/-- BKPT (R119). -/
def execBkpt (n : BitVec 7) (s : State) : Host.Outcome State Fault Refusal := word (.bkpt n) s fun _ s => s

/-! ## WIDF (R23, R121) -/

/-- Field `k` of a WID. -/
def Header.field (h : Header) (wid : Dword) (k : Nat) : Word :=
  BitVec.ofNat 32 (wid.toNat / 2 ^ h.bits k % 2 ^ (h.widths.getD k 0))

/-- WIDF (R121). -/
def execWidf (d k : BitVec 7) (s : State) : Host.Outcome State Fault Refusal :=
  word (.widf d k) s fun c s =>
    let h := (s.wg (s.grp c.grp).wg).hdr
    if h.widths.length ≤ k.toNat then s.trapE c Code.ILLFLD
    else s.postV c d.toNat (perLane fun i => h.field (s.wid c.grp i) k.toNat)

/-! ## MFS and MTS (R21, R22, R120) -/

/-- A special register of the group kind, as the slot reads it. -/
def State.groupSpr (s : State) (g : Nat) (b : Bool) (n : Nat) : Word :=
  let x := s.grp g
  let core := coreOf g
  match n with
  | 0x00 => x.regs.mode
  | 0x01 => x.regs.fflags
  | 0x02 => x.regs.tshape
  | 0x03 => x.regs.tfn
  | 0x06 => BitVec.ofNat 32 (g % 32)
  | 0x07 => BitVec.ofNat 32 (core % 32)
  | 0x08 => BitVec.ofNat 32 (core / 32 % 25)
  | 0x09 => BitVec.ofNat 32 (core / 800)
  | 0x0A => BitVec.ofNat 32 s.chip
  | 0x0B => BitVec.ofNat 32 s.cycles
  | 0x0C => (x.slot b).cychi
  | 0x20 => x.trapRegs.tcause
  | 0x21 => x.trapRegs.tpc
  | 0x24 => x.trapRegs.tinfo
  | 0x26 => x.trapRegs.trepi
  | 0x27 => x.trapRegs.ttask
  | 0x30 => x.regs.lrep
  | 0x31 => x.regs.allowth
  | 0x32 => BitVec.ofNat 32 (s.wg x.wg).ctx
  | 0x33 => BitVec.ofNat 32 (s.wg x.wg).prio
  | 0x34 => x.regs.mcfg
  | 0x35 => x.regs.audit
  | n => tgetD x.regs.nf (n - 0x10) 0

/-- A special register of the lane kind. -/
def State.laneSpr (s : State) (g n i : Nat) : Word :=
  match n with
  | 0x04 => (s.wid g i).setWidth 32
  | 0x05 => (s.wid g i >>> 32).setWidth 32
  | _ => (s.grp g).regs.seed.getD i 0

/-- MFS (R120); a read of %cyclo also captures the count's high half. -/
def execMfs (d a : BitVec 7) (s : State) : Host.Outcome State Fault Refusal :=
  word (.mfs d a) s fun c s =>
    let g := s.grp c.grp
    let n := a.toNat
    match sprKind n with
    | some .lane => s.postV c d.toNat (perLane fun i => s.laneSpr c.grp n i)
    | some .lanePair => s.postVP c d.toNat fun i => g.trapRegs.faddr.getD i 0
    | some .triple => s.postQ c d.toNat (if n = 0x22 then g.trapRegs.tmask else g.trapRegs.tdone)
    | some .group =>
      let w := s.groupSpr c.grp c.slotB n
      let s := s.postS c d.toNat w
      if n = 0x0B then
        let hi := BitVec.ofNat 32 (s.cycles / 4294967296)
        s.modSlot c.grp c.slotB fun x => { x with cychi := hi }
      else s
    | none => s

/-- Bits of a group register that software writes: reserved bits stay zero (R5). -/
def sprMask (n : Nat) : Word :=
  match n with
  | 0x00 => 0x000007FF
  | 0x01 => 0x0000007F
  | 0x02 => 0x00F1FFFF
  | 0x03 => 0x0000FFFF
  | 0x10 | 0x11 | 0x12 | 0x13 => 0x0003FFFF
  | 0x20 => 0x000001FF
  | 0x26 => 0x0000003F
  | 0x27 => 0xFFFFFF1F
  | 0x31 => 0x000FFFFF
  | 0x34 => 0xFFFEFF00
  | _ => 0xFFFFFFFF

/-- Group registers that MTS changes; the others of the kind are read-only. -/
def sprWritable (n : Nat) : Bool :=
  decide (n ≤ 0x03) || decide (0x10 ≤ n ∧ n ≤ 0x27) || n == 0x30 || n == 0x31 || n == 0x34 || n == 0x35

/-- The value checks of R54 and R68. -/
def sprIllegal (n : Nat) (w : Word) : Bool :=
  match n with
  | 0x00 => w.toNat % 8 == 0 || w.toNat % 8 == 7
  | 0x02 => !Fp.tmShapeOk w
  | _ => false

/-- A result of the cursor's slot for a register of the group. -/
def State.postReg (s : State) (c : Cursor) (r : Reg) (w : Word) : State :=
  s.postR c.grp { slotB := c.slotB, reg := r, mask := 1, vals := [w], how := .set, src := 0 }

/-- The result of MTS %tfn: where it lands, bits written 0 are cleared and bits written 1 stay as they are (R68). -/
def State.postTfn (s : State) (c : Cursor) (w : Word) : State :=
  s.postR c.grp { slotB := c.slotB, reg := .spr 0x03, mask := 1, vals := [w], how := .and, src := 0 }

/-- A result for a register of the lanes. -/
def State.postLanes (s : State) (c : Cursor) (r : Reg) (vals : List Word) : State :=
  s.postR c.grp { slotB := c.slotB, reg := r, mask := c.lanes, vals := vals, how := .set, src := 0 }

/-- MTS (R120). -/
def execMts (d a : BitVec 7) (s : State) : Host.Outcome State Fault Refusal :=
  word (.mts d a) s fun c s =>
    let g := s.grp c.grp
    let n := d.toNat
    let v (k : Nat) : List Word := perLane fun i => g.v (a.toNat + k) i
    match sprKind n with
    | some .lane => if n = 0x0D then s.postLanes c .seed (v 0) else s
    | some .lanePair => (s.postLanes c (.faddr false) (v 0)).postLanes c (.faddr true) (v 1)
    | some .triple =>
      let q := g.q c.slotB a.toNat
      let r (k : Nat) : Reg := if n = 0x22 then .tmask k else .tdone k
      ((s.postReg c (r 0) (member q 0)).postReg c (r 1) (member q 1)).postReg c (r 2) (member q 2)
    | some .group =>
      let w := g.sc c.slotB a.toNat
      if sprIllegal n w then s.trapE c Code.ILLMODE
      else if sprWritable n then
        let w := w &&& sprMask n
        if n = 0x03 then s.postTfn c w else s.postReg c (.spr n) w
      else s
    | none => s

/-! ## Returns from a trap (R114) -/

/-- Matrix operations that the slots of a group have issued and hold parked for room (R205, R214). -/
def Group.parkedOps (x : Group) : List MatOp :=
  ([x.a.park, x.a.keptPark, x.b.park, x.b.keptPark].filterMap id).filterMap Park.mat

/-- Matrix operations that a group has issued and that are unfinished: those in the engine's queue and the parked ones (R205). -/
def State.opsOf (s : State) (g : Nat) : List MatOp :=
  ((s.core (coreOf g)).mq.filter fun o => o.grp == g) ++ (s.grp g).parkedOps

/-- Parked operations of a core's groups. -/
def State.parkedOn (s : State) (core : Nat) : List MatOp :=
  (List.range 32).flatMap fun k => (s.grp (32 * core + k)).parkedOps

/-- Operations of a group on the matrix streams of a mask are unfinished, from their issue to their completion (R205). -/
def State.streamBusy (s : State) (g streams : Nat) : Bool := (s.opsOf g).any fun o => streams.testBit o.stream

/-- Iterations of a REP of the slot are still to issue: those of a bundle that issues now, and those of one before. -/
def State.repLeft (s : State) (g : Nat) (b : Bool) : Bool :=
  !((s.grp g).slot b).repDone || s.issued.any fun i => i.grp == g && i.slotB == b && !i.later.isEmpty

/-- The wait of a return is over: as after a marked bundle, and stream 7 has no operation left (R113, R114). -/
def State.returnReady (s : State) (g : Nat) : Bool :=
  (s.grp g).out.isEmpty && !s.repLeft g (s.grp g).privB && !s.streamBusy g 128

/-- The full word index of the word that %tpc names (R106). -/
def State.trapPos (s : State) (g : Nat) : Nat :=
  (s.wg (s.grp g).wg).hdr.entry.toNat / 4294967296 * 4294967296 + (s.grp g).trapRegs.tpc.toNat

/-- A code word, all zero where it cannot be fetched now. -/
def State.codeWord (s : State) (g i : Nat) : Nat :=
  match s.fetchWord (s.ctxOf g) i with
  | .ok w => w.toNat
  | .error _ => 0

/-- Start of the bundle after the one holding word `i` (R28). -/
def State.bundleAfter (s : State) (g i : Nat) : Nat :=
  let chained (k : Nat) : Bool := k % 3 != 2 && fld (s.codeWord g k) 31 1 == 1
  if chained i then if chained (i + 1) then i + 3 else i + 2 else i + 1

/-- A word of a REPLAY. SKMERGE and SKFOLD act for the group as a whole: one that has been performed, and reported SKSAT, is not
performed again (R114, R252). (DEDUCED, log 19) -/
def wordAgain (d : DWord) (done : Mask) : DWord :=
  let whole := match d.instr with
    | .skmerge _ _ => true | .skfold _ _ => true
    | _ => false
  if whole && done != 0 then { d with instr := .nop, raw := 0x3F000000 } else d

/-- What REPLAY reissues (R114): the word at %tpc with its prefix, on the lanes of ACT that have not performed, from
iteration %trepi on. (DEDUCED, log 19) -/
def State.replayIssue (s : State) (g : Nat) (b : Bool) (act : Mask) (resume : Dword) : Option Issue :=
  let x := s.grp g
  let p := s.trapPos g
  let pre := if p % 3 = 0 then none else rawWord (s.codeWord g (p - 1))
  let done := x.trapRegs.tdone
  let base : Issue :=
    { grp := g, slotB := b, pos := BitVec.ofNat 64 p, words := [], next := resume, marked := true, serial := 0
      lanes := act &&& ~~~done, done := done, replay := true }
  match rawWord (s.codeWord g p) with
  | none => none
  | some w =>
    match pre with
    | some ⟨true, _, .lit v, raw⟩ =>
      some { base with words := [⟨true, false, .lit v, raw⟩, wordAgain w done], pos := BitVec.ofNat 64 (p - 1) }
    | some ⟨true, _, .rep n d a b t, _⟩ =>
      let all := w :: repLater n d a b t w
      let k := x.trapRegs.trepi.toNat
      match all.drop k with
      | [] => none
      | w :: rest => some { base with words := [wordAgain w done], later := rest, repi := k, repPos := BitVec.ofNat 64 p }
    | _ => some { base with words := [wordAgain w done] }

/-- The steps of R14 at no word's place. -/
def State.r14Alone (s : State) (g : Nat) (b : Bool) : State := { { s with cursor := none }.r14 g b with cursor := s.cursor }

/-- What follows the restored save area: a slot without lanes is FREE; the held cause of a slot, its own first, is delivered before the
slot issues; without one, the steps of R14 that the trap has held up are done. (DEDUCED, log 18; DEDUCED, log 19) -/
def State.afterReturn (s : State) (g : Nat) (b : Bool) : State :=
  let s := if ((s.grp g).slot b).owned = 0 then (s.modSlot g b Slot.free).modGrp g fun x => x.dropActs b else s
  ((s.modGrp g fun x => x.takePending b).r14Alone g b).settle g

/-- RTT, REPLAY, EMRET and ENDG once their wait is over. Whether the trap is of class I is what it was when it was taken, whatever the
handler has written to %tcause. (DEDUCED, log 19; DESIGN CHOICE, log 98) -/
def State.doReturn (s : State) (g : Nat) (b : Bool) (i : Instr) : State :=
  let x := s.grp g
  let bs := s.viewBytes g (s.saveAddr g) 3136
  let resume := imageResume bs
  let back (s : State) (pc : Dword) : State :=
    if s.highOk g pc then (s.modGrp g fun y => (y.closeReplays b (i == .replay)).leave bs pc).afterReturn g b
    else
      s.raise g { cause := Code.ILLTGT, cls := .e, slotB := b, pos := (x.slot b).pc, resume := (x.slot b).pc }
  match i with
  | .rtt t => back (if t = 1 then s.modSlot g b fun y => { y with step := true } else s) resume
  | .replay =>
    if x.privI then back s resume
    else
      let again := s.replayIssue g b (imageAct bs &&& (x.slot b).owned) resume
      back (s.modSlot g b fun y => { y with kept := again }) resume
  | .emret => back s (if x.privI then BitVec.ofNat 64 (s.bundleAfter g (s.trapPos g)) else resume)
  | .endg r =>
    let t := x.trapRegs
    let s := if r = 1 then
        s.errRecord (s.ctxOf g) 3 (t.tcause.setWidth 7) (s.wg x.wg).base t.tpc t.ttask t.tinfo
      else s
    s.modGrp g fun y =>
      { y with a := y.a.stop, b := y.b.stop, dsp := 0, priv := false, trap := none, spec := none, sync := false, replays := [] }
  | _ => s

/-- A return: at once if its wait is over, else the slot parks until it is. -/
def State.returnWord (s : State) (c : Cursor) (i : Instr) : State :=
  if s.returnReady c.grp then (s.doReturn c.grp c.slotB i).fixed
  else (s.park c .returnWait i 0 0).fixed

/-- RTT (R114). (DEDUCED, log 20) -/
def execRtt (t : BitVec 1) (s : State) : Host.Outcome State Fault Refusal :=
  word (.rtt t) s fun c s => s.returnWord c (.rtt t)

/-- REPLAY (R114). (DEDUCED, log 19) -/
def execReplay (s : State) : Host.Outcome State Fault Refusal := word .replay s fun c s => s.returnWord c .replay

/-- EMRET (R114). -/
def execEmret (s : State) : Host.Outcome State Fault Refusal := word .emret s fun c s => s.returnWord c .emret

/-- ENDG (R114). -/
def execEndg (r : BitVec 1) (s : State) : Host.Outcome State Fault Refusal :=
  word (.endg r) s fun c s => s.returnWord c (.endg r)

end Sys2Proof.Machine
end

