-- ==== Sys2Proof/Machine/Barriers.lean ====
section
/-! DEFINITION. Named barriers (R139, R140, R198): their state as words read it, handles, arrivals, bound bytes,
completion of a phase; BARARV, BARWT, BARAW, BARINIT, BARST, BAREXP. -/

namespace Sys2Proof.Machine

/-! ## Handles (R140, R198) -/

/-- A barrier of a cluster. -/
def Cluster.bar (c : Cluster) (b : Nat) : Barrier := tgetD c.bars b {}

def Cluster.setBar (c : Cluster) (b : Nat) (x : Barrier) : Cluster := { c with bars := tset c.bars b x }

def State.setBar (s : State) (cl b : Nat) (x : Barrier) : State := s.setCluster cl ((s.cluster cl).setBar b x)

/-- The cluster's barrier is held by a work-group of the context. -/
def State.barHeld (s : State) (ctx cl b : Nat) : Bool :=
  match ((s.cluster cl).bar b).holder with
  | some w => (s.wg w).ctx == ctx
  | none => false

/-- The cluster barrier that a handle of a work-group names, none where the handle is refused. -/
def State.barNo (s : State) (w : Wg) (h : Nat) : Option Nat :=
  if 32 ≤ h then none
  else if h < 16 then if h < w.hdr.bars then some (w.bb + h) else none
  else if s.barHeld w.ctx (clusterOf w.core) (h - 16) then some (h - 16)
  else none

/-! ## Phases (R139) -/

/-- Bits 0 and 1 of the status that a wait writes. -/
def Barrier.status (x : Barrier) : Word := BitVec.ofNat 32 (x.ph.toNat + 2 * x.lflt.toNat)

/-- Bits 31:0 as BARST reads them. -/
def Barrier.low (x : Barrier) : Word :=
  BitVec.ofNat 32 (x.ph.toNat * 2147483648 + x.lflt.toNat * 1073741824 + x.cflt.toNat * 536870912 + x.arr % 2048 * 65536 +
    x.expa % 2048)

/-- A group parked on the barrier whose arrival, if its word makes one, has been counted. -/
def Park.onBar (p : Park) (b : Nat) : Bool := p.why == ParkWhy.barrier b && p.arg == 0

/-- The scope of a wake's acquire: the widest among the phase's bound cards, else core for global memory (R139, R170). -/
def wakeScope (w : Option Scope) : Scope := w.getD .core

/-- One slot parked on the barrier wakes with a status, be its park kept behind a trap or in a fence's checkpoint. -/
def State.wakeBar (s : State) (b : Nat) (status : Word) (scope : Scope) (g : Nat) (x : Bool) : State :=
  s.wakeParks g x (fun p => p.onBar b) status scope

/-- Every slot parked on barrier `b` of a cluster wakes. -/
def State.wakeBars (s : State) (cl b : Nat) (status : Word) (scope : Scope) : State :=
  let gs := (s.groups.map Prod.fst).filter fun g => clusterOf (coreOf g) == cl
  gs.foldl (fun s g => (s.wakeBar b status scope g false).wakeBar b status scope g true) s

/-- The phase completes. -/
def Barrier.turn (x : Barrier) : Barrier :=
  { x with ph := !x.ph, lflt := x.cflt, cflt := false, arr := 0, wide := none, last := x.wide }

/-- Completes the phase of barrier `b` where ARR = EXPA and TX = 0. -/
def State.checkBar (s : State) (cl b : Nat) : State :=
  let x := (s.cluster cl).bar b
  if x.arr = x.expa ∧ x.tx = 0 then
    let y := x.turn
    (s.setBar cl b y).wakeBars cl b y.status (wakeScope y.last)
  else s

/-- An arrival, none where it overflows. -/
def State.arriveBar (s : State) (cl b : Nat) : Option State :=
  let x := (s.cluster cl).bar b
  if x.arr = x.expa ∧ x.tx ≠ 0 then none
  else some ((s.setBar cl b { x with arr := x.arr + 1 }).checkBar cl b)

/-- The wider of two scopes. -/
def widerScope (a : Option Scope) (p : Scope) : Scope :=
  match a with
  | none => p
  | some q => if scopeNo q < scopeNo p then p else q

/-- A bound card delivers `n` bytes, or is charged with them where it faults. -/
def State.boundBytes (s : State) (cl b n : Nat) (fault : Bool) (scope : Scope) : State :=
  let x := (s.cluster cl).bar b
  (s.setBar cl b
    { x with tx := x.tx - BitVec.ofNat 32 n, cflt := x.cflt || fault, wide := some (widerScope x.wide scope) }).checkBar cl b

/-! ## An arrival leaves the issue queue -/

/-- The arrival of BARARV or BARAW once the release of the group's earlier accesses is complete. -/
def State.leaveArrive (s : State) (g : Nat) (e : Entry) (cl b : Nat) (wait : Bool) : State :=
  let ph := ((s.cluster cl).bar b).ph
  let mine (p : Park) : Bool := p.id == e.id
  if wait then
    let clear (p : Park) : Park := if mine p then { p with arg := 0 } else p
    let t := s.modGrp g fun x => x.mapParks e.slotB fun p => some (clear p)
    match t.arriveBar cl b with
    | some t => t
    | none =>
      let drop (p : Park) : Option Park := if mine p then none else some p
      (s.modGrp g fun x => (x.mapParks e.slotB drop).supply e.id (fun _ => (0, [])) true).raiseEntry g e Code.BAROVF
  else
    match s.arriveBar cl b with
    | some t => t.modGrp g fun x => x.supply1 e.id (BitVec.ofNat 32 ph.toNat)
    | none => (s.modGrp g fun x => x.supply e.id (fun _ => (0, [])) true).raiseEntry g e Code.BAROVF

/-! ## The words (R140) -/

/-- The barrier that a word's handle names, or BARBUD. -/
def State.withBar (s : State) (c : Cursor) (a : BitVec 7) (f : Nat → Nat → State) : State :=
  match s.barNo (s.wg (s.grp c.grp).wg) ((s.grp c.grp).sc c.slotB a.toNat).toNat with
  | none => s.trapE c Code.BARBUD
  | some b => f (clusterOf (coreOf c.grp)) b

/-- Opcode of the barrier words, for entries of the issue queue. -/
def opBar : BitVec 6 := 0x38

/-- BARARV (R140). -/
def execBararv (d a : BitVec 7) (s : State) : Host.Outcome State Fault Refusal :=
  word (.bararv d a) s fun c s => s.withBar c a fun cl b =>
    let (id, s) := s.fresh
    (s.postWait c (sreg d.toNat) 1 id).enqueue c id opBar (.arrive cl b false) [] 0

/-- BARWT (R140). -/
def execBarwt (d a b : BitVec 7) (s : State) : Host.Outcome State Fault Refusal :=
  word (.barwt d a b) s fun c s => s.withBar c a fun cl k =>
    let x := (s.cluster cl).bar k
    if x.ph.toNat = ((s.grp c.grp).sc c.slotB b.toNat).toNat % 2 then
      let (id, s) := s.fresh
      (s.postWait c (sreg d.toNat) 1 id).park c (.barrier k) (.barwt d a b) 0 id
    else (s.postS c d.toNat x.status).acquireAt c.grp (wakeScope x.last)

/-- BARAW (R140). -/
def execBaraw (d a : BitVec 7) (s : State) : Host.Outcome State Fault Refusal :=
  word (.baraw d a) s fun c s => s.withBar c a fun cl b =>
    let (id, s) := s.fresh
    ((s.postWait c (sreg d.toNat) 1 id).enqueue c id opBar (.arrive cl b true) [] 0).park c (.barrier b) (.baraw d a) 1 id

/-- BARINIT (R140). -/
def execBarinit (a b : BitVec 7) (s : State) : Host.Outcome State Fault Refusal :=
  word (.barinit a b) s fun c s => s.withBar c a fun cl k =>
    let n := ((s.grp c.grp).sc c.slotB b.toNat).toNat
    if n = 0 ∨ 1024 < n then s.trapE c Code.BAROVF
    else
      let y : Barrier := { expa := n, holder := ((s.cluster cl).bar k).holder }
      (s.setBar cl k y).wakeBars cl k 4 .core

/-- BARST (R140). -/
def execBarst (d a : BitVec 7) (s : State) : Host.Outcome State Fault Refusal :=
  word (.barst d a) s fun c s => s.withBar c a fun cl b =>
    let x := (s.cluster cl).bar b
    s.postSP c d.toNat (x.tx ++ x.low : BitVec 64)

/-- BAREXP (R140). -/
def execBarexp (a b : BitVec 7) (s : State) : Host.Outcome State Fault Refusal :=
  word (.barexp a b) s fun c s => s.withBar c a fun cl k =>
    let x := (s.cluster cl).bar k
    let t := x.tx.toInt + ((s.grp c.grp).sc c.slotB b.toNat).toInt
    if t < -2147483648 ∨ 2147483647 < t then s.trapE c Code.BAROVF
    else (s.setBar cl k { x with tx := BitVec.ofInt 32 t }).checkBar cl k

end Sys2Proof.Machine
end

