-- ==== Sys2Proof/Machine/Rings.lean ====
section
/-! DEFINITION. Rings (R180-R184): their state, the slots taken and given by groups and by engine cards; RGINIT, RGACQ,
RGPUB, RGWAIT, RGREL, RGSTAT and the end of their parks. -/

namespace Sys2Proof.Machine

/-! ## Ring state (R180) -/

def Cluster.ring (c : Cluster) (r : Nat) : Ring := tgetD c.rings r {}

def State.setRing (s : State) (cl r : Nat) (x : Ring) : State :=
  let c := s.cluster cl
  s.setCluster cl { c with rings := tset c.rings r x }

def State.ring (s : State) (cl r : Nat) : Ring := (s.cluster cl).ring r

def Ring.ready (x : Ring) : Nat := (x.ppub - x.cres).toNat
def Ring.room (x : Ring) : Int := (2 ^ x.lcnt : Nat) - ((x.pres - x.crel).toNat : Int)

/-- Slots reserved and not published; slots taken and not released. -/
def Ring.openP (x : Ring) : Nat := (x.pres - x.ppub).toNat
def Ring.openC (x : Ring) : Nat := (x.cres - x.crel).toNat

/-- Slot size in bytes. -/
def Ring.size (x : Ring) : Nat := 16 * x.ssz

/-- Cluster address of a slot. -/
def Ring.slot (x : Ring) (k : Nat) : Nat := 16 * x.base + k % 2 ^ x.lcnt * x.size

/-! ## Taking and giving slots (R182, R184) -/

/-- A producer may take `n` slots. -/
def Ring.canAcq (x : Ring) (n : Nat) : Bool := x.v && decide ((n : Int) ≤ x.room) && decide (x.openP + n ≤ 64)

/-- A consumer may take `n` slots. -/
def Ring.canWait (x : Ring) (n : Nat) : Bool := x.v && decide (n ≤ x.ready) && decide (x.openC + n ≤ 64)

/-- Marks at the head that are contiguous, at most 64. -/
def runLen : Nat → BitVec 64 → Nat
  | 0, _ => 0
  | n + 1, m => if m.getLsbD 0 then 1 + runLen n (m >>> 1) else 0

/-- Marks slots `k` to `k + n - 1` over `head` with `busy` slots open: the new head and marks, none where the slots are
not all open or one is marked. -/
def markSlots (head : BitVec 16) (busy : Nat) (marks : BitVec 64) (k : BitVec 16) (n : Nat) :
    Option (BitVec 16 × BitVec 64) :=
  let off := (k - head).toNat
  let new : BitVec 64 := BitVec.ofNat 64 ((2 ^ n - 1) * 2 ^ off)
  if busy < off + n ∨ marks &&& new ≠ 0 then none
  else
    let m := marks ||| new
    let adv := runLen 64 m
    some (head + BitVec.ofNat 16 adv, m >>> adv)

/-- RGPUB of `n` slots from `k`. -/
def Ring.publish (x : Ring) (k : BitVec 16) (n : Nat) : Option Ring :=
  (markSlots x.ppub x.openP x.markP k n).map fun r => { x with ppub := r.1, markP := r.2 }

/-- RGREL of `n` slots from `k`. -/
def Ring.release (x : Ring) (k : BitVec 16) (n : Nat) : Option Ring :=
  (markSlots x.crel x.openC x.markC k n).map fun r => { x with crel := r.1, markC := r.2 }

/-- A ring that R182 refuses to a context: it is bound to another one. -/
def Ring.foreign (x : Ring) (ctx : Nat) : Bool := x.v && x.ctx != ctx

/-- RGPUB or RGREL leaves the issue queue: the group's earlier accesses are released (R183), and the operation is performed at the ring
table on the ring as it stands, bound or not: slots that the owner left open are marked (R182). (DEDUCED, log 58) -/
def State.leavePublish (s : State) (g : Nat) (e : Entry) (cl r : Nat) (rel : Bool) (k : BitVec 16) (n : Nat) : State :=
  let x := s.ring cl r
  if x.foreign (s.ctxOf g) then s.raiseEntry g e Code.RINGBAD
  else
    match (if rel then x.release k n else x.publish k n) with
    | some y => s.setRing cl r y
    | none => s.raiseEntry g e Code.RINGOVR

/-! ## RGINIT -/

/-- RGINIT with a size on a ring that is not bound: RINGBAD or the bound ring. -/
def State.bindRing (s : State) (g r : Nat) (off cfg : Word) : Option State :=
  let x := s.grp g
  let w := s.wg x.wg
  let lc := fld cfg.toNat 8 4
  let sz := 16 * fld cfg.toNat 0 8
  if off.toNat % 16 ≠ 0 ∨ w.hdr.spad < off.toNat + sz * 2 ^ lc then none
  else
    let y : Ring :=
      { lcnt := lc, ssz := fld cfg.toNat 0 8, base := (coreOf g % 32 * 262144 + w.spb + off.toNat) / 16, v := true
        ctx := w.ctx, owner := x.wg }
    some (s.setRing (clusterOf (coreOf g)) r y)

/-- RGINIT (R182): done, refused, or to wait. -/
def State.rginit (s : State) (g r : Nat) (off cfg : Word) : Except Bool State :=
  let cl := clusterOf (coreOf g)
  let x := s.ring cl r
  let me := (s.grp g).wg
  if cfg.toNat / 4096 ≠ 0 ∨ 12 < fld cfg.toNat 8 4 then .error true
  else if fld cfg.toNat 0 8 = 0 then
    if !x.v || x.owner != me || x.pres != x.ppub || x.pres != x.cres || x.pres != x.crel then .error true
    else .ok (s.setRing cl r { x with v := false })
  else if x.v && (x.ctx != s.ctxOf g || x.owner == me) then .error true
  else if x.v then .error false
  else
    match s.bindRing g r off cfg with
    | some t => .ok t
    | none => .error true

/-! ## The words -/

def opRing : BitVec 6 := 0x39

/-- The scope of the acquire of RGACQ and RGWAIT: core for global memory, wider where cards have moved the ring (R170,
R183). -/
def Ring.scope (x : Ring) : Scope := x.wide.getD .core

/-- RGINIT (R182). -/
def execRginit (a b : BitVec 7) (s : State) : Host.Outcome State Fault Refusal :=
  word (.rginit a b) s fun c s =>
    let g := s.grp c.grp
    let r := (g.sc c.slotB a.toNat).toNat
    let off := g.s c.slotB b.toNat
    let cfg := g.s c.slotB (b.toNat + 1)
    if 15 < r then s.trapE c Code.RINGBAD
    else
      match s.rginit c.grp r off cfg with
      | .ok t => t
      | .error true => s.trapE c Code.RINGBAD
      | .error false =>
        (s.park c (.ring r) (.rginit a b) off 0).modPark c.grp c.slotB fun p => { p with arg2 := cfg }

/-- Taking `n` slots, as a producer or as a consumer: the sequence number and slot 0's address with the new state. -/
def State.takeSlots (s : State) (cl r : Nat) (prod : Bool) (n : Nat) : Option (BitVec 16 × Nat × State) :=
  let x := s.ring cl r
  if prod then
    if x.canAcq n then some (x.pres, x.slot x.pres.toNat, s.setRing cl r { x with pres := x.pres + BitVec.ofNat 16 n })
    else none
  else
    if x.canWait n then some (x.cres, x.slot x.cres.toNat, s.setRing cl r { x with cres := x.cres + BitVec.ofNat 16 n })
    else none

/-- RGACQ and RGWAIT (R182): the pair, or a park until the slots are there. -/
def takeWord (i : Instr) (prod : Bool) (d a b : BitVec 7) (c : Cursor) (s : State) : State :=
  let g := s.grp c.grp
  let r := (g.sc c.slotB a.toNat).toNat
  let n := (g.sc c.slotB b.toNat).toNat
  let cl := clusterOf (coreOf c.grp)
  if 15 < r ∨ n = 0 ∨ 64 < n then s.trapE c Code.RINGBAD
  else if (s.ring cl r).foreign (s.ctxOf c.grp) then s.trapE c Code.RINGBAD
  else
    match s.takeSlots cl r prod n with
    | some (k, adr, t) =>
      (t.postSP c d.toNat (BitVec.ofNat 32 adr ++ k.setWidth 32 : BitVec 64)).acquireAt c.grp (s.ring cl r).scope
    | none =>
      let (id, s) := s.fresh
      ((s.postWait c (sreg d.toNat) 1 id).postWait c (sreg (d.toNat + 1)) 1 id).park c (.ring r) i (BitVec.ofNat 32 n) id

/-- RGACQ (R182). -/
def execRgacq (d a b : BitVec 7) (s : State) : Host.Outcome State Fault Refusal :=
  word (.rgacq d a b) s (takeWord (.rgacq d a b) true d a b)

/-- RGWAIT (R182). -/
def execRgwait (d a b : BitVec 7) (s : State) : Host.Outcome State Fault Refusal :=
  word (.rgwait d a b) s (takeWord (.rgwait d a b) false d a b)

/-- RGPUB and RGREL (R182): they enter the issue queue as a release. -/
def publishWord (rel : Bool) (d a b : BitVec 7) (c : Cursor) (s : State) : State :=
  let g := s.grp c.grp
  let r := (g.sc c.slotB a.toNat).toNat
  let cl := clusterOf (coreOf c.grp)
  if 15 < r then s.trapE c Code.RINGBAD
  else if (s.ring cl r).foreign (s.ctxOf c.grp) then s.trapE c Code.RINGBAD
  else
    let (id, s) := s.fresh
    s.enqueue c id opRing (.publish cl r rel ((g.sc c.slotB b.toNat).setWidth 16) d.toNat) [] 0

/-- RGPUB (R182). -/
def execRgpub (d a b : BitVec 7) (s : State) : Host.Outcome State Fault Refusal :=
  word (.rgpub d a b) s (publishWord false d a b)

/-- RGREL (R182). -/
def execRgrel (d a b : BitVec 7) (s : State) : Host.Outcome State Fault Refusal :=
  word (.rgrel d a b) s (publishWord true d a b)

/-- Words 2 and 3 of RGSTAT. -/
def Ring.word2 (x : Ring) : Word := (x.ppub ++ x.pres : BitVec 32)
def Ring.word3 (x : Ring) : Word := (x.crel ++ x.cres : BitVec 32)

/-- RGSTAT (R182). -/
def execRgstat (d a : BitVec 7) (s : State) : Host.Outcome State Fault Refusal :=
  word (.rgstat d a) s fun c s =>
    let r := ((s.grp c.grp).sc c.slotB a.toNat).toNat
    if 15 < r then s.trapE c Code.RINGBAD
    else
      let x := s.ring (clusterOf (coreOf c.grp)) r
      let on := x.v && x.ctx == s.ctxOf c.grp
      let w (y : Word) : Word := if on then y else 0
      (((s.postS c d.toNat (w (BitVec.ofNat 32 x.ready))).postS c (d.toNat + 1) (w (BitVec.ofInt 32 x.room))).postS c
        (d.toNat + 2) (w x.word2)).postS c (d.toNat + 3) (w x.word3)

/-! ## The end of a park on a ring -/

/-- The destination pair of a word parked on a ring. -/
def pairOf (d : Nat) (k : BitVec 16) (adr : Nat) (r : Reg) : Mask × List Word :=
  if r = sreg d then (1, [k.setWidth 32]) else (1, [BitVec.ofNat 32 adr])

/-- A slot parked on a ring goes on if its condition holds now. -/
def State.wakeRing (s : State) (g : Nat) (b : Bool) : State :=
  let cl := clusterOf (coreOf g)
  match ((s.grp g).slot b).park with
  | none => s
  | some p =>
    let take (d : Nat) (r : Nat) (prod : Bool) : State :=
      if (s.ring cl r).foreign (s.ctxOf g) then s.raiseParked g b p Code.RINGBAD
      else
      match s.takeSlots cl r prod p.arg.toNat with
      | some (k, adr, t) =>
        ((t.unpark g b).modGrp g fun x => x.supply p.id (pairOf d k adr) true).acquireAt g (s.ring cl r).scope
      | none => s
    match p.why, p.word with
    | .ring r, .rgacq d _ _ => take d.toNat r true
    | .ring r, .rgwait d _ _ => take d.toNat r false
    | .ring r, .rginit _ _ =>
      match s.rginit g r p.arg p.arg2 with
      | .ok t => t.unpark g b
      | .error true => s.raiseParked g b p Code.RINGBAD
      | .error false => s
    | _, _ => s

/-- RING_PARK_RESUME (R182). -/
def execRingParkResume (grp : Nat) (slotB : Bool) (s : State) : Host.Outcome State Fault Refusal :=
  .next (s.wakeRing grp slotB)

end Sys2Proof.Machine
end

