-- ==== Sys2Proof/Machine/Cards.lean ====
section
/-! DEFINITION. Job cards: their fields (R186-R189, R307, R308), the checks made at issue (R189, R195, R306, R325), the
bytes they count (R189, R306), their footprints and scopes (R167, R192), and their packets (R300). -/

namespace Sys2Proof.Machine

/-! ## Fields -/

/-- Word `i` of a card. -/
def Card.w (c : Card) (i : Nat) : Nat := (c.words.getD i 0).toNat

/-- Words `i` and `i + 1` as an address. -/
def Card.adr (c : Card) (i : Nat) : Nat := c.w i + 4294967296 * c.w (i + 1)

/-- Word 4 as length or shape. -/
def Card.len (c : Card) : Nat := c.w 4

def Card.rout (c : Card) : Bool := fld (c.w 5) 29 1 == 1
def Card.rin (c : Card) : Bool := fld (c.w 5) 28 1 == 1
def Card.oring (c : Card) : Nat := fld (c.w 5) 24 4
def Card.iring (c : Card) : Nat := fld (c.w 5) 20 4
def Card.dsp (c : Card) : Nat := fld (c.w 5) 18 2
def Card.ssp (c : Card) : Nat := fld (c.w 5) 16 2
def Card.quantise (c : Card) : Bool := fld (c.w 5) 9 1 == 1
def Card.int8 (c : Card) : Bool := fld (c.w 5) 8 1 == 1

/-- Completion: KIND, TGT, INC (R188). -/
def complKind (w : Nat) : Nat := fld w 30 2
def complTgt (w : Nat) : Nat := fld w 16 8
def complInc (w : Nat) : Nat := fld w 0 16

/-- Fields of a remote card (R307). -/
def Card.tc (c : Card) : Option Nat := if fld (c.w 5) 29 1 = 1 then some (fld (c.w 5) 21 8) else none
def Card.landing (c : Card) : Bool := fld (c.w 5) 20 1 == 1
def Card.lsp (c : Card) : Nat := fld (c.w 5) 18 2
def Card.op (c : Card) : Nat := fld (c.w 5) 14 4

/-- The card is a remote command. -/
def CardKind.remote (k : CardKind) : Bool :=
  match k with
  | .cpy => false | .cpy2 => false | .cpyt => false | .cpyg => false | .cpys => false
  | _ => true

/-- The card names an MCR group. -/
def CardKind.mcr (k : CardKind) : Bool :=
  match k with
  | .xmlr => true | .xmst => true
  | _ => false

/-- Rows and row bytes or columns of word 4. -/
def Card.rows (c : Card) : Nat := fld (c.w 4) 16 16
def Card.cols (c : Card) : Nat := fld (c.w 4) 0 16

/-- Count and element size of CPYG and CPYS (R189). -/
def Card.count (c : Card) : Nat := c.w 4 / 8
def Card.elem (c : Card) : Nat := 2 ^ fld (c.w 4) 0 3

/-- Columns of a canonical tile (R66). -/
def Card.tileW (c : Card) : Nat := if c.int8 then 64 else 32
def Card.tiles (c : Card) : Nat := c.rows / 32 * (c.cols / c.tileW)

/-- Bytes read at each member for one element, and bytes of a result element (R327). -/
def mixRead (op : Nat) : Nat := match op with | 1 => 2 | 5 => 8 | 6 => 16 | _ => 4
def mixResult (op : Nat) : Nat := match op with | 5 => 8 | 6 => 16 | _ => 4

/-- Local bytes of a remote card. -/
def Card.localLen (c : Card) : Nat :=
  match c.kind with
  | .xatom => 32
  | .xmlr => c.len / mixRead c.op * mixResult c.op
  | _ => c.len

/-- Bytes that a card adds to PW (R189, R306). -/
def Card.bytes (c : Card) : Nat :=
  match c.kind with
  | .cpy => c.len
  | .cpy2 => c.rows * c.cols
  | .cpyt => c.tiles * 2064
  | .cpyg => c.count * c.elem
  | .cpys => c.count * c.elem
  | .xatom => 8
  | .xmlr => c.localLen
  | _ => c.len

/-- Word index of the local side and of the remote side. -/
def CardKind.localAt (k : CardKind) : Nat :=
  match k with
  | .xrd => 2 | .xmlr => 2
  | _ => 0

def CardKind.remoteAt (k : CardKind) : Nat := 2 - k.localAt

/-! ## The local sides (R177, R186, R247) -/

/-- A global range touches a defined Colander window. (DEDUCED, log 57) -/
def State.touchesWindow (s : State) (ctx va n : Nat) : Bool :=
  n != 0 && (s.ctx ctx).regions.any fun r => decide (va < r.1 + 34359738368) && decide (r.1 < va + n)

/-- Owner core of a cluster address in cluster `cl`, and its scratchpad offset. -/
def ownerIn (cl a : Nat) : Nat := 32 * cl + a / 262144

/-- Every byte of a cluster range is held, core after core. -/
def State.clusterRun (s : State) (ctx cl : Nat) : Nat → Nat → Nat → Bool
  | 0, _, n => n == 0
  | fuel + 1, a, n =>
    let k := min n (262144 - a % 262144)
    n == 0 || (decide (a < 8388608) && s.spadRange ctx (ownerIn cl a) (a % 262144) k && s.clusterRun ctx cl fuel (a + k) (n - k))

/-- Every byte of a cluster range lies in an allocation of the context (R177). -/
def State.clusterRange (s : State) (ctx cl a n : Nat) : Bool := decide (a < 8388608) && s.clusterRun ctx cl 33 a n

/-- Pieces of a range that lie in one line each: (offset, length). -/
def linePieces : Nat → Nat → Nat → Nat → List (Nat × Nat)
  | 0, _, _, _ => []
  | fuel + 1, a, off, n =>
    if n = 0 then []
    else
      let k := min n (128 - a % 128)
      (off, k) :: linePieces fuel (a + k) (off + k) (n - k)

/-- Bytes of a cluster range, core after core. -/
def State.clusterBytes (s : State) (cl a n : Nat) : List Byte :=
  (linePieces (n / 128 + 2) a 0 n).flatMap fun p => s.spadBytes (ownerIn cl (a + p.1)) ((a + p.1) % 262144) p.2

/-- Bytes written from a cluster address on. -/
def State.setClusterBytes (s : State) (cl a : Nat) (bs : List Byte) (writer : Option Nat) : State :=
  (linePieces (bs.length / 128 + 2) a 0 bs.length).foldl
    (fun s p => s.setSpad (ownerIn cl (a + p.1)) ((a + p.1) % 262144) ((bs.drop p.1).take p.2) writer) s

/-- A scratchpad address that a card uses: its high word is 0, and the cluster bytes of every piece `ps` are held (R177, R186). -/
def State.usesHeld (s : State) (ctx cl a : Nat) (ps : List (Nat × Nat)) : Bool :=
  decide (a < 4294967296) && ps.all fun p => p.2 == 0 || s.clusterRange ctx cl (a + p.1) p.2

/-- One side of a card, of which the pieces `ps`, as (offset, length), are used and which ends `n` bytes from its address: its captured
address words, none where a bound is broken. An empty side breaks none. -/
def State.side (s : State) (g sp a n : Nat) (ps : List (Nat × Nat)) : Option Nat :=
  let w := s.wg (s.grp g).wg
  match sp with
  | 0 => if a < 4294967296 ∧ (n = 0 ∨ a + n ≤ w.hdr.spad) then some (262144 * (coreOf g % 32) + w.spb + a) else none
  | 1 => if s.usesHeld w.ctx (clusterOf (coreOf g)) a ps then some a else none
  | 3 => if s.touchesWindow w.ctx a n then none else some a
  | _ => none

/-- A global range, which holds a byte, leaves the canonical space. -/
def leaves (a n : Nat) : Bool :=
  n != 0 && (!canonical a || !canonical ((a + n - 1) % 18446744073709551616) ||
    a / 72057594037927936 != (a + n - 1) / 72057594037927936)

/-- Address words `i` and `i + 1` replaced. -/
def Card.setAdr (c : Card) (i a : Nat) : Card :=
  { c with words := setAt (setAt c.words i (BitVec.ofNat 32 a)) (i + 1) (BitVec.ofNat 32 (a / 4294967296)) }

/-- A region's checks: bounds of the pieces used, then FOOTPR. `n` counts bytes from the address on. -/
def State.region (s : State) (g sp n i : Nat) (ps : List (Nat × Nat)) (c : Card) : Except Cause Card :=
  match s.side g sp (c.adr i) n ps with
  | none => .error Code.CPYBND
  | some a => if sp = 3 ∧ (1073741824 < n ∨ leaves a n = true) then .error Code.FOOTPR else .ok (c.setAdr i a)

/-- Bytes from the first byte of row 0 to the last byte of the last row. -/
def spanOf (rows width pitch : Nat) : Nat := if rows = 0 ∨ width = 0 then 0 else (rows - 1) * pitch + width

/-- The rows of CPY2 as (offset, length). -/
def Card.rowPieces (c : Card) (pitch : Nat) : List (Nat × Nat) := (List.range c.rows).map fun r => (r * pitch, c.cols)

/-- Source and destination pitch of CPY2. -/
def Card.srcPitch (c : Card) : Nat := 16 * fld (c.w 6) 0 16
def Card.dstPitch (c : Card) : Nat := 16 * fld (c.w 6) 16 16

/-- Source and destination spans of CPY2. (DEDUCED, log 61) -/
def Card.srcSpan (c : Card) : Nat := spanOf c.rows c.cols c.srcPitch
/-- DEDUCED, log 61. -/
def Card.dstSpan (c : Card) : Nat := spanOf c.rows c.cols c.dstPitch

/-! ## Tensor descriptors (R194) -/

def Card.dData (c : Card) : Nat := fld c.desc.toNat 0 64
def Card.dSide (c : Card) : Nat := fld c.desc.toNat 64 64
def Card.dPitch (c : Card) : Nat := fld c.desc.toNat 128 32
def Card.dSstr (c : Card) : Nat := fld c.desc.toNat 160 16
def Card.dFmt (c : Card) : Nat := fld c.desc.toNat 192 8
def Card.dBmap (c : Card) : Bool := fld c.desc.toNat 200 1 == 1

/-- Bytes of a stored element. -/
def Card.dWidth (c : Card) : Nat := match c.dFmt with | 0 => 4 | 1 => 2 | 2 => 2 | _ => 1

def Card.narrow (c : Card) : Bool := decide (4 ≤ c.dFmt) && decide (c.dFmt ≤ 7)

/-- Spans of the DATA rows and of the SIDE area. -/
def Card.dataSpan (c : Card) : Nat := spanOf c.rows (c.cols * c.dWidth) c.dPitch
def Card.sideSpan (c : Card) : Nat :=
  if c.narrow then c.rows * c.dSstr + (if c.dBmap then c.rows * (c.cols / 8) else 0) else 0

/-- Smallest range that covers the DATA rows and the SIDE area: start and length. -/
def Card.dCover (c : Card) : Nat × Nat :=
  if c.sideSpan = 0 then (c.dData, c.dataSpan)
  else if c.dataSpan = 0 then (c.dSide, c.sideSpan)
  else
    let lo := min c.dData c.dSide
    (lo, max (c.dData + c.dataSpan) (c.dSide + c.sideSpan) - lo)

/-- The format that a stored element is decoded with. -/
def Card.storedFmt (c : Card) : Fp.Fmt :=
  match c.dFmt with
  | 0 => Fp.fp32 | 1 => Fp.bf16 | 2 => Fp.fp16
  | _ => Fp.nfFmt c.nf

/-- A pair of canonical type and stored format that CPYT accepts (R195). -/
def Card.pairOk (c : Card) : Bool :=
  if c.int8 then c.dFmt == 3 || (c.narrow && (Fp.nfFmt c.nf).ebits == 0)
  else decide (c.dFmt ≤ 2) || c.narrow

/-! ## Checks of the copy cards at issue (R189, R195) -/

/-- Reserved fields and ranges common to every copy card. RM 7, for which R187 gives no mode, is refused on every copy card, whether or not
the card rounds. (DEDUCED, log 27; DESIGN CHOICE, log 109) -/
def Card.badFields (c : Card) : Bool :=
  c.w 5 &&& 0xC0008CFF != 0 || c.w 7 &&& 0x3F000000 != 0 || complKind (c.w 7) == 3 || c.dsp == 2 || c.ssp == 2 ||
    fld (c.w 5) 12 3 == 7 ||
    (match c.kind with
     | .cpy => c.w 6 != 0
     | .cpyt => c.w 6 != 0 || (if c.quantise then c.rout else c.rin)
     | .cpy2 => c.rin || c.rout || decide (16 * fld (c.w 6) 16 16 < c.cols)
     | _ => c.rin || c.rout || decide (4 < fld (c.w 4) 0 3))

/-- A card's barrier TGT becomes the cluster-wide handle; BARBUD where R198 refuses it. -/
def State.bindBar (s : State) (g : Nat) (c : Card) : Except Cause Card :=
  if complKind (c.w 7) = 1 then
    match s.barNo (s.wg (s.grp g).wg) (complTgt (c.w 7)) with
    | none => .error Code.BARBUD
    | some b =>
      let w := (c.w 7 / 16777216) * 16777216 + (16 + b) * 65536 + complInc (c.w 7)
      .ok { c with words := setAt c.words 7 (BitVec.ofNat 32 w) }
  else .ok c

/-- Local addresses of CPYT's scratchpad side: tiles and headers. -/
def Card.tileSpan (c : Card) : Nat := c.tiles * 2064

/-- Checks of a tensor copy once its descriptor is read. -/
def State.checkTensor (s : State) (g : Nat) (c : Card) : Except Cause Card :=
  let glob := if c.quantise then c.dsp else c.ssp
  let loc := if c.quantise then c.ssp else c.dsp
  let ring := if c.quantise then c.rin else c.rout
  if c.narrow && !Fp.nfValid c.nf then .error Code.ILLFMT
  else if glob != 3 || decide (1 < loc) || c.rows % 32 != 0 || c.cols % c.tileW != 0 || !c.pairOk then .error Code.CPYFMT
  else
    let cover := c.dCover
    let ctx := s.ctxOf g
    if s.touchesWindow ctx c.dData c.dataSpan || s.touchesWindow ctx c.dSide c.sideSpan then .error Code.CPYBND
    else
      let r : Except Cause Card := if ring then .ok c else s.region g loc c.tileSpan (if c.quantise then 0 else 2) [(0, c.tileSpan)] c
      match r with
      | .error k => .error k
      | .ok c =>
        let big := if c.quantise then decide (1073741824 < cover.2) || leaves cover.1 cover.2
          else decide (1073741824 < c.dataSpan) || decide (1073741824 < c.sideSpan) || leaves c.dData c.dataSpan ||
            leaves c.dSide c.sideSpan
        if big then .error Code.FOOTPR else .ok c

/-- Address of the gathered or scattered element whose index is `x`, on the side that word `i` gives. -/
def Card.elemAt (c : Card) (i x : Nat) : Nat := c.adr i + x * c.elem

/-- Index `k` of the card's array as the scratchpads hold it now. -/
def State.indexAt (s : State) (cl : Nat) (c : Card) (k : Nat) : Nat := leNat (s.clusterBytes cl (c.w 6 + 4 * k) 4)

/-- The far side of CPYG or CPYS, which lies outside the footprint (R192): its space, and that no element touches a Colander window as
the index array stands at issue (R247). Each element on a scratchpad is held to the allocations of R177 when it is delivered, be its address
of the local space or of the cluster's. (DESIGN CHOICE, log 110) -/
def State.farSide (s : State) (g sp i : Nat) (c : Card) : Except Cause Card :=
  let ctx := s.ctxOf g
  let hits (k : Nat) : Bool :=
    s.touchesWindow ctx (c.elemAt i (s.indexAt (clusterOf (coreOf g)) c k) % 18446744073709551616) c.elem
  if sp = 3 then
    if !(s.ctx ctx).regions.isEmpty && (List.range c.count).any hits then .error Code.CPYBND else .ok c
  else
    match s.side g sp (c.adr i) 0 [] with
    | none => .error Code.CPYBND
    | some a => .ok (c.setAdr i a)

/-- Checks of a copy card: fields, bounds, formats, barrier, footprint. The captured card comes back. (DEDUCED, log 57) -/
def State.checkCopy (s : State) (g : Nat) (c : Card) : Except Cause Card :=
  if c.badFields then .error Code.CPYBND
  else
    let side (ring : Bool) (sp n i : Nat) (ps : List (Nat × Nat)) (r : Except Cause Card) : Except Cause Card :=
      match r with
      | .error k => .error k
      | .ok c => if ring then .ok c else s.region g sp n i ps c
    let whole (ring : Bool) (sp n i : Nat) (r : Except Cause Card) : Except Cause Card := side ring sp n i [(0, n)] r
    let indexed (r : Except Cause Card) : Except Cause Card :=
      if s.usesHeld (s.ctxOf g) (clusterOf (coreOf g)) (c.w 6) [(0, 4 * c.count)] then r else .error Code.CPYBND
    let r : Except Cause Card := match c.kind with
      | .cpy => whole c.rout c.dsp c.len 2 (whole c.rin c.ssp c.len 0 (.ok c))
      | .cpy2 =>
        side false c.dsp c.dstSpan 2 (c.rowPieces c.dstPitch) (side false c.ssp c.srcSpan 0 (c.rowPieces c.srcPitch) (.ok c))
      | .cpyt => s.checkTensor g c
      | .cpyg => indexed (whole false c.dsp (c.count * c.elem) 2 (s.farSide g c.ssp 0 c))
      | _ => indexed (whole false c.ssp (c.count * c.elem) 0 (s.farSide g c.dsp 2 c))
    match r with
    | .error k => .error k
    | .ok c => s.bindBar g c

/-! ## Checks of the remote cards at issue (R306-R311, R325) -/

/-- An entry of the peer window table (R304). -/
def winV (e : BitVec 128) : Bool := e.getLsbD 0
def winR (e : BitVec 128) : Bool := e.getLsbD 1
def winW (e : BitVec 128) : Bool := e.getLsbD 2
def winA (e : BitVec 128) : Bool := e.getLsbD 3
def winTctx (e : BitVec 128) : Nat := fld e.toNat 42 16
def winDev (e : BitVec 128) : Nat := fld e.toNat 58 10
def winLen (e : BitVec 128) : Nat := 4096 * fld e.toNat 68 27
def winBase (e : BitVec 128) : Nat := 4096 * fld e.toNat 96 27

/-- An entry of the MCR group table (R324); an entry whose NM is wrong counts as not valid. -/
def mcrMember (e : BitVec 1024) (d : Nat) : Bool := decide (d < 576) && e.getLsbD d
def mcrMembers (e : BitVec 1024) : List Nat := (List.range 576).filter fun d => e.getLsbD d
def mcrLen (e : BitVec 1024) : Nat := 4096 * fld e.toNat 584 27
def mcrOps (e : BitVec 1024) : Nat := fld e.toNat 576 8
def mcrV (e : BitVec 1024) : Bool := e.getLsbD 623 && fld e.toNat 611 10 == (mcrMembers e).length

/-- A member record (R325). -/
def memV (e : BitVec 128) : Bool := e.getLsbD 0
def memCtx (e : BitVec 128) : Nat := fld e.toNat 48 16
def memBase (e : BitVec 128) : Nat := widen57 (fld e.toNat 64 57)

/-- The group is valid for a context of this package (R325). -/
def State.mcrValid (s : State) (ctx g : Nat) : Bool :=
  let e := tgetD s.mcr g 0
  let r := tgetD s.members g 0
  mcrV e && mcrMember e s.chip && memV r && memCtx r == ctx

/-- Fields of a remote card that must be zero or in range, but for those of its window. -/
def Card.badRemote (c : Card) : Bool :=
  let land := c.kind == CardKind.xwr && c.landing
  c.w 5 &&& 0xC0003FFF != 0 || c.w 7 &&& 0x3F000000 != 0 || complKind (c.w 7) == 3 || c.lsp == 2 ||
    (c.landing && c.kind != CardKind.xwr) || (!land && c.w 6 != 0) || (land && fld (c.w 6) 16 16 == 0) ||
    decide (281474976710656 ≤ c.adr c.kind.remoteAt) ||
    (match c.kind with
     | .xwr => c.op != 0 || decide (1073741824 < c.len)
     | .xrd => c.op != 0 || decide (1073741824 < c.len)
     | .xred => decide (7 < c.op)
     | .xatom => decide (11 < c.op) || c.len != 0
     | .xmlr => decide (6 < c.op)
     | _ => c.op != 0)

/-- Element size of XRED and operand size of XATOM (R308). -/
def Card.remoteElem (c : Card) : Nat :=
  match c.kind with
  | .xred => if c.op = 7 then 8 else 4
  | .xatom => if 8 ≤ c.op then 8 else 4
  | _ => 1

/-- Bytes that the card touches from its remote address on: the zone of a landing card. -/
def Card.remoteSpan (c : Card) : Nat :=
  if c.kind = .xwr ∧ c.landing = true then 64 + fld (c.w 6) 16 16 * (64 * fld (c.w 6) 0 16)
  else if c.kind = .xatom then c.remoteElem else c.len

/-- The window checks: V, the right, the range, alignment (R304, R308, R309, R311). -/
def Card.windowOk (c : Card) (e : BitVec 128) : Bool :=
  let off := c.adr c.kind.remoteAt % 1099511627776
  let right := match c.kind with
    | .xwr => winW e
    | .xrd => winR e
    | _ => winA e
  winV e && right && (c.remoteSpan == 0 || decide (off + c.remoteSpan ≤ winLen e)) &&
    (c.remoteSpan != 0 || c.tc.isNone || decide (off < winLen e)) &&
    off % c.remoteElem == 0 && c.len % c.remoteElem == 0 &&
    !(c.kind == CardKind.xwr && c.landing && (off % 64 != 0 || decide (64 * fld (c.w 6) 0 16 < c.len))) &&
    !(c.kind == CardKind.xatom && c.adr 0 % 32 != 0)

/-- The MCR checks (R306, R325). -/
def State.mcrOk (s : State) (ctx : Nat) (c : Card) : Bool :=
  let a := c.adr c.kind.remoteAt
  let g := a / 1099511627776 % 256
  let off := a % 1099511627776
  let e := tgetD s.mcr g 0
  s.mcrValid ctx g && (mcrOps e).testBit (if c.kind = .xmlr then c.op else 7) && (c.len == 0 || decide (off + c.len ≤ mcrLen e)) &&
    (c.len != 0 || c.tc.isNone || decide (off < mcrLen e)) && (c.kind != CardKind.xmlr || c.len % mixRead c.op == 0)

/-- The local side of a remote card: the captured card, CPYBND where a bound is broken. (DEDUCED, log 57) -/
def State.localSide (s : State) (g : Nat) (c : Card) : Except Cause Card :=
  let i := c.kind.localAt
  match s.side g c.lsp (c.adr i) c.localLen [(0, c.localLen)] with
  | none => .error Code.CPYBND
  | some a => if c.lsp = 3 ∧ leaves a c.localLen = true then .error Code.CPYBND else .ok (c.setAdr i a)

/-- A remote card's target, checked and translated through the window table or the group table as they stand when the card is posted
(R304, R325). -/
def State.target (s : State) (ctx : Nat) (c : Card) : Except Cause Card :=
  let a := c.adr c.kind.remoteAt
  let k := a / 1099511627776 % 256
  if c.kind.mcr then
    if s.mcrOk ctx c then
      .ok { c with dev := 576 + k, tctx := ctx, pa := a % 1099511627776, ra := a % 1099511627776
                   devs := mcrMembers (tgetD s.mcr k 0) }
    else .error Code.MCRGRP
  else
    let e := tgetD (s.ctx ctx).peer k 0
    if c.windowOk e then
      .ok { c with dev := winDev e, tctx := winTctx e, pa := (winBase e + a % 1099511627776) % 549755813888, ra := a
                   devs := [winDev e] }
    else .error Code.CPYBND

/-- Checks of a remote card. -/
def State.checkRemote (s : State) (g : Nat) (c : Card) : Except Cause Card :=
  if c.badRemote then .error Code.CPYBND
  else
    match s.localSide g c with
    | .error k => .error k
    | .ok c =>
      match s.target (s.ctxOf g) c with
      | .error k => .error k
      | .ok c => s.bindBar g c

/-- The checks of a card but for its channel and its tensor descriptor. (DEDUCED, log 24) -/
def State.checkCard (s : State) (g : Nat) (c : Card) : Except Cause Card :=
  if c.kind.remote then s.checkRemote g c else s.checkCopy g c

/-! ## Footprint and scope (R167, R192) -/

/-- A region of a footprint: scratchpad or not, start, length. -/
abbrev Area := Bool × Nat × Nat

/-- A space's region. -/
def areaOf (sp a n : Nat) : Area := (sp != 3, a, n)

def Card.reads (c : Card) : List Area :=
  match c.kind with
  | .cpy => if c.rin then [] else [areaOf c.ssp (c.adr 0) c.len]
  | .cpy2 => [areaOf c.ssp (c.adr 0) c.srcSpan]
  | .cpyt =>
    if c.quantise then if c.rin then [] else [areaOf 1 (c.adr 0) c.tileSpan]
    else [areaOf 3 c.dData c.dataSpan, areaOf 3 c.dSide c.sideSpan]
  | .cpyg => [areaOf 1 (c.w 6) (4 * c.count)]
  | .cpys => [areaOf 1 (c.w 6) (4 * c.count)]
  | _ => []

def Card.writes (c : Card) : List Area :=
  match c.kind with
  | .cpy => if c.rout then [] else [areaOf c.dsp (c.adr 2) c.len]
  | .cpy2 => [areaOf c.dsp (c.adr 2) c.dstSpan]
  | .cpyt =>
    if c.quantise then [(false, c.dCover.1, c.dCover.2)]
    else if c.rout then [] else [areaOf 1 (c.adr 2) c.tileSpan]
  | .cpyg => [areaOf c.dsp (c.adr 2) (c.count * c.elem)]
  | _ => []

/-- Two regions share a 64-byte granule. -/
def Area.meets (a b : Area) : Bool :=
  a.1 == b.1 && a.2.2 != 0 && b.2.2 != 0 && decide (a.2.1 / 64 ≤ (b.2.1 + b.2.2 - 1) / 64) &&
    decide (b.2.1 / 64 ≤ (a.2.1 + a.2.2 - 1) / 64)

/-- A page of the region is EXPORT. -/
def State.exportArea (s : State) (ctx : Nat) (a : Area) : Bool :=
  !a.1 && (pageStarts a.2.1 a.2.2).any fun va =>
    match s.leaf ctx va with
    | some e => leafExport e
    | none => false

/-- The scope of a card (R167). -/
def State.cardScope (s : State) (c : Card) : Scope :=
  let as := c.reads ++ c.writes
  if c.kind.remote || as.any (s.exportArea c.ctx) then .sys
  else if as.any fun a => !a.1 && a.2.2 != 0 then .pkg
  else .clu

/-! ## Packets (R300, R309, R311) -/

/-- The packets of `n` bytes at remote address `a`: (offset, length) pieces that cross no 256-byte boundary. -/
def cutPackets : Nat → Nat → Nat → Nat → List (Nat × Nat)
  | 0, _, _, _ => []
  | fuel + 1, a, off, n =>
    if n = 0 then []
    else
      let k := min n (256 - a % 256)
      (off, k) :: cutPackets fuel (a + k) (off + k) (n - k)

/-- Packets of the data of a remote card; the single packet of XATOM, of TC without data. -/
def Card.packets (c : Card) : List (Nat × Nat) :=
  match c.kind with
  | .xatom => [(0, c.remoteElem)]
  | _ =>
    if c.len = 0 then if c.tc.isSome then [(0, 0)] else []
    else cutPackets (c.len / 256 + 2) c.pa 0 c.len

/-- Units of 256 bytes up to an offset, and of a whole card (R314). -/
def unitsTo (n : Nat) : Nat := (n + 255) / 256
def Card.units (c : Card) : Nat := if c.kind = .xatom then 1 else unitsTo c.len

end Sys2Proof.Machine
end

