-- ==== Sys2Proof/Machine/Channels.lean ====
section
/-! DEFINITION. Copy channels (R185, R191): posting, send allowances (R314), the end of a card (R170, R188), the halt of a
channel (R193, R346); completion counters and the cards armed on them (R318-R320, R344). -/

namespace Sys2Proof.Machine

/-! ## Channels -/

def Cluster.chan (c : Cluster) (ch : Nat) : Channel := tgetD c.chans ch {}

def State.chan (s : State) (cl ch : Nat) : Channel := (s.cluster cl).chan ch

def State.setChan (s : State) (cl ch : Nat) (x : Channel) : State :=
  let c := s.cluster cl
  s.setCluster cl { c with chans := tset c.chans ch x }

def State.modChan (s : State) (cl ch : Nat) (f : Channel → Channel) : State := s.setChan cl ch (f (s.chan cl ch))

/-- STATE of the status word (R191). -/
def Channel.state (x : Channel) : Nat := if x.halted then 2 else if x.queue.isEmpty then 0 else 1

/-- The channel status word (R191). (DEDUCED, log 59) -/
def Channel.status (x : Channel) : Word :=
  BitVec.ofNat 32 (x.state * 1073741824 + x.queue.length % 64 * 16777216 + x.cause.toNat * 65536 + x.flags.toNat)

/-- The remote word (R323). -/
def Channel.remoteWord (x : Channel) : Word :=
  BitVec.ofNat 32 (x.xfc.toNat * 16777216 + x.drops.toNat * 65536 + x.last.toNat)

/-- Replaces the head card. -/
def Channel.setHead (x : Channel) (c : Card) : Channel := { x with queue := c :: x.queue.tail }

/-- Cards of a context in the queues of a cluster's channels. -/
def State.queued (s : State) (cl ctx : Nat) : Nat :=
  ((s.cluster cl).chans.map fun e => (e.2.queue.filter fun c => c.ctx == ctx).length).sum

/-- Fired cards of a context that wait in the cluster's channels, of a number below `n`. -/
def State.firedBefore (s : State) (cl ctx n : Nat) : Nat :=
  ((s.cluster cl).chans.map fun e => (e.2.fired.filter fun c => c.ctx == ctx && decide (c.id < n)).length).sum

/-- Unfinished cards of a context in a cluster: fired ones that wait in their channel count too (R185). -/
def State.unfinished (s : State) (cl ctx : Nat) : Nat := s.queued cl ctx + s.firedBefore cl ctx s.nextId

/-! ## Send allowances (R314) -/

/-- Towards every one of the devices the allowance covers `n` units. -/
def State.coversAll (s : State) (devs : List Nat) (n : Nat) : Bool :=
  devs.all fun d =>
    let a := tgetD s.allow d {}
    decide (n ≤ a.cap - a.out)

/-- Towards every device of a card the allowance covers `n` units. -/
def State.covers (s : State) (c : Card) (n : Nat) : Bool := s.coversAll c.devs n

/-- Charges `n` units to every device. -/
def State.charge (s : State) (devs : List Nat) (n : Nat) : State :=
  devs.foldl (fun s d =>
    let a := tgetD s.allow d {}
    { s with allow := tset s.allow d { a with out := a.out + n } }) s

/-- Gives `n` units back. (DEDUCED, log 64) -/
def State.uncharge (s : State) (devs : List Nat) (n : Nat) : State :=
  devs.foldl (fun s d =>
    let a := tgetD s.allow d {}
    { s with allow := tset s.allow d { a with out := a.out - n } }) s

/-- Units charged at the post. -/
def Card.firstCharge (c : Card) : Nat := min c.units 64

/-! ## Ring slots of a card (R184) -/

/-- A card publishes its output slots and releases its input slots. -/
def State.giveSlots (s : State) (cl : Nat) (c : Card) (scope : Scope) : State :=
  let mark (x : Ring) : Ring := { x with wide := some (widerScope x.wide scope) }
  let s :=
    if c.outCnt = 0 then s
    else
      match (s.ring cl c.oring).publish c.outSeq c.outCnt with
      | some x => s.setRing cl c.oring (mark x)
      | none => s
  if c.inCnt = 0 then s
  else
    match (s.ring cl c.iring).release c.inSeq c.inCnt with
    | some x => s.setRing cl c.iring (mark x)
    | none => s

/-! ## Bound bytes (R139, R188) -/

/-- The card's barrier, if it names one. -/
def Card.bar (c : Card) : Option Nat := if complKind (c.w 7) = 1 then some (complTgt (c.w 7) - 16) else none

/-- `n` bytes count against the card's barrier. (DEDUCED, log 63) -/
def State.countBytes (s : State) (cl : Nat) (c : Card) (n : Nat) (fault : Bool) : State :=
  match c.bar with
  | some b => if n = 0 ∧ fault = false then s else s.boundBytes cl b n fault (s.cardScope c)
  | none => s

/-- WP moves over `n` bytes of the head card. -/
def State.advance (s : State) (cl ch : Nat) (c : Card) (n : Nat) : State :=
  let scope := s.cardScope c
  (s.modChan cl ch fun x => { x with wp := x.wp + BitVec.ofNat 32 n, wide := some (widerScope x.wide scope) }).countBytes cl c
    n false

/-! ## The halt of a channel (R193, R346) -/

/-- What a faulted or cancelled card still does. -/
def State.giveUp (s : State) (cl : Nat) (c : Card) : State :=
  (s.giveSlots cl c (s.cardScope c)).countBytes cl c (c.bytes - c.done) true

/-- The cause that R346 posts for a card's cause. -/
def postedCause (c : Cause) : Cause := if delivery c = .n then c else Code.CPYFLT

/-- The record of a card that halts its channel: TINFO is its status word, R346. -/
def State.cardRecord (s : State) (c : Card) (cause : Cause) (status : Word) : State :=
  if c.grp.isSome then s.errRecord c.ctx 1 (postedCause cause) c.widb (c.pos.setWidth 32) c.ttask status
  else s.errRecord c.ctx 1 (postedCause cause) 0 0 0 status

/-- FLAGS after a card: a CPYT and an XMLR leave their own (R191, R327). -/
def Card.flagsOver (c : Card) (old : BitVec 7) : BitVec 7 :=
  if c.kind == CardKind.cpyt || c.kind == CardKind.xmlr then c.flags else old

/-- A card faults: the channel halts, its queued cards are cancelled. `rest` are those. Units charged when a cancelled card was posted stay
charged. (DESIGN CHOICE, log 115) -/
def State.halt (s : State) (cl ch : Nat) (c : Card) (rest : List Card) (cause : Cause) : State :=
  let s := s.giveUp cl c
  let s := rest.foldl (fun s x => s.giveUp cl x) s
  let gone (x : Channel) : Channel :=
    if cause = Code.PEERABS then
      { x with absent := tset x.absent c.ctx (c.gone.foldl (fun m d => m ||| (1#576 <<< d)) 0, cause) }
    else x
  let s := s.modChan cl ch fun x =>
    gone { x with queue := [], halted := true, cause := cause, last := cause, flags := c.flagsOver x.flags }
  s.cardRecord c cause (s.chan cl ch).status

/-- The head card of a channel faults. (DEDUCED, log 62) -/
def State.haltHead (s : State) (cl ch : Nat) (cause : Cause) : State :=
  match (s.chan cl ch).queue with
  | [] => s
  | c :: rest => s.halt cl ch c rest cause

/-! ## Posting (R185) -/

/-- A card takes its place in the channel's queue; on a halted channel it is cancelled. -/
def State.postCard (s : State) (cl ch : Nat) (c : Card) : State :=
  let n := BitVec.ofNat 32 c.bytes
  let x := s.chan cl ch
  if x.halted then
    (s.setChan cl ch { x with pw := x.pw + n }).giveUp cl c
  else s.setChan cl ch { x with pw := x.pw + n, queue := x.queue ++ [c] }

/-! ## Counters and armed cards (R318-R320, R344) -/

/-- A count satisfies a threshold. -/
def satisfies (count t : Word) : Bool := decide ((count - t).toNat < 2147483648)

/-- A fired card's scratchpad bytes still lie in allocations of the context, and its barrier is still held (R320). (DEDUCED, log 62) -/
def State.fireOk (s : State) (cl : Nat) (c : Card) : Bool :=
  let bar := match c.bar with | some b => s.barHeld c.ctx cl b | none => true
  let local_ :=
    if c.kind.remote then c.lsp == 3 || s.usesHeld c.ctx cl (c.adr c.kind.localAt) [(0, c.localLen)]
    else
      (c.ssp == 3 || c.rin || s.usesHeld c.ctx cl (c.adr 0) [(0, c.len)]) &&
        (c.dsp == 3 || c.rout || s.usesHeld c.ctx cl (c.adr 2) [(0, c.len)])
  bar && local_

/-- A fired card that a check refuses: it takes its place in the channel, sends nothing, signals nothing and, at the head, halts the channel
(R320). (DEDUCED, log 62) -/
def Card.doomed (c : Card) (k : Cause) : Card := { c with words := setAt c.words 7 0, devs := [], cause := k }

/-- A fired card with its target as the windows stand when it is posted (R304, R320). -/
def State.retarget (s : State) (c : Card) : Card :=
  if c.kind.remote && c.cause == 0 then
    match s.target c.ctx c with
    | .ok d => d
    | .error k => c.doomed k
  else c

/-- A fired card is posted, or waits in its channel for room, for the quota, where those that fired before it count, or for allowance
(R185, R318, R319). (DEDUCED, log 62) -/
def State.postFired (s : State) (cl ch : Nat) (c : Card) : Option State :=
  let x := s.chan cl ch
  let c := s.retarget c
  let n := if c.cause = 0 then c.firstCharge else 0
  let full := decide (32 ≤ x.queue.length) || decide (256 ≤ s.queued cl c.ctx + s.firedBefore cl c.ctx c.id)
  if !x.halted && (full || !s.covers c n) then none
  else
    let (id, s) := s.fresh
    let c := { c with id := id, left := true, charged := if x.halted then 0 else n }
    some ((s.charge c.devs c.charged).postCard cl ch c)

/-- A card fires (R318-R320): its number is its place among the unfinished cards. (DEDUCED, log 62) -/
def State.fire (s : State) (a : Armed) : State :=
  let x := s.chan a.cl a.ch
  let (id, s) := s.fresh
  let card := if s.fireOk a.cl a.card then a.card else a.card.doomed Code.CPYBND
  let c : Card := { card with id := id }
  let wait (s : State) : State := s.modChan a.cl a.ch fun x => { x with fired := x.fired ++ [c] }
  if x.fired.isEmpty then (s.postFired a.cl a.ch c).getD (wait s) else wait s

/-- Every armed card of a counter that the count now satisfies fires, in the order of arming. -/
def State.evaluate (s : State) (ctx cnt : Nat) : State :=
  let c := s.ctx ctx
  let v := tgetD c.counters cnt 0
  let hit (a : Armed) : Bool := a.cnt == cnt && satisfies v a.t
  (c.armed.filter hit).foldl State.fire (s.setCtx ctx { c with armed := c.armed.filter fun a => !hit a })

/-- A slot parked in XWAIT on a counter of the context wakes where the count satisfies its threshold (R322). -/
def State.wakeCounter (s : State) (ctx cnt : Nat) (v : Word) (g : Nat) (b : Bool) : State :=
  if s.ctxOf g == ctx then s.wakeParks g b (fun p => p.why == ParkWhy.counter cnt && satisfies v p.arg) v .sys else s

/-- Every slot parked on the counter that the count satisfies wakes. -/
def State.wakeCounters (s : State) (ctx cnt : Nat) (v : Word) : State :=
  (s.groups.map Prod.fst).foldl (fun s g => (s.wakeCounter ctx cnt v g false).wakeCounter ctx cnt v g true) s

/-- A counter changes. -/
def State.setCounter (s : State) (ctx cnt : Nat) (v : Word) : State :=
  let c := s.ctx ctx
  ((s.setCtx ctx { c with counters := tset c.counters cnt v }).wakeCounters ctx cnt v).evaluate ctx cnt

/-- A completion adds to a counter. -/
def State.addCounter (s : State) (ctx cnt : Nat) (n : Nat) : State :=
  s.setCounter ctx cnt (tgetD (s.ctx ctx).counters cnt 0 + BitVec.ofNat 32 n)

/-! ## The end of a card (R170, R188) -/

/-- The completion word of an operation that binds no bytes: one arrival, or a counter (R188). -/
def State.signal (s : State) (ctx cl w : Nat) (scope : Scope) : State :=
  match complKind w with
  | 1 =>
    let b := complTgt w - 16
    if s.barHeld ctx cl b then
      let x := (s.cluster cl).bar b
      let s := s.setBar cl b { x with wide := some (widerScope x.wide scope) }
      (s.arriveBar cl b).getD s
    else s
  | 2 => s.addCounter ctx (complTgt w) (complInc w)
  | _ => s

/-- The head card completes; `last` is 0 or XFULL. -/
def State.complete (s : State) (cl ch : Nat) (last : Cause) : State :=
  match (s.chan cl ch).queue with
  | [] => s
  | c :: rest =>
    let s := s.giveSlots cl c (s.cardScope c)
    let s := s.countBytes cl c (c.bytes - c.done) false
    let s := s.modChan cl ch fun x => { x with
      queue := rest, last := last, flags := c.flagsOver x.flags, wp := x.wp + BitVec.ofNat 32 (c.bytes - c.done)
      xfc := if last = Code.XFULL ∧ x.xfc ≠ BitVec.allOnes 8 then x.xfc + 1 else x.xfc }
    if complKind (c.w 7) = 2 then s.addCounter c.ctx (complTgt (c.w 7)) (complInc (c.w 7)) else s

end Sys2Proof.Machine
end

