-- ==== Sys2Proof/Machine/Region.lean ====
section
/-! DEFINITION. The store buffer of a try region (R145, R146): what it holds, what a load takes from it, entering bytes
and spilling lines; and how an access inside a region leaves the issue queue (R145, R147, R149). -/

namespace Sys2Proof.Machine

/-! ## The buffer -/

/-- The last write of a byte in the buffer: its lane and value. -/
def TryRegion.find (r : TryRegion) (bank : Bool) (addr : Nat) : Option (Nat × Byte) :=
  (r.buf.reverse.find? fun b => b.bank == bank && b.addr == addr).map fun b => (b.lane, b.val)

/-- Bytes of a piece that the buffer supplies, with the lanes that wrote them. -/
def TryRegion.supplies (r : TryRegion) (bank : Bool) (p : Piece) : List (Nat × Nat × List Byte) × List (Nat × Nat) :=
  let xs := (List.range p.len).filterMap fun i => (r.find bank (p.addr + i)).map fun y => (i, y)
  (xs.map fun x => (p.lane, p.off + x.1, [x.2.2]), xs.map fun x => (laneNo p.lane, x.2.1))

/-- Distinct lines of the buffer, scratchpad lines apart. -/
def TryRegion.lines (r : TryRegion) : List (Bool × Nat) := (r.buf.map fun b => (b.bank, b.addr / 128)).eraseDups

/-- Lines held in the 64 lines of the store buffer. -/
def TryRegion.resident (r : TryRegion) : Nat := r.lines.length - r.versions.length

/-- Versions of a region that the LLC of a compute die holds. -/
def TryRegion.versionsAt (r : TryRegion) (die : Nat) : Nat := (r.versions.filter fun l => sliceOf (128 * l) / 32 == die).length

/-- Speculative versions held by the LLC of a compute die, over the regions of all groups but `g` (R146). -/
def State.versionsAt (s : State) (g die : Nat) : Nat :=
  ((s.groups.filter fun x => x.1 != g).map fun x => match x.2.tryR with
    | some r => r.versionsAt die
    | none => 0).sum

/-- Lines of versions a die's LLC has room for: 16 MiB. -/
def versionRoom : Nat := 131072

/-- A byte enters the buffer of the group's region; none where it finds no room. -/
def State.bufferByte (s : State) (g : Nat) (r : TryRegion) (b : BufByte) : Option TryRegion :=
  let r' := { r with buf := r.buf ++ [b] }
  if r.lines.contains (b.bank, b.addr / 128) then some r'
  else if r.resident < 64 then some r'
  else if b.bank then none
  else
    let die := sliceOf (128 * (b.addr / 128)) / 32
    if s.versionsAt g die + r.versionsAt die < versionRoom then some { r' with versions := r.versions ++ [b.addr / 128] } else none

/-- Bytes from an address up, written by a lane. -/
def State.bufferBytes (s : State) (g : Nat) (r : TryRegion) (bank : Bool) (lane : Nat) : Nat → List Byte → Option TryRegion
  | _, [] => some r
  | a, b :: t =>
    match s.bufferByte g r ⟨bank, a, lane, b⟩ with
    | some r => s.bufferBytes g r bank lane (a + 1) t
    | none => none

/-- Pieces with their data, in order. -/
def State.bufferPieces (s : State) (g : Nat) (r : TryRegion) (bank : Bool) : List Piece → Option TryRegion
  | [] => some r
  | p :: t =>
    match s.bufferBytes g r bank (laneNo p.lane) p.addr p.data with
    | some r => s.bufferPieces g r bank t
    | none => none

/-- The lanes of an atomic at one address, in ascending order, each as a write of its own; a lane does not depend, for the closure of
R153, on the lower lanes of its word (R149, R153). (DESIGN CHOICE, log 93) -/
def State.bufferAtomic (s : State) (g : Nat) (r : TryRegion) (bank : Bool) (op : AtOp) : List Piece → List Byte →
    Option TryRegion
  | [], _ => some r
  | p :: t, m =>
    let v := op.apply m p.ops
    match s.bufferBytes g r bank (laneNo p.lane) p.addr v with
    | some r => s.bufferAtomic g r bank op t v
    | none => none

/-! ## Leaving the issue queue inside a region -/

/-- Notes what a load took from the buffer (R153). (DEDUCED, log 56) -/
def State.noteForward (s : State) (g : Nat) (fs : List (Nat × Nat)) : State :=
  let f (r : TryRegion) : TryRegion := { r with fwd := r.fwd ++ fs.filter fun x => !r.fwd.contains x }
  if fs.isEmpty then s else s.modGrp g fun x => { x with tryR := x.tryR.map f }

/-- Bytes that a read inside a region already has: the buffer's first, then the core's own dirty bytes. -/
def State.regionHeld (s : State) (g : Nat) (r : TryRegion) (bank : Bool) (p : Piece) :
    List (Nat × Nat × List Byte) × List (Nat × Nat) × Bool :=
  let x := r.supplies bank p
  let l1 := if bank then [] else
    match (s.core (coreOf g)).line (s.ctxOf g) (p.addr / 128) with
    | some l => heldBytes p l.data l.dirty
    | none => []
  (x.1 ++ l1, x.2, x.1.length == p.len)

/-- A request of a region to the home of a piece. -/
def State.regionReq (s : State) (g : Nat) (f : Flight) (bank : Bool) (p : Piece) (body : ReqBody) (watch : Bool) :
    State × Flight :=
  let ctx := s.ctxOf g
  (s.pushReq
    { core := coreOf g, home := if bank then .bank (ownerOf g p.addr) else s.homeOf ctx p.addr, ctx := ctx, grp := g
      fid := f.entry.id, body := body, watch := if watch then some .region else none }, { f with left := f.left + 1 })

/-- One piece of a load inside a region: bytes of the buffer, and a watched fetch of the rest; EXPORT pages are read at
once and not watched (R145, R150). What the L1 holds of the line goes, for the fetch may bring newer bytes (R131). A load of the whole
group counts as lane 0's, in the watch and in the forwarding (R153). (DESIGN CHOICE, log 93) -/
def State.regionLoad (s : State) (g : Nat) (r : TryRegion) (f : Flight) (bank : Bool) (p : Piece) : State × Flight :=
  if !bank && s.exported (s.ctxOf g) p.addr then s.regionReq g f bank p (.read p false) false
  else
    let h := s.regionHeld g r bank p
    let f := { f with got := f.got ++ h.1 }
    let s := s.noteForward g h.2.1
    if h.2.2 then (s, f)
    else
      let s := if bank then s else s.dropClean (coreOf g) (s.ctxOf g) (p.addr / 128)
      s.regionReq g f bank p (.probe p (maskOf [laneNo p.lane]) true false) true

/-- One piece of a store: a probe of its page; scratchpad stores need none (R147). -/
def State.regionStore (s : State) (g : Nat) (f : Flight) (bank : Bool) (p : Piece) : State × Flight :=
  if bank then (s, f) else s.regionReq g f bank p (.probe p 0 false true) false

/-- One address of an atomic: a watched read and a probe for writing, for all its lanes (R149). -/
def State.regionAtomic (s : State) (g : Nat) (r : TryRegion) (f : Flight) (bank : Bool) (ps : List Piece) : State × Flight :=
  match ps with
  | [] => (s, f)
  | p :: _ =>
    let h := s.regionHeld g r bank p
    let f := { f with got := f.got ++ h.1 }
    let s := s.noteForward g (ps.flatMap fun q => h.2.1.map fun x => (laneNo q.lane, x.2))
    let s := if bank || h.2.2 then s else s.dropClean (coreOf g) (s.ctxOf g) (p.addr / 128)
    if h.2.2 && bank then (s, f)
    else s.regionReq g f bank p (.probe p (maskOf (ps.map fun q => laneNo q.lane)) (!h.2.2) (!bank)) (!h.2.2)

/-- A memory access leaves whole inside a region. -/
def State.leaveRegion (s : State) (g : Nat) (r : TryRegion) (f : Flight) (kind : AccKind) (bank : Bool)
    (ps : List Piece) : State × Flight :=
  let (regions, plain) := if bank then ([], ps) else byRegion ps
  let x := regions.foldl (fun x b => x.1.leaveColander g x.2 b.1 kind b.2) (s, f)
  match kind with
  | .load _ => plain.foldl (fun x p => x.1.regionLoad g r x.2 bank p) x
  | .store => plain.foldl (fun x p => x.1.regionStore g x.2 bank p) x
  | .atomic _ => (byAddr plain).foldl (fun x ps => x.1.regionAtomic g r x.2 bank ps) x
  | .red _ => (byAddr plain).foldl (fun x ps => x.1.regionAtomic g r x.2 bank ps) x
  | .skqv => x
  | .skstat => x

end Sys2Proof.Machine
end

