-- ==== Sys2Proof/Machine/Complete.lean ====
section
/-! DEFINITION. Completions: responses that reach a core (R163), the end of an access with its values and faults (R132,
R103, R107, R172), fault service (R229), deferred faults, the completion of fences (R137, R138, R165, R166), the landing
of results (R31, R32) and the delivery of a trap (R102). -/

namespace Sys2Proof.Machine

/-! ## The end of an access -/

/-- Byte `i` of a lane's datum: the first source that holds it. -/
def Flight.byte (f : Flight) (lane i : Nat) : Byte :=
  match f.got.find? fun x => x.1 == lane && decide (x.2.1 ≤ i) && decide (i < x.2.1 + x.2.2.length) with
  | some x => x.2.2.getD (i - x.2.1) 0
  | none => 0

def Flight.bytes (f : Flight) (lane n : Nat) : List Byte := (List.range n).map fun i => f.byte lane i

/-- Bytes of a lane's datum. -/
def AccKind.size (k : AccKind) : Nat :=
  match k with
  | .load z => z.bytes
  | .store => 0
  | .atomic op => op.size
  | .red _ => 0
  | .skqv => 8
  | .skstat => 8

/-- Register `j` of a lane's datum. -/
def AccKind.value (k : AccKind) (bs : List Byte) (j : Nat) : Word :=
  match k with
  | .load z => extended z bs j
  | _ => wordAt bs j

/-- Lanes of an access's pieces that performed: those not refused, and those that SKSAT reports (R252). -/
def Flight.performed (f : Flight) (ps : List Piece) : List Nat :=
  ((ps.map fun p => p.lane).eraseDups).filter fun l =>
    !(f.bad.any fun b => b.1 == l && b.2.1 != Code.SKSAT)

/-- Values for the destination registers of an access. -/
def Flight.values (f : Flight) (kind : AccKind) (ls : List Nat) (r : Reg) : Mask × List Word :=
  let j (n : Nat) : Nat := n - f.entry.dst
  let scalar (n : Nat) : Mask × List Word :=
    if ls.isEmpty then (0, []) else (1, [kind.value (f.bytes 96 kind.size) (j n)])
  match r with
  | .v n => (maskOf ls, perLane fun i => if ls.contains i then kind.value (f.bytes i kind.size) (j n) else 0)
  | .s n => scalar n
  | .act k => scalar (56 + k)
  | _ => (0, [])

/-- The access belongs to the group's open region. -/
def Group.region? (g : Group) (e : Entry) : Option TryRegion :=
  match g.tryR with
  | some r => if r.startId ≤ e.id then some r else none
  | none => none

/-- Writes of an access inside a region enter the buffer; atomics also yield their old values. None: no room. -/
def State.buffered (s : State) (g : Nat) (r : TryRegion) (f : Flight) (kind : AccKind) (bank : Bool) (ps : List Piece) :
    Option (TryRegion × Flight) :=
  let atomic (op : AtOp) : Option (TryRegion × Flight) :=
    (byAddr ps).foldl (fun x qs =>
      match x, qs with
      | some x, p :: _ =>
        let m := f.bytes p.lane op.size
        let olds := (op.aggregate qs m).1.map fun y => (y.1, 0, y.2)
        (s.bufferAtomic g x.1 bank op qs m).map fun r => (r, { x.2 with got := olds ++ x.2.got })
      | x, _ => x) (some (r, f))
  match kind with
  | .store => (s.bufferPieces g r bank (byLane ps)).map fun r => (r, f)
  | .atomic op => atomic op
  | .red op => atomic op
  | _ => some (r, f)

/-- The lanes that performed get their effects: a region's writes enter its buffer, values go to the results. A write of a region to a page
that turns out to be an EXPORT page aborts it (R150). -/
def State.give (s : State) (g : Nat) (f : Flight) (kind : AccKind) (bank : Bool) (ps : List Piece) (last : Bool) : State :=
  let ls := f.performed ps
  let mine := ps.filter fun p => ls.contains p.lane
  let supply (s : State) (f : Flight) : State :=
    if kind.returns then s.modGrp g fun x => x.supply f.entry.id (f.values kind ls) last else s
  match (s.grp g).region? f.entry with
  | none => supply s f
  | some r =>
    if !bank && kind.writes && ps.any fun p => s.exported (s.ctxOf g) p.addr then s.abortTry g abSCOPE 0 0
    else match s.buffered g r f kind bank mine with
    | none => s.abortTry g abOVERFLOW 0 0
    | some x => supply (s.modGrp g fun y => { y with tryR := some x.1 }) x.2

/-- Removes a flight. -/
def State.dropFlight (s : State) (g id : Nat) : State :=
  s.modGrp g fun x => { x with flights := x.flights.filter fun f => f.entry.id != id }

/-- Replaces a flight. -/
def State.setFlight (s : State) (g : Nat) (f : Flight) : State :=
  s.modGrp g fun x => { x with flights := x.flights.map fun y => if y.entry.id == f.entry.id then f else y }

/-- Lanes that firmware is asked about first (R228). -/
def serviceable (bad : List Bad) : List Bad := bad.filter fun b => b.2.1 == Code.PFNP || b.2.1 == Code.PFWP

/-- The replay that the lanes of an access, or a word of major 0x1C, wait for which have not performed (R172). -/
def State.replayOf (s : State) (ctx : Nat) (e : Entry) (bad : List Bad) : List Replay :=
  let wait (bank : Bool) (ps : List Piece) : Replay :=
    { slotB := e.slotB, pos := e.pos, repi := e.repi, serial := e.serial, id := e.id, bank := bank, ps := ps }
  match e.body with
  | .mem _ bank ps =>
    let left := ps.filter fun p => bad.any fun b => b.1 == p.lane && b.2.1 != Code.SKSAT
    if left.isEmpty then [] else [wait bank left]
  | .sk op base arg =>
    let regions := (skRegions op base arg).map fun w => ({ lane := 96, addr := w, len := 0, win := some w } : Piece)
    let area := s.skArea ctx op base arg
    if bad.all fun b => b.2.1 == Code.SKSAT then []
    else [wait false (regions ++ [{ lane := 96, addr := area.1, len := area.2 }])]
  | _ => []

/-- Raises what a completed access reports: class E, class D for stores, RED and RMWU (R241), an abort inside a region; the replay of the
lanes that have performed nothing is pending from then on (R172). -/
def State.report (s : State) (g : Nat) (e : Entry) (bad : List Bad) (returns writes : Bool) (perf : Mask) : State :=
  match firstCause bad with
  | none => s
  | some k =>
    let x := s.grp g
    if x.dead then s
    else if (x.region? e).isSome then s.abortTry g abTRAP k 0
    else
      let now := returns && k != Code.RMWU
      let r : Raised :=
        { cause := k, cls := if now then .e else .d, slotB := e.slotB, pos := e.pos, mask := badMask bad k
          done := e.done ||| perf, info := infoOf k e.opc writes, faddr := badAddrs bad k, repi := e.repi
          resume := e.resume, serial := e.serial }
      let x := if e.handler then x else { x with replays := x.replays ++ s.replayOf (s.ctxOf g) e bad }
      if now then ((s.setGrp g x).raise g r).settle g else s.setGrp g { x with deferred := x.deferred ++ [r] }

/-- An access all of whose responses have arrived. `final` says that firmware has declined. -/
def State.finish (s : State) (g : Nat) (f : Flight) (final : Bool) : State :=
  let asked := !(serviceable f.bad).isEmpty && !final
  match f.entry.body with
  | .mem kind bank ps =>
    if asked then (s.give g f kind bank ps false).setFlight g { f with serviced := true }
    else
      let s := s.give g f kind bank ps true
      let gone := !((s.grp g).flights.any fun x => x.entry.id == f.entry.id)
      let s := s.dropFlight g f.entry.id
      if gone then s else s.report g f.entry (f.entry.bad ++ f.bad) kind.returns kind.writes (maskOf ((f.performed ps).map laneNo))
  | .sk .. =>
    if asked then s.setFlight g { f with serviced := true }
    else
      let perf : Mask := if f.bad.any fun b => b.2.1 == Code.SKSAT then 1 else 0
      (s.dropFlight g f.entry.id).report g f.entry f.bad true false perf
  | _ => s.dropFlight g f.entry.id

/-- Ends the flight if nothing more is to come. -/
def State.finishIf (s : State) (g : Nat) (f : Flight) : State :=
  if f.left = 0 then s.finish g f false else s.setFlight g f

/-! ## RESPONSE_ARRIVE (R163) -/

/-- What a response brings to its access. -/
def Flight.take (f : Flight) (b : RespBody) : Flight :=
  let f := { f with left := f.left - 1 }
  match b with
  | .data p bs => { f with got := f.got ++ [(p.lane, p.off, bs)] }
  | .fill p _ _ bs => { f with got := f.got ++ [(p.lane, p.off, part bs (p.addr % 128) p.len)] }
  | .olds xs => { f with got := f.got ++ xs.map fun x => (x.1, 0, x.2) }
  | .ack => f
  | .faults bad good => { f with bad := f.bad ++ bad, got := f.got ++ good.map fun x => (x.1, 0, x.2) }
  | .stopped c va row sat => { f with bad := f.bad ++ [(96, c, va)], entry := { f.entry with row := row, sat := sat } }

/-- A response reaches its core: a fill enters the L1, and the access goes on or ends. -/
def State.arrive (s : State) (k : Nat) : State :=
  match s.resps[k]? with
  | none => s
  | some r =>
    let s := { s with resps := dropAt s.resps k }
    let s := match r.body with
      | .fill _ line valid bs => (s.setCore r.core ((s.core r.core).fill r.ctx line valid bs)).fitL1 r.core
      | _ => s
    match (s.grp r.grp).flights.find? fun f => f.entry.id == r.fid with
    | some f => s.finishIf r.grp (f.take r.body)
    | none => s

/-- RESPONSE_ARRIVE (R163). -/
def execResponseArrive (k : Nat) (s : State) : Host.Outcome State Fault Refusal := .next (s.arrive k)

/-! ## Fault service (R229) -/

/-- The page that refused a lane now passes the check. -/
def State.nowMapped (s : State) (ctx : Nat) (b : Bad) : Bool :=
  let k : Acc := if b.2.1 == Code.PFWP then .write else .read
  (s.translate ctx b.2.2 k).toBool

/-- Lanes `again` of those refused by translation are replayed as a new access, in the place of the old one (R172). -/
def State.replayLanes (s : State) (g : Nat) (f : Flight) (again : List Nat) : State :=
  let rest := f.bad.filter fun b => !again.contains b.1
  let e := f.entry
  let body : EntryBody := match e.body with
    | .mem kind bank ps => .mem kind bank (ps.filter fun p => again.contains p.lane)
    | x => x
  let perf := match e.body with
    | .mem _ _ ps => maskOf ((f.performed ps).map laneNo)
    | _ => 0
  let e' := { e with body := body, bad := e.bad ++ rest, done := e.done ||| perf }
  (s.dropFlight g e.id).modGrp g fun x => { x with queue := insertEntry e' x.queue }

/-- The page of an address that a lane waits for is mapped, or firmware would decline it now. -/
def State.pageSettled (s : State) (ctx va : Nat) : Bool := (s.leaf ctx va).isSome || !s.hostMapped ctx va

/-- The address for whose page the slot's word waits. -/
def Slot.serviced (y : Slot) : Option Nat :=
  match y.park with
  | some p => match p.why with
    | .service va => some va
    | _ => none
  | none => none

/-- Firmware is looking at an access or a word of the group. -/
def Group.asking (x : Group) : Bool := (x.flights.any fun f => f.serviced) || x.a.serviced.isSome || x.b.serviced.isSome

/-! ## Deferred faults (R103) -/

/-- DEFERRED_FAULT_RETURN (R103): the fault of a store or RED that has returned is raised as class D. (DEDUCED, log 17) -/
def execDeferredFaultReturn (grp : Nat) (s : State) : Host.Outcome State Fault Refusal :=
  .next (match (s.grp grp).deferred with
    | [] => s
    | r :: t => ((s.modGrp grp fun x => { x with deferred := t }).raise grp r).settle grp)

/-! ## Fences (R137, R138, R165, R166) -/

/-- What was issued before a fence has landed (R137, R165); inside a try region the fence covers what was issued before TRY, which had
landed then (R141, R150). -/
def State.fenceLanded (s : State) (g : Nat) (e : Entry) : Bool := (s.grp g).tryR.isSome || s.landed g e

/-- Completion of the first fence of the queue, at position `i`. -/
def State.endFence (s : State) (g i : Nat) (e : Entry) (k : FKind) (p : Scope) : State :=
  let s := s.modGrp g fun x => { x with queue := dropAt x.queue i }
  let s := if k != .rel && decide (2 ≤ scopeNo p) then s.acquire (coreOf g) (s.ctxOf g) else s
  match (s.grp g).spec with
  | none => s
  | some f =>
    if f.id = e.id then
      (s.unwatch g .fence).modGrp g fun x => if f.roll then x.rollFence f else { x with spec := none }
    else s

/-- Position of the first fence of a scope wider than the group, among a handler's entries or among the others. -/
def firstFence (q : List Entry) (handler : Bool) : Option Nat := q.findIdx? fun e => e.fence?.isSome && e.handler == handler

/-- The first fence of those that a handler issued, or of the others: once what was issued before it has landed, the context's dirty bytes
leave the L1, and the fence ends when those bytes are at their homes (R165). -/
def State.fenceStep (s : State) (g : Nat) (handler : Bool) : State :=
  let x := s.grp g
  match firstFence x.queue handler with
  | none => s
  | some i =>
    match x.queue[i]? with
    | none => s
    | some e =>
      match e.body with
      | .fence k p _ =>
        let before := x.earlier i e
        let maint := before.any Entry.isMaint || x.flights.any fun f => f.entry.isMaint
        if maint || before.any (fun y => y.fence?.isSome) then s
        else if k = .acq then s.endFence g i e k p
        else if !before.isEmpty ∨ s.fenceLanded g e = false then s
        else if scopeNo p ≤ 1 ∨ s.wbDone (coreOf g) (s.ctxOf g) e.moved = true then s.endFence g i e k p
        else s.startRelease g p e
      | _ => s

/-- FENCE_COMPLETE (R165): the first fence of the queue; while a trap's replay is pending, the first of its handler as well (R172). -/
def State.fenceComplete (s : State) (g : Nat) : State := (s.fenceStep g false).fenceStep g true

/-- FENCE_COMPLETE (R165). -/
def execFenceComplete (grp : Nat) (s : State) : Host.Outcome State Fault Refusal := .next (s.fenceComplete grp)

/-! ## Results (R31, R32) -/

/-- An earlier result of the same slot for the same register and a common lane is still outstanding. -/
def resultBlocked (xs : List Result) (k : Nat) (x : Result) (m : Mask) : Bool :=
  (xs.take k).any fun y => y.reg == x.reg && y.slotB == x.slotB && y.mask &&& m != 0

/-- The park of a marked bundle ends: what the slots wrote before it is settled (R19, R32). -/
def Group.endSync (x : Group) : Group := if x.sync then { x with sync := false, wroteA := [], wroteB := [] } else x

/-- Once every result is written, the park of a marked bundle ends and a waiting trap is taken (R32, R102). -/
def State.quiet (s : State) (g : Nat) : State :=
  let x := s.grp g
  if x.out.isEmpty then (s.setGrp g x.endSync).settle g else s

/-- A result lands in lanes `m`. -/
def State.land (s : State) (g k : Nat) (m : Mask) : State :=
  let x := s.grp g
  match x.out[k]? with
  | none => s
  | some r =>
    let m := m &&& r.mask
    if r.src ≠ 0 ∨ m = 0 ∨ resultBlocked x.out k r m = true then s
    else
      let x := x.landed r m
      let rest := r.mask &&& ~~~m
      let out := if rest = 0 then dropAt x.out k else setAt x.out k { r with mask := rest }
      (s.setGrp g { x with out := out }).quiet g

/-- RESULT_WRITE (R31). -/
def execResultWrite (grp k : Nat) (lanes : Mask) (s : State) : Host.Outcome State Fault Refusal := .next (s.land grp k lanes)

/-- TRAP_DELIVER (R102). -/
def execTrapDeliver (grp : Nat) (s : State) : Host.Outcome State Fault Refusal := .next (s.settle grp)

end Sys2Proof.Machine
end

