-- ==== Sys2Proof/Machine/Engine.lean ====
section
/-! DEFINITION. Reads and writes that engines make at homes (R160, R185, R193, R229, R240-R242): each is one piece that lies
in one line; a range is read or written piece by piece (R169). -/

namespace Sys2Proof.Machine

/-- How an engine's access goes: performed with the bytes it read, to wait for a frozen page, or refused with a cause, in the state
that the attempt leaves (R240); a translation fault keeps its address, for firmware is asked first (R229). -/
inductive EngRes where
  | ok (s : State) (bs : List Byte)
  | wait
  | fault (s : State) (c : Cause) (va : Option Nat)

/-- Bytes left in the 128-byte line from an address on. -/
def lineLeft (a : Nat) : Nat := 128 - a % 128

/-- An access at a memory-side cache touches the pinned windows (R233). -/
def State.engTouch (s : State) (ctx va : Nat) (exp : Bool) : State :=
  if s.reachesMsc ctx va exp then s.touchPins ctx va else s

/-- The resource that serves an address (R236): a die's LLC, or the stack of an EXPORT page. -/
def resourceOf (va : Nat) (exp : Bool) : Nat := if exp then 4 + chanOf va / 32 else sliceOf va / 32

/-- A regulated agent takes tokens; none while they have not been granted (R236). (DEDUCED, log 39) -/
def State.takeTokens (s : State) (ctx cls res n : Nat) : Option State :=
  let c := s.ctx ctx
  let k := 12 * cls + res
  if fld (tgetD c.reg k 0).toNat 16 11 = 0 then some s
  else
    let have_ := tgetD c.granted k 0
    if n ≤ have_ then some (s.setCtx ctx { c with granted := tset c.granted k (have_ - n) }) else none

/-- Reads `n` bytes that lie in one line for an agent of class `cls`; `bank`: a cluster address of cluster `cl`. -/
def State.engRead (s : State) (cls ctx cl : Nat) (bank : Bool) (a n : Nat) : EngRes :=
  if n = 0 then .ok s []
  else if bank then
    if s.clusterRange ctx cl a n then .ok s (s.spadBytes (ownerIn cl a) (a % 262144) n) else .fault s Code.CSPBND none
  else if (s.window ctx a).isSome then .fault s Code.CPYBND none
  else
    match s.translate ctx a .read with
    | .error c => .fault s c (some a)
    | .ok e =>
      let gs := s.granules ctx a n
      match s.eccCheck gs with
      | some c => .fault (s.readEcc gs) c none
      | none =>
        match s.takeTokens ctx cls (resourceOf a (leafExport e)) n with
        | none => .wait
        | some s => .ok (s.engTouch ctx a (leafExport e)) (s.homeBytes ctx a n)

/-- The cause that refuses a write of `n` bytes that lie in one line as their homes stand now, with the address of a translation fault. -/
def State.engRefuses (s : State) (ctx cl : Nat) (bank : Bool) (a n : Nat) : Option (Cause × Option Nat) :=
  if n = 0 then none
  else if bank then if s.clusterRange ctx cl a n then none else some (Code.CSPBND, none)
  else if (s.window ctx a).isSome then some (Code.CPYBND, none)
  else
    match s.translate ctx a .write with
    | .error c => some (c, some a)
    | .ok _ =>
      if (s.eccCheck (s.splitGranules ctx (a / 128 * 128) (lineMask (a % 128) n)).2).isSome then some (Code.RMWU, none) else none

/-- Some of the bytes of a range cannot be written. -/
def State.rangeRefuses (s : State) (ctx cl : Nat) (bank : Bool) (a n : Nat) : Option (Cause × Option Nat) :=
  (linePieces (n / 128 + 2) a 0 n).findSome? fun p => s.engRefuses ctx cl bank (a + p.1) p.2

/-- Writes bytes that lie in one line. -/
def State.engWrite (s : State) (cls ctx cl : Nat) (bank : Bool) (a : Nat) (bs : List Byte) : EngRes :=
  if bs.isEmpty then .ok s []
  else if bank then
    if s.clusterRange ctx cl a bs.length then .ok (s.setSpad (ownerIn cl a) (a % 262144) bs none) []
    else .fault s Code.CSPBND none
  else if (s.window ctx a).isSome then .fault s Code.CPYBND none
  else if s.heldWrite ctx a then .wait
  else
    match s.translate ctx a .write with
    | .error c => .fault s c (some a)
    | .ok e =>
      match s.takeTokens ctx cls (resourceOf a (leafExport e)) bs.length with
      | none => .wait
      | some s =>
        match s.homeWrite ctx (a / 128) (lineMask (a % 128) bs.length) (placed (a % 128) bs)
          none with
        | (.ok s, _) => .ok s []
        | (.error c, s) => .fault s c none

/-- The piece of a range of `n` bytes at `a` that begins at byte `off` and ends with its line. -/
def pieceAt (a n off : Nat) : Nat := min (n - off) (lineLeft (a + off))

/-- Reads the next piece of a range of which `off` bytes have been read. -/
def State.engReadNext (s : State) (cls ctx cl : Nat) (bank : Bool) (a n off : Nat) : EngRes :=
  s.engRead cls ctx cl bank (a + off) (pieceAt a n off)

/-- Writes the next piece of a range of which `off` bytes have been written. -/
def State.engWriteNext (s : State) (cls ctx cl : Nat) (bank : Bool) (a : Nat) (bs : List Byte) (off : Nat) : EngRes :=
  s.engWrite cls ctx cl bank (a + off) ((bs.drop off).take (pieceAt a bs.length off))

/-- Firmware declines the fault of an engine's access now: a page the host has not mapped, or PFWP (R229); every other
cause needs no service. -/
def State.declines (s : State) (ctx : Nat) (c : Cause) (va : Option Nat) : Bool :=
  match va with
  | none => true
  | some a => c == Code.PFWP || !s.hostMapped ctx a

end Sys2Proof.Machine
end

