-- ==== Sys2Proof/Machine/Tensor.lean ====
section
/-! DEFINITION. Tensor copies: block scales (R64), the quantiser (R65), the canonical tiles and their headers (R66), and
what expand and quantise do for one part of a card (R196, R197). -/

namespace Sys2Proof.Machine

open Sys2Proof.Fp

/-! ## Canonical elements (R66) -/

/-- Bytes of a canonical element. -/
def Card.canonW (c : Card) : Nat := if c.int8 then 1 else 2

/-- The value of a canonical element. (DEDUCED, log 27) -/
def Card.canonVal (c : Card) (code : Nat) : FVal :=
  if c.int8 then Fp.ofInt (BitVec.ofNat 8 code).toInt else bf16.unpack code

/-- A value in the canonical type, rounded by RNE, with its flags. -/
def Card.toCanon (c : Card) (v : FVal) : Nat × Word :=
  if c.int8 then
    let r := Fp.toInt (-128) 127 .rne v
    ((BitVec.ofInt 8 r.1).toNat, r.2)
  else bf16.ofVal .rne false v

/-- What an element contributes to MAXE (R66). -/
def Card.maxeOf (c : Card) (code : Nat) : Nat :=
  if c.int8 then
    let m := (BitVec.ofNat 8 code).toInt.natAbs
    if m = 0 then 0 else 127 + Nat.log2 m
  else code / 128 % 256

/-- A tile header: TYPE and MAXE. -/
def Card.header (c : Card) (maxe : Nat) : List Byte :=
  BitVec.ofNat 8 maxe :: (if c.int8 then (1 : Byte) else 0) :: List.replicate 14 0

/-! ## Blocks of a row (R64) -/

/-- Boundary bits of a row as read from memory, lowest element first. -/
def bitsOf (bs : List Byte) : List Bool := bs.flatMap fun b => (List.range 8).map fun i => b.getLsbD i

/-- Starts of blocks from the given bits: element 0, each bit, and after 256 elements without one where `cut`. -/
def starts (cut : Bool) : Nat → Nat → List Bool → List Bool
  | 0, _, _ => []
  | n + 1, since, bits =>
    let b := bits.headD false || since == 0 || (cut && since == 256)
    b :: starts cut n (if b then 1 else since + 1) bits.tail

/-- Block of each element. -/
def blocksOf : Nat → List Bool → List Nat
  | _, [] => []
  | k, b :: r => (if b then k + 1 else k) :: blocksOf (if b then k + 1 else k) r

/-- Longest block. -/
def longest : Nat → List Bool → Nat
  | n, [] => n
  | n, b :: r => max n (longest (if b then 1 else n + 1) r)

/-! ## What a card has read -/

/-- What keeps the next part of a card from being made: bytes of one line still to be read, or a cause. -/
inductive Lack where
  | need (bank : Bool) (adr n : Nat)
  | bad (c : Cause)

/-- Bytes of one line that the engine has read for the card's next part. -/
def Card.piece (c : Card) (bank : Bool) (a n : Nat) : Except Lack (List Byte) :=
  if n = 0 then .ok []
  else
    match c.seen.find? fun x => x.1 == c.taken && x.2.1 == bank && x.2.2.1 == a && x.2.2.2.length == n with
    | some x => .ok x.2.2.2
    | none => .error (.need bank a n)

/-- Bytes of a range that the engine has read, line by line: each line is an access of its own (R169). -/
def Card.look (c : Card) (bank : Bool) (a n : Nat) : Except Lack (List Byte) :=
  (linePieces (n / 128 + 2) a 0 n).foldlM (fun bs p => (c.piece bank (a + p.1) p.2).map (bs ++ ·)) []

/-! ## Reading a stored row (R194, R196) -/

/-- A global range of the card's context. -/
def Card.fetchAll (c : Card) (a n : Nat) : Except Lack (List Byte) := c.look false (a % 18446744073709551616) n

/-- Start of row `r`'s bitmap. -/
def Card.bitsAt (c : Card) (r : Nat) : Nat := c.dSide + c.rows * c.dSstr + r * (c.cols / 8)

/-- Block starts of row `r`; CPYFMT where the bitmap breaks R64. -/
def Card.rowStarts (c : Card) (r : Nat) (cut : Bool) : Except Lack (List Bool) :=
  if c.dBmap then do
    let bs ← c.fetchAll (c.bitsAt r) (c.cols / 8)
    let b := starts cut c.cols 0 (bitsOf bs)
    if 256 < longest 0 b then .error (.bad Code.CPYFMT) else .ok b
  else .ok (starts true c.cols 0 [])

/-- The value of a stored element of an ordinary format, or of a narrow one under the scale byte `e`. -/
def Card.storedVal (c : Card) (code e : Nat) : FVal :=
  if c.narrow then
    if e = 255 then .nan false
    else
      match nfUnpack c.nf code with
      | .fin n m x => .fin n m (x + e - 127)
      | v => v
  else if c.dFmt = 3 then Fp.ofInt (BitVec.ofNat 8 code).toInt
  else c.storedFmt.unpack code

/-- A stored element in the canonical type with its flags; BF16 and i8 pass unchanged. -/
def Card.canonOf (c : Card) (code e : Nat) : Nat × Word :=
  if c.dFmt = 1 ∨ c.dFmt = 3 then (code, 0) else c.toCanon (c.storedVal code e)

/-- Significant bits of a stored code: the high bits of a narrow code are ignored. -/
def Card.codeBits (c : Card) (code : Nat) : Nat :=
  if c.narrow then
    let f := storedFmt c
    code % 2 ^ (f.ebits + f.mbits + (if f.sign then 1 else 0))
  else code

/-- `n` canonical elements of row `r` from column `k` on, with their flags (R196). -/
def Card.expandRow (c : Card) (r k n : Nat) : Except Lack (List Nat × Word) := do
  let w := c.dWidth
  let data ← c.fetchAll (c.dData + r * c.dPitch + k * w) (n * w)
  let code (i : Nat) : Nat := c.codeBits (leNat ((data.drop (i * w)).take w))
  let all (es : List (Nat × Word)) : List Nat × Word := (es.map Prod.fst, es.foldl (fun f e => f ||| e.2) 0)
  if !c.narrow then .ok (all ((List.range n).map fun i => c.canonOf (code i) 0))
  else
    let bl := blocksOf 0 (← c.rowStarts r false)
    if c.dSstr < bl.getLastD 0 then .error (.bad Code.CPYFMT)
    else
      let sc ← c.fetchAll (c.dSide + r * c.dSstr) (bl.getLastD 0)
      .ok (all ((List.range n).map fun i => c.canonOf (code i) (sc.getD (bl.getD (k + i) 1 - 1) 0).toNat))

/-- Row and column of element `i` of tile `t`. -/
def Card.place (c : Card) (t i : Nat) : Nat × Nat :=
  let across := c.cols / c.tileW
  (t / across * 32 + i / c.tileW, t % across * c.tileW + i % c.tileW)

/-- Bytes of canonical elements. -/
def Card.canonBytes (c : Card) (es : List Nat) : List Byte := es.flatMap fun e => leBytes c.canonW e

/-! ## Quantise (R65, R197) -/

/-- a x 2^ea ≤ b x 2^eb. -/
def magLe (a : Nat) (ea : Int) (b : Nat) (eb : Int) : Bool :=
  let q := min ea eb
  decide (a * 2 ^ (ea - q).toNat ≤ b * 2 ^ (eb - q).toNat)

/-- Magnitude of a finite value. -/
def magOf (v : FVal) : Nat × Int :=
  match v with
  | .fin _ m e => (m, e)
  | _ => (0, 0)

def isSpecial (v : FVal) : Bool :=
  match v with
  | .nan _ => true
  | .inf _ => true
  | _ => false

/-- The larger of two magnitudes. -/
def magMax (a b : Nat × Int) : Nat × Int := if magLe a.1 a.2 b.1 b.2 then b else a

/-- The scale byte of a block (R65). -/
def scaleOf (f : Fmt) (vs : List FVal) : Nat :=
  if vs.any isSpecial then 255
  else
    let a := vs.foldl (fun m v => magMax m (magOf v)) (0, 0)
    if a.1 = 0 then 127
    else
      let top := magOf ({ f with ieee := false }.unpack f.maxMag)
      ((List.range 255).find? fun (e : Nat) => magLe a.1 a.2 top.1 (top.2 + (e : Int) - 127)).getD 254

/-- The narrow code of an element under a scale byte. In a block quantised to e = 255, for which R65 gives the codes alone, no element
raises a flag. (DESIGN CHOICE, log 99) -/
def quantCode (f : Fmt) (m : Mode) (e : Nat) (v : FVal) : Nat × Word :=
  if e = 255 then (0, 0)
  else
    f.toNarrow m (match v with
      | .fin n x k => .fin n x (k + 127 - e)
      | v => v)

/-- A stored code of an ordinary format (R63). The conversions of a card keep subnormals, whatever %mode.FTZ of the posting group holds.
(DESIGN CHOICE, log 112) -/
def Card.plainCode (c : Card) (m : Mode) (v : FVal) : Nat × Word :=
  if c.dFmt = 3 then
    let r := Fp.toInt (-128) 127 m v
    ((BitVec.ofInt 8 r.1).toNat, r.2)
  else c.storedFmt.ofVal m false v

/-- The rounding mode for element `i` of a card: a stochastic one draws free bits. -/
def Card.mode (c : Card) (i : Nat) : Mode :=
  match c.rm.toNat with
  | 2 => .rz
  | 3 => .rdn
  | 4 => .rup
  | 5 => .rna
  | 6 => .rsto ((Config.freeByte (2 * i)).toNat + 256 * (Config.freeByte (2 * i + 1)).toNat)
  | _ => .rne

/-- One row quantised: data bytes, scale bytes, bitmap bytes, flags. -/
structure QRow where
  data : List Byte
  scales : List Byte := []
  bits : List Byte := []
  flags : Word := 0

/-- Bits packed lowest first. -/
def packBits (bits : List Bool) (n : Nat) : List Byte :=
  (List.range n).map fun k =>
    BitVec.ofNat 8 ((List.range 8).foldl (fun v i => v + (if bits.getD (8 * k + i) false then 2 ^ i else 0)) 0)

/-- Quantises the canonical codes of a row; `at_` numbers its first element for stochastic draws. (DEDUCED, log 27) -/
def Card.quantRow (c : Card) (codes : List Nat) (st : List Bool) (at_ : Nat) : QRow :=
  let vs := codes.map c.canonVal
  let n := codes.length
  if !c.narrow then
    let es := (List.range n).map fun i => c.plainCode (c.mode (at_ + i)) (vs.getD i (.zero false))
    { data := es.flatMap fun e => leBytes c.dWidth e.1, flags := es.foldl (fun f e => f ||| e.2) 0 }
  else
    let f := c.storedFmt
    let bl := blocksOf 0 st
    let sc := (List.range (bl.getLastD 0)).map fun k =>
      scaleOf f ((List.range n).filterMap fun i => if bl.getD i 0 = k + 1 then vs[i]? else none)
    let es := (List.range n).map fun i =>
      quantCode f (c.mode (at_ + i)) (sc.getD (bl.getD i 1 - 1) 0) (vs.getD i (.zero false))
    { data := es.map fun e => BitVec.ofNat 8 e.1, scales := sc.map fun e => BitVec.ofNat 8 e
      bits := packBits st (c.cols / 8), flags := es.foldl (fun f e => f ||| e.2) 0 }

/-- The writes of one quantised row: an element counts the bytes of its canonical form, scales and bitmap none. (DEDUCED, log 57) -/
def Card.rowWrites (c : Card) (r : Nat) (q : QRow) : List CardWrite :=
  let cut (a : Nat) (bs : List Byte) (count : Nat → Nat) : List CardWrite :=
    (linePieces (bs.length / 128 + 2) a 0 bs.length).map fun p =>
      { bank := false, adr := (a + p.1) % 18446744073709551616, bytes := (bs.drop p.1).take p.2, count := count p.2 }
  cut (c.dData + r * c.dPitch) q.data (fun n => n / c.dWidth * c.canonW) ++ cut (c.dSide + r * c.dSstr) q.scales (fun _ => 0) ++
    (if c.dBmap then cut (c.bitsAt r) q.bits (fun _ => 0) else [])

end Sys2Proof.Machine
end

