-- ==== Sys2Proof/Machine/Copy.lean ====
section
/-! DEFINITION. The copy engine's steps on copy cards (R169, R184, R185, R188, R193): admission, one delivery write,
completion, fault, and what the queue and the quota hold back. -/

namespace Sys2Proof.Machine

/-! ## Admission (R169, R184) -/

/-- Footprints of one context overlap, one of the two writing. (DEDUCED, log 61) -/
def areasClash (r1 w1 r2 w2 : List Area) : Bool :=
  w1.any (fun a => (r2 ++ w2).any fun b => a.meets b) || r1.any fun a => w2.any fun b => a.meets b

/-- Scratchpad regions are named by core and offset, global ones by context too. -/
def sameSpace (ctx ctx' : Nat) (as : List Area) : List Area := if ctx = ctx' then as else as.filter fun a => a.1

/-- Footprint of a matrix operation on its cluster's scratchpads (R206): read regions and write regions. -/
def MatOp.reads (o : MatOp) : List Area := o.foot.filterMap fun a => if a.1 then none else some (true, a.2.1, a.2.2)
def MatOp.writes (o : MatOp) : List Area := o.foot.filterMap fun a => if a.1 then some (true, a.2.1, a.2.2) else none

/-- Cards and matrix operations posted in the cluster before number `id` and unfinished: context, reads, writes. -/
def State.earlier (s : State) (cl id : Nat) : List (Nat × List Area × List Area) :=
  let cards := (s.cluster cl).chans.flatMap fun e => e.2.queue.filter fun c => decide (c.id < id)
  let ops := s.cores.flatMap fun e => if clusterOf e.1 = cl then e.2.mq.filter fun o => decide (o.posted < id) else []
  cards.map (fun c => (c.ctx, c.reads, c.writes)) ++ ops.map fun o => (s.ctxOf o.grp, o.reads, o.writes)

/-- Nothing posted earlier in the cluster and unfinished overlaps the footprint. (DEDUCED, log 61) -/
def State.footClear (s : State) (cl id ctx : Nat) (reads writes : List Area) : Bool :=
  !(s.earlier cl id).any fun e =>
    areasClash (sameSpace ctx e.1 e.2.1) (sameSpace ctx e.1 e.2.2) (sameSpace ctx e.1 reads) (sameSpace ctx e.1 writes)

/-- Slots that a length takes (R184). (DEDUCED, log 60) -/
def slotsFor (x : Ring) (n : Nat) : Nat := if x.size = 0 then 0 else (n + x.size - 1) / x.size

/-- Length of a ring side in bytes. (DEDUCED, log 60) -/
def Card.ringLen (c : Card) : Nat := match c.kind with | .cpyt => c.tileSpan | _ => c.len

/-- The cause that a card's rings give it: unbound or of another context, or more than 64 slots. (DEDUCED, log 60) -/
def State.ringCause (s : State) (cl : Nat) (c : Card) : Option Cause :=
  let bad (on : Bool) (r : Nat) : Option Cause :=
    let x := s.ring cl r
    if !on then none
    else if !x.v || x.ctx != c.ctx then some Code.RINGBAD
    else if 64 < slotsFor x c.ringLen then some Code.CPYBND
    else none
  match bad c.rin c.iring with
  | some k => some k
  | none => bad c.rout c.oring

/-- The card's rings have the slots it needs. -/
def State.ringsReady (s : State) (cl : Nat) (c : Card) : Bool :=
  let i := s.ring cl c.iring
  let o := s.ring cl c.oring
  (!c.rin || i.canWait (slotsFor i c.ringLen)) && (!c.rout || o.canAcq (slotsFor o c.ringLen))

/-- Takes a card's ring slots. (DEDUCED, log 60) -/
def State.takeRings (s : State) (cl : Nat) (c : Card) : State × Card :=
  let r :=
    if c.rin then
      let n := slotsFor (s.ring cl c.iring) c.ringLen
      match s.takeSlots cl c.iring false n with
      | some (k, _, t) => (t, { c with inSeq := k, inCnt := n })
      | none => (s, c)
    else (s, c)
  if c.rout then
    let n := slotsFor (r.1.ring cl c.oring) c.ringLen
    match r.1.takeSlots cl c.oring true n with
    | some (k, _, t) => (t, { r.2 with outSeq := k, outCnt := n })
    | none => r
  else r

/-! ## Sides of a card as addresses -/

/-- A place that bytes move from or to: scratchpad or not, address, bytes that follow it in one line or slot. -/
structure Place where
  bank : Bool
  adr : Nat
  left : Nat

/-- Byte `off` of a ring side. -/
def Ring.place (x : Ring) (seq : BitVec 16) (off : Nat) : Place :=
  let k := off / max 1 x.size
  let o := off % max 1 x.size
  let a := x.slot ((seq + BitVec.ofNat 16 k).toNat) + o
  { bank := true, adr := a, left := min (x.size - o) (lineLeft a) }

/-- Byte at an address of a space. -/
def placeAt (sp a : Nat) : Place :=
  { bank := sp != 3, adr := if sp = 3 then a % 18446744073709551616 else a, left := lineLeft a }

def State.srcPlace (s : State) (cl : Nat) (c : Card) (off : Nat) : Place :=
  if c.rin then (s.ring cl c.iring).place c.inSeq off else placeAt c.ssp (c.adr 0 + off)

def State.dstPlace (s : State) (cl : Nat) (c : Card) (off : Nat) : Place :=
  if c.rout then (s.ring cl c.oring).place c.outSeq off else placeAt c.dsp (c.adr 2 + off)

/-- `n` bytes of the source side from byte `off` on, where the engine has read them. -/
def State.srcBytes (s : State) (cl : Nat) (c : Card) : Nat → Nat → Nat → Except Lack (List Byte)
  | 0, _, _ => .ok []
  | fuel + 1, off, n =>
    if n = 0 then .ok []
    else do
      let p := s.srcPlace cl c off
      let k := min n p.left
      let a ← c.piece p.bank p.adr k
      let b ← s.srcBytes cl c fuel (off + k) (n - k)
      .ok (a ++ b)

/-- The writes that bring bytes to the destination side from byte `off` on. -/
def State.dstWrites (s : State) (cl : Nat) (c : Card) : Nat → Nat → List Byte → List CardWrite
  | 0, _, _ => []
  | fuel + 1, off, bs =>
    if bs.isEmpty then []
    else
      let q := s.dstPlace cl c off
      let k := min bs.length q.left
      { bank := q.bank, adr := q.adr, bytes := bs.take k, count := k } :: s.dstWrites cl c fuel (off + k) (bs.drop k)

/-- The writes that bring bytes to an address of a space. -/
def writesAt (sp a : Nat) (bs : List Byte) : List CardWrite :=
  (linePieces (bs.length / 128 + 2) a 0 bs.length).map fun p =>
    let q := placeAt sp (a + p.1)
    { bank := q.bank, adr := q.adr, bytes := (bs.drop p.1).take p.2, count := p.2 }

/-! ## The parts of a card, in delivery order (R185): what each reads and the writes it makes -/

/-- A card with a part of it done: how far the engine has read, and the writes this makes. -/
def Card.made (c : Card) (n : Nat) (ws : List CardWrite) : Card :=
  { c with taken := c.taken + n, seen := c.seen.filter fun x => x.1 != c.taken, buf := c.buf ++ ws }

/-- Bytes, elements or rows of the part that the card is at. -/
def State.partLen (s : State) (cl : Nat) (c : Card) : Nat :=
  match c.kind with
  | .cpy => min (c.len - c.taken) (s.srcPlace cl c c.taken).left
  | .cpy2 =>
    let k := c.taken % max 1 c.cols
    min (c.cols - k) (placeAt c.ssp (c.adr 0 + c.taken / max 1 c.cols * c.srcPitch + k)).left
  | .cpyt => if c.quantise then 1 else if c.taken < 2048 * c.tiles then 64 else 16
  | _ => 1

/-- Next part of CPY. -/
def State.partCpy (s : State) (cl : Nat) (c : Card) : Except Lack Card := do
  let n := s.partLen cl c
  let bs ← s.srcBytes cl c 1 c.taken n
  .ok (c.made n (s.dstWrites cl c (n + 1) c.taken bs))

/-- Next part of CPY2. -/
def State.partCpy2 (s : State) (cl : Nat) (c : Card) : Except Lack Card := do
  let r := c.taken / max 1 c.cols
  let k := c.taken % max 1 c.cols
  let p := placeAt c.ssp (c.adr 0 + r * c.srcPitch + k)
  let n := s.partLen cl c
  let bs ← c.piece p.bank p.adr n
  .ok (c.made n (writesAt c.dsp (c.adr 2 + r * c.dstPitch + k) bs))

/-- Next element of CPYG or CPYS: the index, then the element. One whose gathered or scattered address is misaligned faults; the dense side
needs no alignment. (DEDUCED, log 57; DESIGN CHOICE, log 111) -/
def Card.partIndexed (c : Card) : Except Lack Card := do
  let z := c.elem
  let x := leNat (← c.look true (c.w 6 + 4 * c.taken) 4)
  let src := placeAt c.ssp (c.elemAt 0 (if c.kind = .cpyg then x else c.taken))
  let dst := c.elemAt 2 (if c.kind = .cpyg then c.taken else x)
  let far := if c.kind = .cpyg then src else placeAt c.dsp dst
  if far.adr % z ≠ 0 then .error (.bad Code.ALIGN)
  else if !far.bank && !canonical far.adr then .error (.bad Code.NCADDR)
  else
    let bs ← c.look src.bank src.adr z
    .ok (c.made 1 (writesAt c.dsp dst bs))

/-- The largest MAXE seen in a tile so far. -/
def Card.maxe (c : Card) (t : Nat) : Nat :=
  match c.got.find? fun x => x.1 == t with
  | some x => leNat x.2
  | none => 0

/-- Next part of an expand: 64 bytes of a tile, or, after the last tile, a header (R196). -/
def State.partExpand (s : State) (cl : Nat) (c : Card) : Except Lack Card :=
  let off := c.taken
  if off < 2048 * c.tiles then do
    let t := off / 2048
    let n := 64 / c.canonW
    let rk := c.place t (off % 2048 / c.canonW)
    let (es, fl) ← c.expandRow rk.1 rk.2 n
    let m := es.foldl (fun m e => max m (c.maxeOf e)) (c.maxe t)
    let c := { c with
      got := (t, [BitVec.ofNat 8 m]) :: c.got.filter fun x => x.1 != t
      flags := c.flags ||| fl.setWidth 7 }
    .ok (c.made 64 (s.dstWrites cl c 65 off (c.canonBytes es)))
  else .ok (c.made 16 (s.dstWrites cl c 17 off (c.header (c.maxe ((off - 2048 * c.tiles) / 16)))))

/-- The canonical bytes of row `r`, tile after tile. -/
def State.rowBytes (s : State) (cl : Nat) (c : Card) (r : Nat) : Except Lack (List Byte) :=
  let across := c.cols / c.tileW
  (List.range across).foldlM (fun bs j =>
    (s.srcBytes cl c 65 (2048 * (r / 32 * across + j) + 64 * (r % 32)) 64).map (bs ++ ·)) []

/-- Writes in the order of their addresses; at one address the earlier row first. (DEDUCED, log 57) -/
def insertWrites (buf ws : List CardWrite) : List CardWrite :=
  ws.foldl (fun b w => b.takeWhile (fun x => decide (x.adr ≤ w.adr)) ++ w :: b.dropWhile fun x => decide (x.adr ≤ w.adr)) buf

/-- Next part of a quantise: one row (R197). -/
def State.partQuantise (s : State) (cl : Nat) (c : Card) : Except Lack Card := do
  let r := c.taken
  let bs ← s.rowBytes cl c r
  let codes := (List.range c.cols).map fun i => leNat ((bs.drop (i * c.canonW)).take c.canonW)
  let st ← if c.narrow then c.rowStarts r true else .ok []
  let q := c.quantRow codes st s.free
  if c.dSstr < q.scales.length then .error (.bad Code.CPYFMT)
  else
    .ok { c with
      taken := r + 1, seen := c.seen.filter fun x => x.1 != r, buf := insertWrites c.buf (c.rowWrites r q), flags := c.flags ||| q.flags.setWidth 7 }

/-- The engine has a part of the copy card still to read. -/
def Card.moreParts (c : Card) : Bool :=
  match c.kind with
  | .cpy => decide (c.taken < c.len)
  | .cpy2 => decide (c.taken < c.rows * c.cols)
  | .cpyt => if c.quantise then decide (c.taken < c.rows) && c.cols != 0 else decide (c.taken < c.tileSpan)
  | .cpyg => decide (c.taken < c.count)
  | .cpys => decide (c.taken < c.count)
  | _ => false

/-- The next part of an admitted copy card, from what the engine has read. -/
def State.cardPart (s : State) (cl : Nat) (c : Card) : Except Lack Card :=
  match c.kind with
  | .cpy => s.partCpy cl c
  | .cpy2 => s.partCpy2 cl c
  | .cpyt => if c.quantise then s.partQuantise cl c else s.partExpand cl c
  | _ => c.partIndexed

/-! ## The engine's steps: one read, or one write, at a home (R169, R185) -/

/-- What the engine does next for a card: a step performed, with the bytes it adds to WP; nothing now; a fault. -/
inductive CardStep where
  | did (s : State) (c : Card) (n : Nat)
  | wait
  | fault (s : State) (c : Cause) (va : Option Nat)

/-- The first buffered write, where no row still to be read makes one at a lower address. -/
def Card.nextOut (c : Card) : Option CardWrite :=
  match c.buf with
  | [] => none
  | w :: _ =>
    let low (r : Nat) : Bool := decide (w.adr ≤ c.dData + r * c.dPitch) &&
      (!c.narrow || (decide (w.adr ≤ c.dSide + r * c.dSstr) && (!c.dBmap || decide (w.adr ≤ c.bitsAt r))))
    if c.kind == CardKind.cpyt && c.quantise && !((List.range (c.rows - c.taken)).all fun i => low (c.taken + i)) then none
    else some w

/-- The part is made: a stochastic quantise has drawn a free value for each element of its row. -/
def State.parted (s : State) (c d : Card) : CardStep :=
  .did (if c.kind == CardKind.cpyt && c.quantise && c.rm == 6 then { s with free := s.free + c.cols } else s) d 0

/-- The card as it will be at the part that is `k` ahead. -/
def State.ahead (s : State) (cl : Nat) : Nat → Card → Card
  | 0, c => c
  | k + 1, c => if c.moreParts then s.ahead cl k { c with taken := c.taken + s.partLen cl c } else c

/-- Line `j` of those that the card's part still needs, as far as they can be told without what is in them. -/
def State.lackAt (s : State) (cl : Nat) : Nat → Card → Option (Bool × Nat × Nat)
  | j, c =>
    match s.cardPart cl c with
    | .error (.need bank a n) =>
      match j with
      | 0 => some (bank, a, n)
      | i + 1 =>
        if c.kind == CardKind.cpyt then
          s.lackAt cl i { c with seen := c.seen ++ [(c.taken, bank, a, List.replicate n 0)] }
        else none
    | _ => none

/-- A read ahead of the order: it only brings its line. -/
def State.readAhead (s : State) (cl : Nat) (c : Card) (k j : Nat) : CardStep :=
  let d := s.ahead cl k c
  match (if d.moreParts then s.lackAt cl j d else none) with
  | none => .wait
  | some (bank, a, n) =>
    match s.engRead 0 c.ctx cl bank a n with
    | .ok s bs => .did s { c with seen := c.seen ++ [(d.taken, bank, a, bs)] } 0
    | _ => .wait

/-- A read for a copy card: of the line that its next part needs first, or of another line. A cause found by reading waits for the writes
that come before it. (DEDUCED, log 57) -/
def State.readCard (s : State) (cl : Nat) (c : Card) (k j : Nat) : CardStep :=
  let bad (s : State) (k : Cause) (va : Option Nat) : CardStep := if c.nextOut.isSome then .wait else .fault s k va
  if !c.moreParts then .wait
  else if k ≠ 0 ∨ j ≠ 0 then s.readAhead cl c k j
  else
    match s.cardPart cl c with
    | .ok d => s.parted c d
    | .error (.bad k) => bad s k none
    | .error (.need bank a n) =>
      match s.engRead 0 c.ctx cl bank a n with
      | .wait => .wait
      | .fault t k va => bad t k va
      | .ok s bs =>
        let c := { c with seen := c.seen ++ [(c.taken, bank, a, bs)] }
        match s.cardPart cl c with
        | .ok d => s.parted c d
        | .error _ => .did s c 0

/-- The engine's next write for a copy card. -/
def State.writeCard (s : State) (cl : Nat) (c : Card) : CardStep :=
  match c.nextOut with
  | none => .wait
  | some w =>
    match s.engWrite 0 c.ctx cl w.bank w.adr w.bytes with
    | .ok s _ => .did s { c with buf := c.buf.tail } w.count
    | .wait => .wait
    | .fault s k va => .fault s k va

end Sys2Proof.Machine
end

