-- ==== Sys2Proof/Machine/Remote.lean ====
section
/-! DEFINITION. Remote cards at their source (R300, R306-R314): sending packets, what a reply brings, local writes, WP, the
end of the card; the copy engine's events COPY_CARD_ADMIT, COPY_DELIVERY_WRITE, COPY_CARD_COMPLETE, COPY_CARD_FAULT,
COPY_QUEUE_ROOM, CARD_QUOTA_RESUME, CARD_FIRE_QUEUE_ROOM and CHANNEL_ALLOWANCE_CHARGE. -/

namespace Sys2Proof.Machine

/-! ## Sending (R300, R312, R314) -/

/-- The plane that carries the chunk of a remote address. (DEDUCED, log 65) -/
def State.planeFor (s : State) (a : Nat) : Option Nat := s.planes[(a / 4096 + s.chip) % max 1 s.planes.length]?

def State.link (s : State) (plane : Nat) : Link := tgetD s.links plane {}

def State.setLink (s : State) (plane : Nat) (l : Link) : State := { s with links := tset s.links plane l }

/-- Flits that a link carries one way under one key (R302). -/
def keyFlits : Nat := 2 ^ 40

/-- The nonce of a frame on a link: the link's identifier, then the count of the frame's first flit in its direction (R302). -/
def State.nonceAt (s : State) (plane flit : Nat) : BitVec 96 := Config.linkId s.chip plane ++ BitVec.ofNat 64 flit

/-- A frame of 8 flits goes out on a plane's link, encrypted and with its tag: one frame for each packet or reply. None: the key has carried
all its flits, and the next one is awaited (R302). (DEDUCED, log 85) -/
def State.sendFrame (s : State) (plane : Nat) (flits : List Byte) : Option State :=
  let l := s.link plane
  let text := Config.gcmText l.key (s.nonceAt plane l.sent) flits
  let f : Frame := { text := text, tag := Config.gcmTag l.key (s.nonceAt plane l.sent) text }
  if l.sent + 8 ≤ l.sentAt + keyFlits then some (s.setLink plane { l with sent := l.sent + 8, out := some f }) else none

/-- What a frame that has passed its tag carries is taken from it: a packet, a reply or a notice. None: no such frame is there (R302). -/
def State.takeFrame (s : State) (plane : Nat) : Option State :=
  let l := s.link plane
  if l.held = 0 then none else some (s.setLink plane { l with held := l.held - 1 })

/-- A packet that must be performed once although it is not idempotent (R312). -/
def nonIdem (k : PktKind) : Bool :=
  match k with
  | .red _ => true | .atom _ => true | .land => true
  | _ => false

/-- A further packet may be outstanding: 256 for each triple, 256 non-idempotent ones to a target. -/
def State.maySend (s : State) (dst tctx : Nat) (k : PktKind) : Bool :=
  decide ((s.pkts.filter fun p => p.pkt.dst == dst && p.pkt.tctx == tctx).length < 256) &&
    (!nonIdem k || decide ((s.pkts.filter fun p => p.pkt.dst == dst && nonIdem p.pkt.kind).length < 256))

/-- What a card's packets ask. -/
def Card.pktKind (c : Card) : PktKind :=
  if c.land = 1 then .land
  else
    let o := BitVec.ofNat 4 c.op
    match c.kind with
    | .xwr => if c.len = 0 then .tcOnly 4 else .write
    | .xrd => if c.len = 0 then .tcOnly 2 else .read
    | .xred => if c.len = 0 then .tcOnly 8 else .red o
    | .xatom => .atom o
    | .xmlr => .mcrRead o
    | _ => .mcrWrite

/-- Local bytes that a packet carries: (offset, length). -/
def Card.carries (c : Card) (p : Nat × Nat) : Nat × Nat :=
  if c.land = 1 then (0, 0)
  else
    match c.kind with
    | .xwr => p | .xred => p | .xmst => p
    | .xatom => (0, 16)
    | _ => (0, 0)

/-- The local address and the length of the bytes that a packet carries. -/
def Card.payload (c : Card) (p : Nat × Nat) : Nat × Nat := (c.adr c.kind.localAt + (c.carries p).1, (c.carries p).2)

/-- The bytes of packet `p`, where the engine has read them, line by line. -/
def Card.payloadBytes (c : Card) (p : Nat × Nat) : Except Lack (List Byte) :=
  { c with taken := p.1 }.look (c.lsp != 3) (c.payload p).1 (c.payload p).2

/-- Sequence number of the next packet to a target, device or group, for a context (R312). -/
def State.takeSeq (s : State) (dst tctx : Nat) : Word × State :=
  let key := 65536 * dst + tctx
  let seq := tgetD s.sendSeq key 0
  (seq, { s with sendSeq := tset s.sendSeq key (seq + 1) })

/-- Sends the card's next packet, if its bytes have been read; none: it waits. The landing row's fetch-add counts for no TC (R311). The
fabric carries nothing after the alarm (R295). (DEDUCED, log 65) -/
def State.sendOne (s : State) (cl ch : Nat) (c : Card) : Option (State × Card) :=
  match c.toSend with
  | [] => none
  | p :: rest =>
    let k := c.pktKind
    let need := if c.kind = .xatom then 1 else unitsTo (p.1 + p.2)
    match s.planeFor (c.ra + p.1), c.payloadBytes p with
    | some plane, .ok bs =>
      if c.charged < need || !s.maySend c.dev c.tctx k || s.alarm then none
      else
        let (seq, s) := s.takeSeq c.dev c.tctx
        let pkt : Packet :=
          { src := s.chip, dst := c.dev, tctx := c.tctx, seq := seq, kind := k, addr := c.pa + p.1
            len := if c.land = 1 then 4 else p.2, data := bs, tc := if c.land = 1 then none else c.tc, card := c.id, npkts := c.npkts
            group := if c.kind.mcr then c.dev - 576 else 0 }
        let units := if c.kind = .xatom then 1 else unitsTo (p.1 + p.2) - unitsTo p.1
        let o : OutPkt := { pkt := pkt, cl := cl, ch := ch, plane := plane, ra := c.ra + p.1, units := units, devs := c.devs }
        (s.sendFrame plane (Config.packetFlits pkt)).map fun s =>
          ({ s with pkts := s.pkts ++ [o] }, { c with toSend := rest, seen := c.seen.filter fun x => x.1 != p.1 })
    | _, _ => none

/-- Sends packets of the head card while nothing holds them back. -/
def State.sendAll (cl ch : Nat) : Nat → State → Card → State
  | 0, s, c => s.modChan cl ch fun x => x.setHead c
  | n + 1, s, c =>
    match s.sendOne cl ch c with
    | some (s, c) => State.sendAll cl ch n s c
    | none => s.modChan cl ch fun x => x.setHead c

/-- Sends what the head card of a channel may send. -/
def State.sendMore (s : State) (cl ch : Nat) : State :=
  match (s.chan cl ch).queue with
  | [] => s
  | c :: _ => if c.admitted && c.kind.remote then State.sendAll cl ch (c.toSend.length + 1) s c else s

/-- A remote card begins: its packets, or the fetch-add of a landing row first (R311). (DEDUCED, log 68) -/
def Card.begun (c : Card) : Card :=
  if c.kind = .xwr ∧ c.landing = true ∧ c.len ≠ 0 then { c with admitted := true, land := 1, toSend := [(0, 0)] }
  else { c with admitted := true, toSend := c.packets, npkts := c.packets.length }

/-! ## WP of a remote card (R306) -/

/-- Ends of the chunks of a card. -/
def chunkEnds (ra len : Nat) : List Nat :=
  ((List.range (len / 4096 + 2)).map fun i => min len (4096 - ra % 4096 + 4096 * i)).eraseDups

/-- Bytes of the longest run of chunks from the first whose packets are all done. (DEDUCED, log 63) -/
def Card.ackedTo (c : Card) : Nat :=
  let full (e : Nat) : Bool := ((c.acked.filter fun p => decide (p.1 + p.2 ≤ e)).map Prod.snd).sum == e
  ((chunkEnds c.ra c.len).takeWhile full).getLastD 0

/-- Moves WP over the run of done chunks. (DEDUCED, log 63) -/
def State.moveWp (s : State) (cl ch : Nat) (c : Card) : State :=
  match c.kind with
  | .xmlr => s.modChan cl ch fun x => x.setHead c
  | .xatom => s.modChan cl ch fun x => x.setHead c
  | _ =>
    let n := c.ackedTo - c.done
    let s := s.modChan cl ch fun x => x.setHead { c with done := c.done + n }
    if n = 0 then s else s.advance cl ch c n

/-- Every packet of a begun card is done. -/
def Card.allAcked (c : Card) : Bool := c.admitted && c.land != 1 && c.toSend.isEmpty && c.acked.length == c.npkts

/-- Everything of a card is done: a copy card's bytes, or a remote card's packets and local bytes. -/
def Card.finished (c : Card) : Bool :=
  if c.kind.remote then c.allAcked && c.got.isEmpty else c.admitted && !c.moreParts && c.buf.isEmpty

/-! ## Local writes of replies -/

/-- Every packet of a card has its reply. -/
def Card.allIn (c : Card) : Bool := c.toSend.isEmpty && c.got.length + c.acked.length == c.npkts

/-- Bytes that a card has still to write locally, from an offset of its local side; XMLR waits for every reply (R326). -/
def Card.localNext (c : Card) : Option (Nat × List Byte) :=
  match c.kind with
  | .xmlr => if c.allIn && c.cause == 0 then c.got.head? else none
  | _ => c.got.head?

/-- A card's first local write finds what refuses any of an XMLR's: a failed one writes no byte (R326). -/
def State.localRefuses (s : State) (cl : Nat) (c : Card) : Option (Cause × Option Nat) :=
  if c.kind = .xmlr ∧ c.acked = [] ∧ c.wrote = 0 then
    c.got.findSome? fun w => s.rangeRefuses c.ctx cl (c.lsp != 3) (c.adr c.kind.localAt + w.1) w.2.length
  else none

/-- The next local write of the head card: of one line (R169). -/
def State.stepRemote (s : State) (cl : Nat) (c : Card) : CardStep :=
  match c.localNext with
  | none => .wait
  | some w =>
    match s.localRefuses cl c with
    | some (k, va) => .fault s k va
    | none =>
      let a := c.adr c.kind.localAt + w.1
      match s.engWriteNext 0 c.ctx cl (c.lsp != 3) a w.2 c.wrote with
      | .wait => .wait
      | .fault s k va => .fault s k va
      | .ok s _ =>
        let n := c.wrote + pieceAt a w.2.length c.wrote
        .did s (if n < w.2.length then { c with wrote := n }
          else { c with wrote := 0, got := c.got.tail, acked := c.acked ++ [(w.1, w.2.length)] }) 0

/-- A read for a remote card: of a line of the packet that is `k` ahead (R168, R169). -/
def State.readRemote (s : State) (cl : Nat) (c : Card) (k j : Nat) : CardStep :=
  match c.toSend[k]? with
  | none => .wait
  | some p =>
    let lacks := (linePieces ((c.payload p).2 / 128 + 2) (c.payload p).1 0 (c.payload p).2).filter fun q =>
      !({ c with taken := p.1 }.piece (c.lsp != 3) ((c.payload p).1 + q.1) q.2).toBool
    match lacks[j]? with
    | none => .wait
    | some q =>
      match s.engRead 0 c.ctx cl (c.lsp != 3) ((c.payload p).1 + q.1) q.2 with
      | .wait => .wait
      | .fault s k va => .fault s k va
      | .ok s bs => .did s { c with seen := c.seen ++ [(p.1, c.lsp != 3, (c.payload p).1 + q.1, bs)] } 0

/-! ## Events of the copy engine -/

/-- The head card of a channel, once it has left its issue queue. -/
def State.headCard (s : State) (cl ch : Nat) : Option Card :=
  match (s.chan cl ch).queue with
  | c :: _ => if c.left then some c else none
  | [] => none

/-- COPY_CARD_ADMIT on the head card. -/
def State.takeOn (s : State) (cl ch : Nat) : State :=
  match s.headCard cl ch with
  | none => s
  | some c =>
    if c.admitted || c.cause != 0 then s
    else if c.kind.remote then (s.modChan cl ch fun x => x.setHead c.begun).sendMore cl ch
    else if (s.ringCause cl c).isSome || !s.ringsReady cl c || !s.footClear cl c.id c.ctx c.reads c.writes then s
    else
      let r := s.takeRings cl c
      r.1.modChan cl ch fun x => x.setHead { r.2 with admitted := true }

/-- COPY_CARD_ADMIT (R169, R184). -/
def execCopyCardAdmit (cl ch : Nat) (s : State) : Host.Outcome State Fault Refusal := .next (s.takeOn cl ch)

/-- The head card's next write, if it is admitted and has one. -/
def State.nextWrite (s : State) (cl ch : Nat) : CardStep :=
  match s.headCard cl ch with
  | none => .wait
  | some c =>
    if !c.admitted || c.finished then .wait
    else if c.kind.remote then s.stepRemote cl c
    else s.writeCard cl c

/-- A read of the head card's source side, at any time after its admission (R168). -/
def State.nextRead (s : State) (cl ch k j : Nat) : CardStep :=
  match s.headCard cl ch with
  | none => .wait
  | some c => if !c.admitted then .wait else if c.kind.remote then s.readRemote cl c k j else s.readCard cl c k j

/-- The channel of a move, and what the engine does there. -/
def State.cardMove (s : State) (cl : Nat) : CardMove → Nat × CardStep
  | .read ch k j => (ch, s.nextRead cl ch k j)
  | .write ch => (ch, s.nextWrite cl ch)

/-- COPY_DELIVERY_WRITE on the head card: the engine reads a line or performs a write; a remote card also sends what it may. -/
def State.deliverWrite (s : State) (cl : Nat) (m : CardMove) : State :=
  let (ch, step) := s.cardMove cl m
  match step with
  | .did s c n =>
    if c.kind.remote then (s.moveWp cl ch c).sendMore cl ch
    else
      let s := s.modChan cl ch fun x => x.setHead { c with done := c.done + n }
      if n = 0 then s else s.advance cl ch c n
  | _ => s.sendMore cl ch

/-- COPY_DELIVERY_WRITE (R169, R185): a read of the card's source side, or a write. -/
def execCopyDeliveryWrite (cl : Nat) (m : CardMove) (s : State) : Host.Outcome State Fault Refusal := .next (s.deliverWrite cl m)

/-- The head card completes if everything of it is done. -/
def State.completeIf (s : State) (cl ch : Nat) : State :=
  match s.headCard cl ch with
  | some c => if c.finished then s.complete cl ch 0 else s
  | none => s

/-- COPY_CARD_COMPLETE (R188). -/
def execCopyCardComplete (cl ch : Nat) (s : State) : Host.Outcome State Fault Refusal := .next (s.completeIf cl ch)

/-- The cause that the head card faults with now, in the state that finding it leaves: one found when it fired, of its rings, of its next
write or read. -/
def State.cardFault (s : State) (cl ch : Nat) : Option (State × Cause) :=
  match s.headCard cl ch with
  | none => none
  | some c =>
    let may (t : State) (k : Cause) (va : Option Nat) : Option (State × Cause) := if s.declines c.ctx k va then some (t, k) else none
    let carries := c.kind.remote && (!c.toSend.isEmpty || !c.begun.toSend.isEmpty && !c.admitted)
    if !c.admitted && c.cause != 0 then some (s, c.cause)
    else if s.alarm && carries then some (s, Code.XCRYPT)
    else if !c.admitted then if c.kind.remote then none else (s.ringCause cl c).map fun k => (s, k)
    else
      match s.nextWrite cl ch with
      | .fault t k va => may t k va
      | _ =>
        match s.nextRead cl ch 0 0 with
        | .fault t k va => may t k va
        | _ => none

/-- Units charged and not sent go back (R314). (DEDUCED, log 64) -/
def State.unspent (s : State) (c : Card) : State :=
  let sent := match c.toSend with
    | [] => if c.land = 1 then 0 else c.charged
    | p :: _ => unitsTo p.1
  s.uncharge c.devs (c.charged - sent)

/-- COPY_CARD_FAULT on the head card. (DEDUCED, log 64) -/
def State.faultCard (s : State) (cl ch : Nat) : State :=
  match s.cardFault cl ch with
  | none => s
  | some (t, k) =>
    let t := match s.headCard cl ch with | some c => t.unspent c | none => t
    t.haltHead cl ch k

/-- COPY_CARD_FAULT (R193). -/
def execCopyCardFault (cl ch : Nat) (s : State) : Host.Outcome State Fault Refusal := .next (s.faultCard cl ch)

/-- Fired cards that wait in a channel are posted in order while nothing holds the first back. -/
def State.postWaiting (cl ch : Nat) : Nat → State → State
  | 0, s => s
  | n + 1, s =>
    match (s.chan cl ch).fired with
    | [] => s
    | c :: rest =>
      match s.postFired cl ch c with
      | none => s
      | some t => State.postWaiting cl ch n (t.modChan cl ch fun x => { x with fired := rest })

/-- The fired cards of a channel go on. -/
def State.firedGoOn (s : State) (cl ch : Nat) : State := State.postWaiting cl ch (s.chan cl ch).fired.length s

/-- CARD_QUOTA_RESUME (R185). -/
def execCardQuotaResume (cl ch : Nat) (s : State) : Host.Outcome State Fault Refusal := .next (s.firedGoOn cl ch)

/-- CARD_FIRE_QUEUE_ROOM (R318). -/
def execCardFireQueueRoom (cl ch : Nat) (s : State) : Host.Outcome State Fault Refusal := .next (s.firedGoOn cl ch)

/-- CHANNEL_ALLOWANCE_CHARGE (R314): 16 further units of the head card; fired cards short of allowance go on. -/
def State.chargeMore (s : State) (cl ch : Nat) : State :=
  match s.headCard cl ch with
  | some c =>
    let n := min 16 (c.units - c.charged)
    if c.admitted && c.kind.remote && n != 0 && s.covers c n then
      ((s.charge c.devs n).modChan cl ch fun x => x.setHead { c with charged := c.charged + n }).sendMore cl ch
    else s.firedGoOn cl ch
  | none => s.firedGoOn cl ch

/-- CHANNEL_ALLOWANCE_CHARGE (R314). -/
def execChannelAllowanceCharge (cl ch : Nat) (s : State) : Host.Outcome State Fault Refusal := .next (s.chargeMore cl ch)

end Sys2Proof.Machine
end

