-- ==== Sys2Proof/Machine/CardWords.lean ====
section
/-! DEFINITION. The words that post cards and read channels: CPY, CPY2, CPYT, CPYG, CPYS, CPYWP, CPYWT, CPYST (R186-R190),
XWR, XRD, XRED, XATOM, XMLR, XMST (R306-R308), ALWR, XWAIT, XSTAT (R317, R322, R323), XTRIG and XCNT (R319, R321); the end of
their parks and how their entries leave the issue queue. -/

namespace Sys2Proof.Machine

/-! ## Capturing a card (R186, R306) -/

/-- The opcode of a card's word. -/
def CardKind.opc (k : CardKind) : BitVec 6 := if k.remote then 0x26 else 0x3A

/-- The card that a word names, as read at issue. -/
def State.captured (s : State) (c : Cursor) (k : CardKind) (a : Nat) : Card :=
  let g := s.grp c.grp
  let ws := (List.range 8).map fun i => g.s c.slotB (a + i)
  let rm := fld (ws.getD 5 0).toNat 12 3
  { kind := k, words := ws, ctx := s.ctxOf c.grp, grp := some c.grp, wg := some g.wg, pos := c.pos
    ttask := s.ttask c.grp c.slotB, widb := (s.wg g.wg).base
    rm := BitVec.ofNat 3 (if rm = 0 then g.regs.mode.toNat % 8 else rm) }

/-- How the checks of a card end: a fault of the read of its descriptor, a cause, or the card. -/
inductive Checked2 where
  | read (k : Cause × Nat)
  | bad (k : Cause)
  | ok (c : Card)

/-- Every check of a card at issue, its descriptor read first (R194). -/
def State.cardChecks (s : State) (g : Nat) (c : Card) : Checked2 :=
  let last (c : Card) : Checked2 := match s.checkCard g c with | .error k => .bad k | .ok c => .ok c
  if c.kind = .cpyt then
    if c.badFields then .bad Code.CPYBND
    else if (if c.quantise then c.dsp else c.ssp) ≠ 3 then .bad Code.CPYFMT
    else
      match s.readAt g (c.adr (if c.quantise then 2 else 0)) 32 32 with
      | .error k => .read k
      | .ok bs =>
        let c := { c with desc := BitVec.ofNat 256 (leNat bs) }
        last { c with nf := tgetD (s.grp g).regs.nf (c.dFmt - 4) 0 }
  else last c

/-- The read of a card's descriptor touches the windows of its line (R233). -/
def State.seenCard (s : State) (g : Nat) (c : Card) : State :=
  let va := c.adr (if c.quantise then 2 else 0)
  if c.kind == .cpyt && !c.badFields && (if c.quantise then c.dsp else c.ssp) == 3 && (s.readAt g va 32 32).toBool then
    s.seenAt g va 32
  else s

/-! ## Posting (R185, R314, R316) -/

/-- How a post goes. -/
inductive PostRes where
  /-- Posted, with its end mark; the number of the entry that waits in the issue queue, 0 for none. -/
  | posted (s : State) (mark : Word) (id : Nat)
  /-- The channel's queue is full. -/
  | full
  /-- The allowance is short. -/
  | short
  /-- The context's quota is used up. -/
  | quota

/-- Posts a card to a channel of the cluster if it may be posted. (DEDUCED, log 58) -/
def State.tryPost (s : State) (cl ch : Nat) (c : Card) : PostRes :=
  let x := s.chan cl ch
  if 256 ≤ s.unfinished cl c.ctx then .quota
  else if !s.covers c c.firstCharge then .short
  else if 32 ≤ x.queue.length then .full
  else
    let mark := x.pw + BitVec.ofNat 32 c.bytes
    if x.halted then .posted (s.postCard cl ch c) mark 0
    else
      let (id, s) := s.fresh
      .posted ((s.charge c.devs c.firstCharge).postCard cl ch { c with id := id, charged := c.firstCharge }) mark id

/-- A card's word: the checks, then the post, or a park until it can be posted. -/
def cardWord (i : Instr) (k : CardKind) (d a b : BitVec 7) (c : Cursor) (s : State) : State :=
  let ch := ((s.grp c.grp).sc c.slotB b.toNat).toNat
  let cl := clusterOf (coreOf c.grp)
  if 15 < ch then s.trapE c Code.CPYBND
  else
    let s := s.seenCard c.grp (s.captured c k a.toNat)
    match s.cardChecks c.grp (s.captured c k a.toNat) with
    | .read e => s.raiseRead c k.opc e
    | .bad e => s.trapE c e
    | .ok card =>
      let wait (why : ParkWhy) : State :=
        let (id, s) := s.fresh
        ((s.postWait c (sreg d.toNat) 1 id).park c why i (BitVec.ofNat 32 ch) id).modPark c.grp c.slotB fun p =>
          { p with card := some card }
      match s.tryPost cl ch card with
      | .quota => s.trapE c Code.ENGQ
      | .short => wait .allowance
      | .full => wait (.queueFull ch)
      | .posted t mark id =>
        let t := t.postS c d.toNat mark
        if id = 0 then t else t.enqueue c id k.opc (.card cl ch id) [] 0

/-- CPY (R189). -/
def execCpy (d a b : BitVec 7) (s : State) : Host.Outcome State Fault Refusal :=
  word (.cpy d a b) s (cardWord (.cpy d a b) .cpy d a b)

/-- CPY2 (R189). -/
def execCpy2 (d a b : BitVec 7) (s : State) : Host.Outcome State Fault Refusal :=
  word (.cpy2 d a b) s (cardWord (.cpy2 d a b) .cpy2 d a b)

/-- CPYT (R189). -/
def execCpyt (d a b : BitVec 7) (s : State) : Host.Outcome State Fault Refusal :=
  word (.cpyt d a b) s (cardWord (.cpyt d a b) .cpyt d a b)

/-- CPYG (R189). -/
def execCpyg (d a b : BitVec 7) (s : State) : Host.Outcome State Fault Refusal :=
  word (.cpyg d a b) s (cardWord (.cpyg d a b) .cpyg d a b)

/-- CPYS (R189). -/
def execCpys (d a b : BitVec 7) (s : State) : Host.Outcome State Fault Refusal :=
  word (.cpys d a b) s (cardWord (.cpys d a b) .cpys d a b)

/-- XWR (R308). -/
def execXwr (d a b : BitVec 7) (s : State) : Host.Outcome State Fault Refusal :=
  word (.xwr d a b) s (cardWord (.xwr d a b) .xwr d a b)

/-- XRD (R308). -/
def execXrd (d a b : BitVec 7) (s : State) : Host.Outcome State Fault Refusal :=
  word (.xrd d a b) s (cardWord (.xrd d a b) .xrd d a b)

/-- XRED (R308). -/
def execXred (d a b : BitVec 7) (s : State) : Host.Outcome State Fault Refusal :=
  word (.xred d a b) s (cardWord (.xred d a b) .xred d a b)

/-- XATOM (R308). -/
def execXatom (d a b : BitVec 7) (s : State) : Host.Outcome State Fault Refusal :=
  word (.xatom d a b) s (cardWord (.xatom d a b) .xatom d a b)

/-- XMLR (R308). -/
def execXmlr (d a b : BitVec 7) (s : State) : Host.Outcome State Fault Refusal :=
  word (.xmlr d a b) s (cardWord (.xmlr d a b) .xmlr d a b)

/-- XMST (R308). -/
def execXmst (d a b : BitVec 7) (s : State) : Host.Outcome State Fault Refusal :=
  word (.xmst d a b) s (cardWord (.xmst d a b) .xmst d a b)

/-- The entry of a word that a slot was parked in. -/
def State.enqueuePark (s : State) (g : Nat) (b : Bool) (p : Park) (id : Nat) (opc : BitVec 6) (body : EntryBody) : State :=
  let e : Entry :=
    { id := id, serial := p.serial, slotB := b, pos := p.pos, resume := ((s.grp g).slot b).pc, repi := p.repi, opc := opc
      body := body, handler := (s.grp g).handling b }
  s.modGrp g fun x => { x with queue := x.queue ++ [e] }

/-- A parked card with its target as the windows and groups stand when it is posted (R304, R325). -/
def State.aimed (s : State) (c : Card) : Except Cause Card := if c.kind.remote then s.target c.ctx c else .ok c

/-- A slot parked in a post tries again. -/
def State.wakePost (s : State) (g : Nat) (b : Bool) : State :=
  match ((s.grp g).slot b).park with
  | none => s
  | some p =>
    match p.card with
    | none => s
    | some card =>
      let cl := clusterOf (coreOf g)
      let ch := p.arg.toNat
      match s.aimed card with
      | .error k => s.raiseParked g b p k
      | .ok card =>
        match s.tryPost cl ch card with
        | .quota => s.raiseParked g b p Code.ENGQ
        | .short => s.modPark g b fun p => { p with why := .allowance }
        | .full => s.modPark g b fun p => { p with why := .queueFull ch }
        | .posted t mark id =>
          let t := t.wake g b p mark
          if id = 0 then t else t.enqueuePark g b p id card.kind.opc (.card cl ch id)

/-- COPY_QUEUE_ROOM (R185). (DEDUCED, log 58) -/
def execCopyQueueRoom (grp : Nat) (slotB : Bool) (s : State) : Host.Outcome State Fault Refusal :=
  .next (s.wakePost grp slotB)

/-- ALLOWANCE_WAIT_END (R316). -/
def execAllowanceWaitEnd (grp : Nat) (slotB : Bool) (s : State) : Host.Outcome State Fault Refusal :=
  .next (s.wakePost grp slotB)

/-- ALWDL_TIMEOUT (R316): only where %allowth.WL sets a limit; the cause is of class A (R115). -/
def execAlwdlTimeout (grp : Nat) (slotB : Bool) (s : State) : Host.Outcome State Fault Refusal :=
  .next (match ((s.grp grp).slot slotB).park with
    | none => s
    | some p =>
      if p.why == ParkWhy.allowance && fld (s.grp grp).regs.allowth.toNat 16 4 != 0 then
        s.raiseParked grp slotB p Code.ALWDL .a
      else s)

/-- A card leaves the issue queue: its channel may take it on (R168). -/
def State.leaveCard (s : State) (cl ch id : Nat) : State :=
  let mark (c : Card) : Card := if c.id = id then { c with left := true } else c
  s.modChan cl ch fun x => { x with queue := x.queue.map mark }

/-! ## Channel state (R190, R323) -/

/-- A word on channel `a`: CPYBND above 15. -/
def State.withChan (s : State) (c : Cursor) (a : BitVec 7) (f : Nat → Nat → State) : State :=
  let ch := ((s.grp c.grp).sc c.slotB a.toNat).toNat
  if 15 < ch then s.trapE c Code.CPYBND else f (clusterOf (coreOf c.grp)) ch

/-- The scope of the acquire of CPYWP and CPYWT (R170). -/
def Channel.scope (x : Channel) : Scope := x.wide.getD .clu

/-- CPYWP (R190). -/
def execCpywp (d a : BitVec 7) (s : State) : Host.Outcome State Fault Refusal :=
  word (.cpywp d a) s fun c s => s.withChan c a fun cl ch =>
    let x := s.chan cl ch
    (s.postS c d.toNat x.wp).acquireAt c.grp x.scope

/-- CPYWT's condition. -/
def Channel.reached (x : Channel) (b : Word) : Bool := x.halted || decide ((x.wp - b).toNat < 2147483648)

/-- CPYWT (R190). -/
def execCpywt (d a b : BitVec 7) (s : State) : Host.Outcome State Fault Refusal :=
  word (.cpywt d a b) s fun c s => s.withChan c a fun cl ch =>
    let x := s.chan cl ch
    let w := (s.grp c.grp).sc c.slotB b.toNat
    if x.reached w then (s.postS c d.toNat x.wp).acquireAt c.grp x.scope
    else
      let (id, s) := s.fresh
      (s.postWait c (sreg d.toNat) 1 id).park c (.copyWait ch) (.cpywt d a b) w id

/-- A slot parked in CPYWT goes on if its condition holds. -/
def State.wakeCopy (s : State) (g : Nat) (b : Bool) : State :=
  match ((s.grp g).slot b).park with
  | none => s
  | some p =>
    match p.why with
    | .copyWait ch =>
      let x := s.chan (clusterOf (coreOf g)) ch
      if x.reached p.arg then (s.wake g b p x.wp).acquireAt g x.scope else s
    | _ => s

/-- A halted channel is restarted (R190, R343). (DEDUCED, log 59) -/
def Channel.restarted (x : Channel) : Channel :=
  if x.halted then { x with wp := x.pw, halted := false, cause := 0 } else x

/-- CPYST (R190, R191). (DEDUCED, log 59) -/
def execCpyst (d a b : BitVec 7) (s : State) : Host.Outcome State Fault Refusal :=
  word (.cpyst d a b) s fun c s => s.withChan c a fun cl ch =>
    let x := s.chan cl ch
    let w := (s.grp c.grp).sc c.slotB b.toNat
    if 1 < w.toNat then s.trapE c Code.CPYBND
    else (if w = 1 then s.setChan cl ch x.restarted else s).postS c d.toNat x.status

/-- XSTAT (R323). -/
def execXstat (d a b : BitVec 7) (s : State) : Host.Outcome State Fault Refusal :=
  word (.xstat d a b) s fun c s => s.withChan c a fun cl ch =>
    let x := s.chan cl ch
    let w := (s.grp c.grp).sc c.slotB b.toNat
    if 1 < w.toNat then s.trapE c Code.CPYBND
    else
      (if w = 1 then s.setChan cl ch { x with xfc := 0, drops := 0 } else s).postSP c d.toNat
        (x.remoteWord ++ x.status : BitVec 64)

/-- ALWR (R317). -/
def execAlwr (d a : BitVec 7) (s : State) : Host.Outcome State Fault Refusal :=
  word (.alwr d a) s fun c s =>
    let dev := ((s.grp c.grp).sc c.slotB a.toNat).toNat
    if 575 < dev then s.trapE c Code.ILLTGT
    else
      let x := tgetD s.allow dev {}
      s.postS c d.toNat (BitVec.ofNat 32 (x.cap * 65536 + (x.cap - x.out)))

/-! ## Counters (R319, R321, R322) -/

/-- Card kinds of a trigger pair. -/
def trigKind (n : Nat) : CardKind :=
  match n with
  | 0 => .xwr | 1 => .xrd | 2 => .xred | 3 => .xatom | 4 => .xmlr | 5 => .xmst
  | _ => .cpy

/-- XTRIG (R319). -/
def execXtrig (a b : BitVec 7) (s : State) : Host.Outcome State Fault Refusal :=
  word (.xtrig a b) s fun c s =>
    let g := s.grp c.grp
    let t := g.s c.slotB b.toNat
    let hi := (g.s c.slotB (b.toNat + 1)).toNat
    let ctx := s.ctxOf c.grp
    if hi / 32768 ≠ 0 ∨ fld hi 12 3 = 7 then s.trapE c Code.CPYBND
    else
      match s.cardChecks c.grp (s.captured c (trigKind (fld hi 12 3)) a.toNat) with
      | .read e => s.raiseRead c 0x26 e
      | .bad e => s.trapE c e
      | .ok card =>
        if 4096 ≤ (s.ctx ctx).armed.length then s.trapE c Code.TRIGOVF
        else
          let card := { card with grp := none, wg := none, pos := 0, ttask := 0, widb := 0 }
          let (id, s) := s.fresh
          s.enqueue c id 0x26 (.trig (clusterOf (coreOf c.grp)) (fld hi 8 4) card (fld hi 0 8) t) [] 0

/-- XTRIG leaves the issue queue: the card is armed, or fires at once (R319, R344). -/
def State.leaveTrig (s : State) (ctx cl ch : Nat) (card : Card) (cnt : Nat) (t : Word) : State :=
  let c := s.ctx ctx
  let x : Armed := { cnt := cnt, t := t, cl := cl, ch := ch, card := card }
  if satisfies (tgetD c.counters cnt 0) t then s.fire x else s.setCtx ctx { c with armed := c.armed ++ [x] }

/-- XCNT (R321). -/
def execXcnt (d a b : BitVec 7) (s : State) : Host.Outcome State Fault Refusal :=
  word (.xcnt d a b) s fun c s =>
    let g := s.grp c.grp
    let w := (g.sc c.slotB a.toNat).toNat
    if 512 ≤ w then s.trapE c Code.CNTBAD
    else
      let (id, s) := s.fresh
      (s.postWait c (sreg d.toNat) 1 id).enqueue c id 0x26
        (.xcnt (w % 256) (decide (256 ≤ w)) (g.sc c.slotB b.toNat) d.toNat) [] 0

/-- XCNT leaves the issue queue: its release is complete and the counter changes. -/
def State.leaveXcnt (s : State) (g : Nat) (e : Entry) (cnt : Nat) (isAdd : Bool) (b : Word) : State :=
  let ctx := s.ctxOf g
  let old := tgetD (s.ctx ctx).counters cnt 0
  (s.modGrp g fun x => x.supply1 e.id old).setCounter ctx cnt (if isAdd then old + b else b)

/-- XWAIT (R322). -/
def execXwait (d a b : BitVec 7) (s : State) : Host.Outcome State Fault Refusal :=
  word (.xwait d a b) s fun c s =>
    let g := s.grp c.grp
    let cnt := (g.sc c.slotB a.toNat).toNat
    let t := g.sc c.slotB b.toNat
    if 255 < cnt then s.trapE c Code.CNTBAD
    else
      let v := tgetD (s.ctx (s.ctxOf c.grp)).counters cnt 0
      if satisfies v t then (s.postS c d.toNat v).acquireAt c.grp .sys
      else
        let (id, s) := s.fresh
        (s.postWait c (sreg d.toNat) 1 id).park c (.counter cnt) (.xwait d a b) t id

end Sys2Proof.Machine
end

