-- ==== Sys2Proof/Machine/Bundle.lean ====
section
/-! DEFINITION. Pipes (R29, R46) and the bundle that a slot finds at its program counter, with the first cause of R43 in it (R27, R28,
R43-R45), and the page that a fetch waits for (R229). -/

namespace Sys2Proof.Machine

/-! ## Pipes (R29, R46) -/

/-- Pipe classes of the opcode map. -/
inductive Pipe where
  | s | v | vb | m | x | none
  deriving DecidableEq, Repr

/-- The pipe class of a word (R46). -/
def pipeOf (raw : Nat) : Pipe :=
  let op := fld raw 24 6
  let x := fld raw 0 3
  match op with
  | 0x00 | 0x0F | 0x1F | 0x24 | 0x25 | 0x35 | 0x36 | 0x37 => .none
  | 0x0A | 0x0B | 0x0C | 0x0E => .s
  | 0x0D => if x ≤ 1 then .s else .v
  | 0x18 | 0x1A | 0x1B => .vb
  | 0x3F => if fld raw 16 8 = 0 then .none else .x
  | _ => if op ≤ 0x19 then .v else if 0x28 ≤ op ∧ op ≤ 0x32 then .m else .x

/-- A word at which a bundle first breaks a limit of R29, after words of the classes `ps`. -/
def breaksLimit (ps : List Pipe) (p : Pipe) : Bool :=
  let vs := (ps.filter fun q => q == .v || q == .vb).length
  match p with
  | .v => decide (2 ≤ vs)
  | .vb => decide (2 ≤ vs) || ps.contains .vb
  | .none => false
  | p => ps.contains p

/-- The vector pipes of a bundle with words of the classes `ps` (R29): VA is pipe 1, VB pipe 2. A lone V word takes VA if it is
free, else VB if that is free, else the one that is free first. -/
def vectorPipes (ps : List Pipe) (freeA freeB aFirst : Bool) : List Nat :=
  match ps.contains .vb, (ps.filter fun q => q == .v).length with
  | true, 0 => [2]
  | true, _ => [1, 2]
  | false, 0 => []
  | false, 1 => if freeA || (!freeB && aFirst) then [1] else [2]
  | false, _ => [1, 2]

/-- The pipes that a bundle needs: 0 S, 1 VA, 2 VB, 3 M, 4 X. -/
def pipesOf (ps : List Pipe) (freeA freeB aFirst : Bool) : List Nat :=
  (if ps.contains .s then [0] else []) ++ vectorPipes ps freeA freeB aFirst ++ (if ps.contains .m then [3] else []) ++
    (if ps.contains .x then [4] else [])

/-! ## Bundles (R27, R28, R43) -/

/-- What a slot finds at its program counter. -/
inductive Bundle where
  | ok (ws : List DWord)
  /-- Word `j` raises a cause of class I. -/
  | bad (j : Nat) (cause : Cause) (info : Word) (va : Option Nat) (repi : Nat)
  /-- The page of word `j`, at `va`, is not present: firmware is asked first (R27, R229). -/
  | wait (j va : Nat)

/-- Words from index `i` on, up to the end of the bundle, and the cause that stops their fetch. -/
def State.rawBundle (s : State) (ctx : Nat) : Nat → Nat → List Nat × Option Cause
  | 0, _ => ([], none)
  | n + 1, i =>
    match s.fetchWord ctx i with
    | .error c => ([], some c)
    | .ok w =>
      if w.getLsbD 31 && n != 0 then
        let r := s.rawBundle ctx n (i + 1)
        (w.toNat :: r.1, r.2)
      else ([w.toNat], none)

/-- Majors of format FI. -/
def isFI (raw : Nat) : Bool := [0x04, 0x05, 0x0B].contains (fld raw 24 6)

/-- LIT breaks R45; `next` is the bundle's next word, `cut` says that its fetch failed. -/
def litBad (raw : Nat) (next : Option Nat) (cut : Bool) : Bool :=
  fld raw 24 6 == 0x25 && (match next with
    | some w => !isFI w
    | none => !cut)

/-- The words of a REP's iterations as bits, its target the first of them, each with whether its fields hold it; none where R44 refuses
one with ILLREP. -/
def repIterations (raw target : Nat) : List (Option (Nat × Bool)) :=
  match repFields (fld target 24 6) with
  | none => [none]
  | some f =>
    let on (i : Nat) : Bool := fld raw i 1 == 1
    (List.range (fld raw 18 6 + 1)).map fun i =>
      repWord target (rawLoose target f) f (on 17) (on 16) (on 15) (2 ^ fld raw 13 2) i

/-- REP breaks R44. -/
def repBad (raw : Nat) (next : Option Nat) (cut : Bool) : Bool :=
  fld raw 24 6 == 0x24 && (fld raw 0 13 != 0 || (match next with
    | some w => (repIterations raw w).any Option.isNone
    | none => !cut))

/-- V24 of a LIT. -/
def litOf (raw : Nat) : Option (BitVec 24) := if fld raw 24 6 = 0x25 then some (BitVec.ofNat 24 raw) else none

/-- The cause of one word's own checks. -/
def State.wordCheck (s : State) (g : Nat) (b : Bool) (lit : Option (BitVec 24)) (raw : Nat) : Option (Cause × Word) :=
  match rawWord raw with
  | none => some (Code.ILLOP, BitVec.ofNat 32 raw)
  | some d => s.issueCause g b lit d.raw d.instr

/-- The first cause of R43 among the iterations of a REP, with its number (R44). -/
def State.repCheck (s : State) (g : Nat) (b : Bool) (rep raw : Nat) : Option (Cause × Word × Nat) :=
  let its := (repIterations rep raw).zip (List.range 64)
  its.findSome? fun x => match x.1 with
    | some (w, fits) =>
      let c := if fits then s.wordCheck g b none w else some (Code.ILLOP, BitVec.ofNat 32 w)
      c.map fun c => (c.1, c.2, x.2)
    | none => none

/-- The cause of word `j` of a bundle that starts at word index `i`, in the order of R43. (DEDUCED, log 15) -/
def State.bundleCause (s : State) (g : Nat) (b : Bool) (i : Nat) (ws : List Nat) (cut : Bool) (j : Nat) :
    Option (Cause × Word × Nat) :=
  let raw := ws.getD j 0
  let w := BitVec.ofNat 32 raw
  let ps := (ws.take j).map pipeOf
  let before : Option Nat := if j = 0 then none else ws[j - 1]?
  if (i + j) % 3 = 2 ∧ w.getLsbD 31 = true ∨ breaksLimit ps (pipeOf raw) = true then some (Code.ILLPKT, w, 0)
  else if litBad raw ws[j + 1]? cut then some (Code.ILLLIT, w, 0)
  else if repBad raw ws[j + 1]? cut then some (Code.ILLREP, w, 0)
  else
    match s.wordCheck g b (before.bind litOf) raw with
    | some c => some (c.1, c.2, 0)
    | none =>
      match before with
      | some p => if fld p 24 6 = 0x24 then s.repCheck g b p raw else none
      | none => none

/-- The bundle at a word index, with the first cause of R43 in it. -/
def State.bundle (s : State) (g : Nat) (b : Bool) (pos : Dword) : Bundle :=
  let ctx := s.ctxOf g
  let i := pos.toNat
  let r := s.rawBundle ctx (3 - i % 3) i
  let n := r.1.length
  match (List.range n).findSome? fun j => (s.bundleCause g b i r.1 r.2.isSome j).map fun c => (j, c) with
  | some (j, c, info, k) => .bad j c info none k
  | none =>
    match r.2 with
    | none => .ok (r.1.filterMap rawWord)
    | some c =>
      let va := 4 * (i + n) % 18446744073709551616
      if c = Code.PFNP then .wait n va else .bad n c (s.fetchInfo ctx va c) (some va) 0

/-! ## The page that a fetch waits for (R27, R229) -/

/-- The slot would fetch its next bundle now: it is RUN, not parked, with no iteration or reissued word left, and no trap, marker or other
slot's handler keeps it from the fetch. -/
def Group.fetches (x : Group) (b : Bool) : Bool :=
  let y := x.slot b
  !x.dead && y.st == .run && y.rep.isNone && y.park.isNone && y.point != some y.pc && x.trap.isNone && !x.sync &&
    !(x.priv && b != x.privB)

/-- The word, by its place in the bundle, and the address whose page the slot's fetch waits for. A packet whose pages are both present has
none. (DEDUCED, log 15) -/
def State.fetchAsk (s : State) (g : Nat) (b : Bool) : Option (Nat × Nat) :=
  let x := s.grp g
  let pc := (x.slot b).pc.toNat
  let here (i : Nat) : Bool := (s.leaf (s.ctxOf g) (4 * i % 18446744073709551616)).isSome
  if !x.fetches b || here pc && here (pc + 2 - pc % 3) then none
  else
    match s.bundle g b (x.slot b).pc with
    | .wait j va => some (j, va)
    | _ => none

/-- Addresses whose pages the group's fetches wait for. -/
def State.fetchVas (s : State) (g : Nat) : List Nat :=
  ((s.fetchAsk g false).toList ++ (s.fetchAsk g true).toList).map Prod.snd

/-- Firmware is looking at an access, a word or a fetch of the group (R229). -/
def State.asks (s : State) (g : Nat) : Bool := (s.grp g).asking || !(s.fetchVas g).isEmpty

end Sys2Proof.Machine
end

