-- ==== Sys2Proof/Machine/Mean.lean ====
section
/-! DEFINITION. The transformed mean of a group (R92-R95): TMENT, TMMRG, TMEXT, TMRED, TMLD. -/

namespace Sys2Proof.Machine

open Sys2Proof.Fp

/-- The table pairs that the group may use: loaded and VALID (R68, R95). -/
def State.tablesOf (s : State) (g : Nat) : Tables := fun k =>
  if (s.grp g).regs.tfn.getLsbD k then
    match tget (s.core (coreOf g)).tables k with
    | some ws => some (ws.take 257, ws.drop 257)
    | none => none
  else none

/-- The mode that %tshape selects now. -/
def Group.tmMode (g : Group) : TmMode := Fp.tmMode g.regs.tshape

/-- A partial in a lane. -/
def Group.partialAt (g : Group) (n i : Nat) : Partial := ⟨g.v n i, g.v (n + 1) i, g.v (n + 2) i⟩

/-- Flags of a lane inside the domain. -/
def tmFlags {α : Type} (r : TmRes α) : Word :=
  match r with
  | .ok _ fl => fl
  | .tovf fl => fl
  | _ => 0

def isTdom {α : Type} (r : TmRes α) : Bool := match r with | .tdom => true | _ => false
def isTovf {α : Type} (r : TmRes α) : Bool := match r with | .tovf _ => true | _ => false
def isTtab {α : Type} (r : TmRes α) : Bool := match r with | .ttab => true | _ => false
def isOk {α : Type} (r : TmRes α) : Bool := match r with | .ok _ _ => true | _ => false

/-- The per-lane forms (R92): an unloaded table stops the word; then enabled flags write nothing; then the lanes inside
the domain are written and the others trap. `post` writes the results of the lanes of a mask. (DEDUCED, log 29) -/
def State.tmWord {α : Type} (s : State) (c : Cursor) (f : Nat → TmRes α)
    (post : State → Cursor → (Nat → TmRes α) → State) : State :=
  let rs := (List.range 96).map f
  let r (i : Nat) : TmRes α := rs.getD i .tdom
  let fl := orFlags c.lanes fun i => tmFlags (r i)
  let tab := mask1 c.lanes fun i => isTtab (r i)
  if tab ≠ 0 then s.raiseE c Code.TTAB tab 0 0 []
  else
    match enabledTrap (s.grp c.grp).regs.mode c.lanes fun i => tmFlags (r i) with
    | some (cause, m) => s.raiseE c cause m 0 fl []
    | none =>
      let good := mask1 c.lanes fun i => isOk (r i)
      let dom := mask1 c.lanes fun i => isTdom (r i)
      let ovf := mask1 c.lanes fun i => isTovf (r i)
      let s := (post s { c with lanes := good } r).postFlags c fl
      if dom ≠ 0 then s.raiseE c Code.TDOM dom good fl []
      else if ovf ≠ 0 then s.raiseE c Code.TOVF ovf good fl []
      else s

/-- Writes partials. -/
def postPartial (d : Nat) (s : State) (c : Cursor) (r : Nat → TmRes Partial) : State :=
  let get (p : Partial → Word) : List Word :=
    perLane fun i => match r i with | .ok x _ => p x | _ => 0
  if c.lanes = 0 then s
  else ((s.postV c d (get fun x => x.s)).postV c (d + 1) (get fun x => x.e)).postV c (d + 2) (get fun x => x.n)

/-- Writes means. -/
def postMean (d : Nat) (s : State) (c : Cursor) (r : Nat → TmRes Word) : State :=
  if c.lanes = 0 then s else s.postV c d (perLane fun i => match r i with | .ok x _ => x | _ => 0)

/-- TMENT (R93, R70). -/
def execTment (d a : BitVec 7) (s : State) : Host.Outcome State Fault Refusal :=
  word (.tment d a) s fun c s =>
    let g := s.grp c.grp
    s.tmWord c (fun i => tmEntry g.tmMode (s.tablesOf c.grp) (g.v a.toNat i)) (postPartial d.toNat)

/-- TMMRG (R93, R71). -/
def execTmmrg (d a b : BitVec 7) (s : State) : Host.Outcome State Fault Refusal :=
  word (.tmmrg d a b) s fun c s =>
    let g := s.grp c.grp
    s.tmWord c (fun i => tmMerge g.tmMode (g.partialAt a.toNat i) (g.partialAt b.toNat i)) (postPartial d.toNat)

/-- TMEXT (R93, R72). -/
def execTmext (d a : BitVec 7) (s : State) : Host.Outcome State Fault Refusal :=
  word (.tmext d a) s fun c s =>
    let g := s.grp c.grp
    s.tmWord c (fun i => tmExit g.tmMode (s.tablesOf c.grp) (g.partialAt a.toNat i)) (postMean d.toNat)

/-! ## TMRED (R94) -/

/-- The identity partial. -/
def tmIdentity : Partial := ⟨0, 0x80000000, 0⟩

/-- A node of the tree: its value if its merges all had one, the flags, and whether TOVF or TDOM arose below. -/
structure TmNode where
  val : Option Partial
  fl : Word := 0
  ovf : Bool := false
  dom : Bool := false

/-- Merges two nodes, the lower lanes first. -/
def tmNode (mode : TmMode) (a b : TmNode) : TmNode :=
  let fl := a.fl ||| b.fl
  let ovf := a.ovf || b.ovf
  let dom := a.dom || b.dom
  match a.val, b.val with
  | some x, some y =>
    match tmMerge mode x y with
    | .ok z f => ⟨some z, fl ||| f, ovf, dom⟩
    | .tovf f => ⟨none, fl ||| f, true, dom⟩
    | _ => ⟨none, fl, ovf, true⟩
  | _, _ => ⟨none, fl, ovf, dom⟩

/-- One level of a beat's tree: pairs of neighbours. -/
def tmLevel (mode : TmMode) : List TmNode → List TmNode
  | a :: b :: r => tmNode mode a b :: tmLevel mode r
  | l => l

/-- The tree of TMRED over the 96 lanes' inputs. -/
def tmTree (mode : TmMode) (xs : List Partial) : TmNode :=
  let leaf (p : Partial) : TmNode := { val := some p }
  let beat (b : Nat) : TmNode :=
    let l := (List.range 32).map fun i => leaf (xs.getD (32 * b + i) tmIdentity)
    let l5 := tmLevel mode (tmLevel mode (tmLevel mode (tmLevel mode (tmLevel mode l))))
    l5.headD (leaf tmIdentity)
  tmNode mode (tmNode mode (beat 0) (beat 1)) (beat 2)

/-- TMRED (R94). (DEDUCED, log 29) -/
def execTmred (d a : BitVec 7) (s : State) : Host.Outcome State Fault Refusal :=
  word (.tmred d a) s fun c s =>
    let g := s.grp c.grp
    let mode := g.tmMode
    let xs := (List.range 96).map fun i => if c.lanes.getLsbD i then g.partialAt a.toNat i else tmIdentity
    let bad := mask1 c.lanes fun i => !tmInputOk mode (xs.getD i tmIdentity)
    if bad ≠ 0 then s.raiseE c Code.TDOM bad 0 0 []
    else
      let t := tmTree mode xs
      match flagTraps.find? fun x => g.regs.mode.getLsbD x.2.1 && t.fl.getLsbD x.1 with
      | some x => s.raiseE c x.2.2 c.lanes 0 t.fl []
      | none =>
        if t.ovf then s.raiseE c Code.TOVF c.lanes 0 t.fl []
        else if t.dom then s.raiseE c Code.TDOM c.lanes 0 t.fl []
        else (postPartial d.toNat s c fun _ => .ok (t.val.getD tmIdentity) 0).postFlags c t.fl

/-! ## TMLD (R95) -/

/-- VALID bit `k` of %tfn. -/
def validBit (k : Nat) : Word := 1#32 <<< k

/-- Clears VALID bit `k` of a group because another group has loaded the pair: in the register and in results still to land. -/
def Group.unload (g : Group) (k : Nat) : Group :=
  let drop (x : Result) : Result :=
    if x.reg = .spr 0x03 ∧ x.how = .or then { x with vals := x.vals.map fun w => w &&& ~~~(validBit k) } else x
  { g with regs := { g.regs with tfn := g.regs.tfn &&& ~~~(validBit k) }, out := g.out.map drop }

/-- Loads pair `k` into the core's table store from an image that passes the checks: every other group of the core loses the bit,
and the core notes where the group's pair came from (R95). (DEDUCED, log 30) -/
def State.loadPair (s : State) (g k va : Nat) (ws : List Word) : State :=
  let core := coreOf g
  let s := s.setCore core { s.core core with tables := tset (s.core core).tables k ws }
  let clear (x : Nat × Group) : Nat × Group := if coreOf x.1 = core ∧ x.1 ≠ g then (x.1, x.2.unload k) else x
  let s := { s with groups := s.groups.map clear }
  s.modGrp g fun x => { x with tmld := tset x.tmld k (BitVec.ofNat 64 va) }

/-- The table pair in an image, if it passes the checks of R73. -/
def pairIn (bs : List Byte) : Option (List Word) :=
  let ws := wordsFrom 514 bs
  if pairOk (ws.take 257) (ws.drop 257) then some ws else none

/-- A result that sets, or clears, VALID bit `k` (R31, R95). -/
def State.postValid (s : State) (c : Cursor) (k : Nat) (v : Bool) : State :=
  s.postR c.grp
    { slotB := c.slotB, reg := .spr 0x03, mask := 1, vals := [if v then validBit k else ~~~(validBit k)]
      how := if v then .or else .and, src := 0 }

/-- TMLD (R95). (DEDUCED, log 30) -/
def execTmld (a k : BitVec 7) (s : State) : Host.Outcome State Fault Refusal :=
  word (.tmld a k) s fun c s =>
    let va := ((s.grp c.grp).sp c.slotB a.toNat).toNat
    match s.readAt c.grp va 2056 4 with
    | .error e => s.raiseRead c 0x1B e
    | .ok bs =>
      let s := s.seenAt c.grp va 2056
      match pairIn bs with
      | some ws => (s.loadPair c.grp k.toNat va ws).postValid c k.toNat true
      | none => (s.postValid c k.toNat false).trapE c Code.TTAB

end Sys2Proof.Machine
end

