-- ==== Sys2Proof/Machine/MatrixUnit.lean ====
section
/-! DEFINITION. The matrix engine (R199-R221): control words and handles, operands and the operand cache, the arithmetic of
one step, skipping and its audit, the queue of a core and its streams, the steps of operations and what their end does; the
event MATRIX_STEP. -/

namespace Sys2Proof.Machine

open Sys2Proof.Fp

/-! ## Control words (R201) -/

def ctlM (w : Word) : Nat := 32 * 2 ^ fld w.toNat 14 2
def ctlN (w : Word) : Nat := 32 * 2 ^ fld w.toNat 16 2
def ctlRow (w : Word) : Nat := fld w.toNat 0 7
def ctlCol (w : Word) : Nat := fld w.toNat 7 7
def ctlInt8 (w : Word) : Bool := w.getLsbD 18
def ctlTeam (w : Word) : Bool := w.getLsbD 21

/-- MSHAPE of a control word; `used` holds the bits among TEAM, BSRC, ASRC and TYPE that the operation uses. -/
def ctlBad (w used : Word) : Bool :=
  fld w.toNat 14 2 == 3 || fld w.toNat 16 2 == 3 || decide (128 < ctlRow w + ctlM w) || decide (128 < ctlCol w + ctlN w) ||
    w &&& 0xFFC00000 != 0 || w &&& 0x003C0000 &&& ~~~used != 0

/-! ## Handles (R203) -/

def hOwn (h : Dword) : Nat := fld h.toNat 0 5
def hBase (h : Dword) : Nat := fld h.toNat 5 12
def hRp (h : Dword) : Nat := fld h.toNat 17 12
def hTp (h : Dword) : Nat := fld h.toNat 32 16
def hHbx (h : Dword) : Nat := fld h.toNat 51 13

/-- The rotation k that ROT selects. -/
def hRot (h : Dword) : Nat := [0, 1, 2, 4, 8, 16, 3, 5].getD (fld h.toNat 48 3) 0

/-- The handle with another BASE. -/
def hAt (h : Dword) (base : Int) : Dword := h - BitVec.ofNat 64 (32 * hBase h) + BitVec.ofNat 64 (32 * base.toNat)

/-- offset(t, r, w) of R203. -/
def hOff (h : Dword) (t r w : Nat) : Nat :=
  64 * hBase h + 64 * hTp h * t + 64 * hRp h * r + 4 * ((w + r * hRot h) % 32)

/-- Offset of the header of tile `t` (R217). -/
def hHead (h : Dword) (t : Nat) : Nat := 32 * hHbx h + 16 * ((64 * hBase h + 64 * hTp h * t) / 2048)

/-- Words of `n` tiles from tile `t` on, as offsets in the order of rows and words. -/
def hWords (h : Dword) (t n : Nat) : List Nat :=
  (List.range n).flatMap fun i => (List.range 32).flatMap fun r => (List.range 16).map fun w => hOff h (t + i) r w

/-- Every byte of those tiles lies in an allocation of the context on the owner core (R177). -/
def State.handleHeld (s : State) (ctx cl : Nat) (h : Dword) (t n : Nat) : Bool :=
  let core := 32 * cl + hOwn h
  if hRot h = 0 then
    (List.range n).all fun i => (List.range 32).all fun r => s.spadRange ctx core (hOff h (t + i) r 0) 64
  else (hWords h t n).all fun o => s.spadRange ctx core o 4

/-- The headers of those tiles can be read (R217). -/
def State.headsHeld (s : State) (ctx cl : Nat) (h : Dword) (n : Nat) : Bool :=
  (List.range n).all fun t =>
    (64 * hBase h + 64 * hTp h * t) % 2048 == 0 && s.spadRange ctx (32 * cl + hOwn h) (hHead h t) 16

/-- The span of the words of a list of handles, as a cluster address and a length. -/
def spanOfWords (own : Nat) (ws : List Nat) : Nat × Nat :=
  let lo := ws.foldl min (ws.headD 0)
  let hi := ws.foldl max 0
  (262144 * own + lo, hi + 4 - lo)

/-! ## Operands (R202, R203, R211) -/

/-- Rows of 16 words from bytes. -/
def rowsFrom : Nat → List Byte → List (List Word)
  | 0, _ => []
  | n + 1, bs => wordsFrom 16 bs :: rowsFrom n (bs.drop 64)

/-- Bytes of `n` tiles that a handle names, row by row. -/
def State.tileBytes (s : State) (cl : Nat) (h : Dword) (t n : Nat) : List Byte :=
  let core := 32 * cl + hOwn h
  if hRot h = 0 then
    (List.range n).flatMap fun i => (List.range 32).flatMap fun r => s.spadBytes core (hOff h (t + i) r 0) 64
  else (hWords h t n).flatMap fun o => s.spadBytes core o 4

/-- Bytes of `n` tiles in the slots from number `k` on of a ring, one tile a slot. -/
def State.slotTiles (s : State) (cl r : Nat) (k : BitVec 16) (n : Nat) : List Byte :=
  (List.range n).flatMap fun i => s.clusterBytes cl ((s.ring cl r).slot (k + BitVec.ofNat 16 i).toNat) 2048

/-! ## The operand cache (R204) -/

/-- A hit: an entry of this handle and generation that holds the `n` bytes of the fetch. (DEDUCED, log 73) -/
def Core.cached (c : Core) (h : Dword) (gen n : Nat) : Option OpEntry :=
  c.opCache.find? fun e => e.handle == h && e.gen == gen && decide (n ≤ e.bytes.length)

/-- An entry becomes the most recently used of at most 8. (DEDUCED, log 73) -/
def Core.cache (c : Core) (e : OpEntry) : Core :=
  { c with opCache := (e :: c.opCache.filter fun x => !(x.handle == e.handle && x.gen == e.gen)).take 8 }

/-- A scratchpad operand of a step: from the cache where `cached` and it hits, else from the banks. Without a hit the bytes
must lie in allocations of the context (R177). (DEDUCED, log 73) -/
def State.fetchTiles (s : State) (core ctx : Nat) (h : Dword) (gen t n : Nat) (cached bypass : Bool) :
    Option (State × List Byte) :=
  let cl := clusterOf core
  match (if cached && !bypass then (s.core core).cached h gen (2048 * n) else none) with
  | some e => some (s.setCore core ((s.core core).cache e), e.bytes.take (2048 * n))
  | none =>
    if s.handleHeld ctx cl h t n then
      let bs := s.tileBytes cl h t n
      some (if bypass then s else s.setCore core ((s.core core).cache ⟨h, gen, bs⟩), bs)
    else none

/-! ## One step's arithmetic (R208) -/

/-- A sum of products: finite part in units of 2^(-266), with what is not finite in it. -/
structure Dot where
  sum : Int := 0
  pinf : Bool := false
  ninf : Bool := false
  nan : Bool := false
  deriving DecidableEq, Repr

/-- The BF16 codes of a row, and its i8 values. -/
def bfElems (ws : List Word) : List Nat := ws.flatMap fun w => [w.toNat % 65536, w.toNat / 65536]
def i8Elems (ws : List Word) : List Int :=
  ws.flatMap fun w => (List.range 4).map fun b => (w.extractLsb' (8 * b) 8).toInt

/-- Adds one product. -/
def Dot.addProduct (d : Dot) (x y : FVal) : Dot :=
  if isNan x || isNan y then { d with nan := true }
  else
    match mulVal x y with
    | some (.fin n m e) => { d with sum := d.sum + scaled n m e (-266) }
    | some (.inf n) => if n then { d with ninf := true } else { d with pinf := true }
    | some (.zero _) => d
    | _ => { d with nan := true }

/-- The exact sum of one pair of rows. -/
def dotRow (int8 : Bool) (a b : List Word) : Dot :=
  if int8 then { sum := ((i8Elems a).zip (i8Elems b)).foldl (fun t p => t + p.1 * p.2) 0 }
  else ((bfElems a).zip (bfElems b)).foldl (fun d p => d.addProduct (bf16.unpack p.1) (bf16.unpack p.2)) {}

/-- The sum is a NaN. -/
def Dot.isNan (d : Dot) : Bool := d.nan || (d.pinf && d.ninf)

/-- A cell after one step. (DEDUCED, log 72) -/
def cellAfter (int8 : Bool) (c : Word) (d : Dot) : Word :=
  if int8 then BitVec.ofInt 32 (c.toInt + d.sum)
  else
    let inf := d.pinf || d.ninf
    match fp32.unpack c.toNat with
    | .nan _ => nan32
    | .inf n => if d.isNan || (if n then d.pinf else d.ninf) then nan32 else c
    | .zero _ => fin 0 0 inf
    | .fin n m e => fin (if n then -(m : Int) else m) e inf
where
  /-- A finite cell of value `m` x 2^`e`. -/
  fin (m e : Int) (inf : Bool) : Word :=
    if d.isNan then nan32
    else if inf then BitVec.ofNat 32 (fp32.infCode d.ninf)
    else
      let t := d.sum + m * 2 ^ (e + 266).toNat
      if t = 0 then 0 else BitVec.ofNat 32 (fp32.round .rne false ⟨decide (t < 0), t.natAbs, -266, false⟩).1

/-- A cell of the store. -/
def Core.cell (c : Core) (row col : Nat) : Word := (tgetD c.acc row []).getD col 0

/-- One row changed in columns `col` to `col + n - 1`. -/
def Core.setRow (c : Core) (row col n : Nat) (f : Nat → Word → Word) : Core :=
  let old := tgetD c.acc row []
  let new := (List.range 128).map fun k => if col ≤ k ∧ k < col + n then f (k - col) (old.getD k 0) else old.getD k 0
  { c with acc := tset c.acc row new }

/-- Rows `row` to `row + m - 1` changed. -/
def Core.setRect (c : Core) (row col m n : Nat) (f : Nat → Nat → Word → Word) : Core :=
  (List.range m).foldl (fun c i => c.setRow (row + i) col n (f i)) c

/-- Every sum of a step, row by row. -/
def dots (int8 : Bool) (a b : List (List Word)) : List (List Dot) := a.map fun x => b.map fun y => dotRow int8 x y

/-- The rectangle of a control word after a step with operand rows `a` and `b`. -/
def Core.computed (c : Core) (ctl : Word) (a b : List (List Word)) : Core :=
  let d := dots (ctlInt8 ctl) a b
  c.setRect (ctlRow ctl) (ctlCol ctl) (ctlM ctl) (ctlN ctl) fun i j w =>
    cellAfter (ctlInt8 ctl) w ((d.getD i []).getD j {})

/-! ## Skipping (R216-R219) -/

def mcfgSke (w : Word) : Bool := w.getLsbD 31
def mcfgAte (w : Word) : Bool := w.getLsbD 30
def mcfgAp (w : Word) : Nat := fld w.toNat 26 4
def mcfgThr (w : Word) : Nat := fld w.toNat 17 9
def mcfgBnd (w : Word) : Nat := fld w.toNat 8 8

/-- TYPE and MAXE of headers. -/
def headOf (bs : List Byte) : Nat × Nat := ((bs.getD 1 0).toNat, (bs.getD 0 0).toNat)

/-- The step is skipped under the headers of its tiles. -/
def skips (mcfg : Word) (int8 : Bool) (ha hb : List (Nat × Nat)) : Bool :=
  let big (l : List (Nat × Nat)) : Nat := l.foldl (fun m h => max m h.2) 0
  (ha ++ hb).all (fun h => h.1 == (if int8 then 1 else 0) && h.2 != 255) && decide (big ha + big hb < mcfgThr mcfg)

/-- One more, at most `top`. -/
def satInc (top n : Nat) : Nat := if n < top then n + 1 else n

/-- %audit after a skipped step. (DEDUCED, log 72) -/
def auditAfter (w : Word) (audited viol : Bool) : Word :=
  let a := fld w.toNat 6 10
  let v := fld w.toNat 0 6
  BitVec.ofNat 32 (satInc 65535 (fld w.toNat 16 16) * 65536 + (if audited then satInc 1023 a else a) * 64 +
    (if viol then satInc 63 v else v))

/-- The sum in the operation's own type is a NaN or an infinity: an FP32 sum may round to one. -/
def Dot.wild (d : Dot) (int8 : Bool) : Bool :=
  d.isNan || d.pinf || d.ninf ||
    (!int8 && (fp32.round .rne false ⟨decide (d.sum < 0), d.sum.natAbs, -266, false⟩).1 == fp32.infCode (decide (d.sum < 0)))

/-- The audited step breaks its bound 2^(BND - 127); FP32 sums are held in units of 2^(-266). -/
def breaks (mcfg : Word) (int8 : Bool) (ds : List (List Dot)) : Bool :=
  let e : Int := mcfgBnd mcfg - 127 + (if int8 then 0 else 266)
  ds.any fun r => r.any fun d =>
    d.wild int8 || (if 0 ≤ e then decide (2 ^ e.toNat ≤ d.sum.natAbs) else decide (1 ≤ d.sum.natAbs))

/-- A write of %audit by a word of the group is about to land: the audits of later steps come after it (R220). -/
def Group.auditDue (g : Group) : Bool :=
  (List.range g.out.length).any fun k => match g.out[k]? with
    | some r => r.reg == .spr 0x35 && r.src == 0 && !resultBlocked g.out k r 1
    | none => false

/-- Changes %audit of a group, with the copy that a pending fence keeps; an open region keeps its value at the TRY (R158). -/
def Group.modAudit (g : Group) (f : Word → Word) : Group :=
  let r (x : Regs) : Regs := { x with audit := f x.audit }
  let h (x : SpecFence) : SpecFence := { x with ckpt := { x.ckpt with regs := r x.ckpt.regs } }
  { g with regs := r g.regs, spec := g.spec.map h }

/-- A cause of a matrix operation on its group, in the class that R115 gives it: A for AUDIT, E for the others (R103, R218).
(DEDUCED, log 74) -/
def State.raiseMat (s : State) (op : MatOp) (cause : Cause) (info : Word) : State :=
  (s.raise op.grp
    { cause := cause, cls := if cause = Code.AUDIT then .a else .e, slotB := op.slotB, pos := op.pos, info := info
      repi := op.repi, resume := op.resume, serial := op.serial }).settle op.grp

/-- A skipped step of an operation: the skip count, the audit of every 2^AP-th (R218). -/
def State.skipStep (s : State) (op : MatOp) (a b : List (List Word)) : State :=
  let g := s.grp op.grp
  let phi := g.phi + 1
  let audited := phi.toNat % 2 ^ mcfgAp op.mcfg == 0
  let viol := audited && breaks op.mcfg (ctlInt8 op.ctl) (dots (ctlInt8 op.ctl) a b)
  let s := s.setGrp op.grp ({ g with phi := phi }.modAudit fun w => auditAfter w audited viol)
  if viol && mcfgAte op.mcfg then s.raiseMat op Code.AUDIT (BitVec.ofNat 32 op.stream) else s

/-! ## Operations in a core's queue (R205) -/

/-- Rows that an operation touches. -/
def MatOp.rows (o : MatOp) : List Nat :=
  match o.kind with
  | .mav => (List.range ((o.cell + 95) / 128 - o.cell / 128 + 1)).map (o.cell / 128 + ·)
  | .mva => (List.range ((o.cell + 95) / 128 - o.cell / 128 + 1)).map (o.cell / 128 + ·)
  | _ => (List.range (ctlM o.ctl)).map (ctlRow o.ctl + ·)

/-- The operation is an accumulator move (R214). -/
def MatOp.move (o : MatOp) : Bool :=
  match o.kind with
  | .mav => true | .mva => true
  | _ => false

/-- Key of a stream of a core. -/
def MatOp.key (o : MatOp) : Nat := 8 * (o.grp % 32) + o.stream

/-- Operation `k` is the head of its stream. -/
def Core.isHead (c : Core) (k : Nat) (o : MatOp) : Bool :=
  !(c.mq.take k).any fun x => x.grp == o.grp && x.stream == o.stream

/-- Replaces an operation of the queue. -/
def Core.setOp (c : Core) (o : MatOp) : Core := { c with mq := c.mq.map fun x => if x.id = o.id then o else x }

/-- Operations of a team's number that cores of the cluster have in their queues, as (core, position in the queue, operation). (DEDUCED, log 75) -/
def State.mates (s : State) (cl team num : Nat) : List (Nat × Nat × MatOp) :=
  s.cores.flatMap fun e =>
    if clusterOf e.1 = cl then
      (e.2.mq.zipIdx.filter fun x => x.1.team == some team && x.1.tnum == num).map fun x => (e.1, x.2, x.1)
    else []

/-- Every member's operation is an admitted head at the same step (R221). (DEDUCED, log 75) -/
def State.teamReady (s : State) (cl : Nat) (o : MatOp) : Bool :=
  match o.team with
  | none => true
  | some t =>
    let ms := s.mates cl t o.tnum
    ms.length == o.tsize && ms.all fun m => m.2.2.admitted && m.2.2.step == o.step && (s.core m.1).isHead m.2.1 m.2.2

/-- The place of an operation's stream in a core's round-robin order, from the stream after the one served last (R205). -/
def Core.rank (c : Core) (o : MatOp) : Nat := (o.key + 255 - c.lastStream % 256) % 256

/-- No other member's engine has a stream of its own due before the team operation. (DEDUCED, log 76) -/
def State.teamDue (s : State) (core : Nat) (o : MatOp) : Bool :=
  match o.team with
  | none => true
  | some t =>
    let first (m : Nat × Nat × MatOp) : Bool :=
      let c := s.core m.1
      !(c.mq.zipIdx.any fun x => c.isHead x.2 x.1 && x.1.admitted && x.1.team.isNone && decide (c.rank x.1 < c.rank m.2.2))
    (s.mates (clusterOf core) t o.tnum).all fun m => m.1 == core || first m

/-- The operation that a core's engine serves next: admitted stream heads in round-robin order from the stream after the one
served last. A team operation that another member is not due to serve yet is passed over. (DEDUCED, log 76) -/
def State.nextOp (s : State) (core : Nat) : Option MatOp :=
  let c := s.core core
  let heads := (c.mq.zipIdx.filter fun x =>
    c.isHead x.2 x.1 && x.1.admitted && s.teamReady (clusterOf core) x.1 && s.teamDue core x.1).map Prod.fst
  heads.foldl (fun b o => match b with | none => some o | some x => if c.rank o < c.rank x then some o else some x) none

/-! ## Admission (R206, R211) -/

/-- Ring sides of an operation: input rings with their counts, and the output ring of MSTA. -/
def MatOp.inRings (o : MatOp) : List (Nat × Nat) :=
  (match o.aRing with | some r => [(r, o.kcnt * (ctlM o.ctl / 32))] | none => []) ++
    (match o.kind, o.bRing with | .mloop, some r => [(r, o.kcnt * (ctlN o.ctl / 32))] | _, _ => [])

def MatOp.outRing (o : MatOp) : Option Nat :=
  match o.kind with
  | .msta => o.bRing
  | _ => none

/-- Bytes that MLDA and MSTA move. -/
def MatOp.blockLen (o : MatOp) : Nat := 4 * ctlM o.ctl * ctlN o.ctl

/-- A ring of the operation is not bound to its context. (DEDUCED, log 74) -/
def State.ringsLost (s : State) (cl ctx : Nat) (o : MatOp) : Bool :=
  (o.inRings.map Prod.fst ++ o.outRing.toList).any fun r => !(s.ring cl r).v || (s.ring cl r).ctx != ctx

/-- The rings have the slots that the operation needs. -/
def State.ringsHave (s : State) (cl : Nat) (o : MatOp) : Bool :=
  o.inRings.all (fun r => (s.ring cl r.1).canWait r.2) &&
    (match o.outRing with
     | some r => (s.ring cl r).canAcq (slotsFor (s.ring cl r) o.blockLen)
     | none => true)

/-- Takes the ring slots of an operation. -/
def State.takeMat (s : State) (cl : Nat) (o : MatOp) : State × MatOp :=
  let take (s : State) (r : Nat) (prod : Bool) (n : Nat) : BitVec 16 × State :=
    match s.takeSlots cl r prod n with
    | some (k, _, t) => (k, t)
    | none => (0, s)
  let x := match o.aRing with
    | some r =>
      let y := take s r false (o.kcnt * (ctlM o.ctl / 32))
      (y.2, { o with aSeq := y.1 })
    | none => (s, o)
  match o.kind, o.bRing with
  | .mloop, some r =>
    let y := take x.1 r false (o.kcnt * (ctlN o.ctl / 32))
    (y.2, { x.2 with bSeq := y.1 })
  | .msta, some r =>
    let y := take x.1 r true (slotsFor (x.1.ring cl r) o.blockLen)
    (y.2, { x.2 with bSeq := y.1 })
  | _, _ => x

/-- Gives them: input slots released, output slots published (R184). -/
def State.giveMat (s : State) (cl : Nat) (o : MatOp) : State :=
  let mark (x : Ring) : Ring := { x with wide := some (widerScope x.wide .clu) }
  let release (s : State) (r : Nat) (k : BitVec 16) (n : Nat) : State :=
    match (s.ring cl r).release k n with
    | some x => s.setRing cl r (mark x)
    | none => s
  let s := match o.aRing with
    | some r => release s r o.aSeq (o.kcnt * (ctlM o.ctl / 32))
    | none => s
  match o.kind, o.bRing with
  | .mloop, some r => release s r o.bSeq (o.kcnt * (ctlN o.ctl / 32))
  | .msta, some r =>
    match (s.ring cl r).publish o.bSeq (slotsFor (s.ring cl r) o.blockLen) with
    | some x => s.setRing cl r (mark x)
    | none => s
  | _, _ => s

/-! ## The end of an operation -/

/-- Rows whose release waits for nothing more are released and zeroed (R200). -/
def State.settleRows (s : State) (core : Nat) : State :=
  let c := s.core core
  let ops := c.mq ++ s.parkedOn core
  let busy (r : Nat × Nat) : Bool := ops.any fun o => (s.grp o.grp).wg == r.2 && o.rows.contains r.1
  let free := c.releasing.filter fun r => !busy r
  s.setCore core { c with
    releasing := c.releasing.filter busy
    rows := free.foldl (fun t r => tdel t r.1) c.rows
    acc := free.foldl (fun t r => tdel t r.1) c.acc }

/-- An operation leaves the queue. The DONE of an MLOOP counts on a counter only where its steps have been performed; an arrival at a barrier
it makes also where the operation has failed before them (R188, R210). -/
def State.finishMat (s : State) (core : Nat) (o : MatOp) : State :=
  let cl := clusterOf core
  let c := s.core core
  let s := (s.setCore core { c with mq := c.mq.filter fun x => x.id != o.id }).settleRows core
  let s := if o.admitted then s.giveMat cl o else s
  if o.kind = .mloop ∧ (o.admitted = true ∨ complKind o.done.toNat = 1) then s.signal (s.ctxOf o.grp) cl o.done.toNat .clu else s

/-! ## Steps -/

/-- Operand rows and headers of a step, and the state after its fetch. -/
structure Side where
  s : State
  rows : List (List Word)
  heads : List (Nat × Nat) := []

/-- One scratchpad or ring side of step `o.step`: `n` tiles from tile `t`, with their headers where `skip`. CSPBND where an allocation
has ended (R177), MOPND where a header lies outside the allocations (R217). -/
def State.side1 (s : State) (core ctx : Nat) (o : MatOp) (h : Dword) (inc : Int) (ring : Option Nat) (seq : BitVec 16)
    (t n : Nat) (skip cached : Bool) : Except Cause Side :=
  let cl := clusterOf core
  match ring with
  | some r =>
    let k := seq + BitVec.ofNat 16 (o.step * n)
    let at_ (i : Nat) : Nat := (s.ring cl r).slot (k + BitVec.ofNat 16 i).toNat
    if (List.range n).all fun i => s.clusterRange ctx cl (at_ i) (if skip then 2064 else 2048) then
      .ok { s := s, rows := rowsFrom (32 * n) (s.slotTiles cl r k n)
            heads := if skip then (List.range n).map fun i => headOf (s.clusterBytes cl (at_ i + 2048) 16) else [] }
    else .error Code.CSPBND
  | none =>
    let h := hAt h (hBase h + o.step * inc)
    match s.fetchTiles core ctx h o.gen t n cached o.team.isSome with
    | none => .error Code.CSPBND
    | some (s, bs) =>
      if !skip then .ok { s := s, rows := rowsFrom (32 * n) bs }
      else if s.headsHeld ctx cl h n then
        .ok { s := s, rows := rowsFrom (32 * n) bs
              heads := (List.range n).map fun i => headOf (s.spadBytes (32 * cl + hOwn h) (hHead h i) 16) }
      else .error Code.MOPND

/-- First tile of a team member's part of an operand (R221). -/
def MatOp.tileA (o : MatOp) : Nat :=
  if o.team.isSome then o.tpos / (if o.tsize = 4 then 2 else 4) * (ctlM o.ctl / 32) else 0
def MatOp.tileB (o : MatOp) : Nat :=
  if o.team.isSome then o.tpos % (if o.tsize = 4 then 2 else 4) * (ctlN o.ctl / 32) else 0

/-- %tinfo of a cause that a step of an operation raises (R108). -/
def MatOp.info (o : MatOp) (cause : Cause) : Word :=
  if cause = Code.MOPND then BitVec.ofNat 32 o.stream
  else
    match o.kind with
    | .mma => memInfo 0x3B false
    | .mloop => memInfo 0x3C false
    | .msta => memInfo 0x3D true
    | _ => memInfo 0x3D false

/-- One step of MMA or MLOOP on a core: computed, skipped, or refused (R177, R217). -/
def State.mmaStep (s : State) (core : Nat) (o : MatOp) (cached : Bool) : State :=
  let ctx := s.ctxOf o.grp
  let skip := mcfgSke o.mcfg && o.team.isNone && !ctlASrc o.ctl && !ctlBSrc o.ctl
  let a : Except Cause Side :=
    if ctlASrc o.ctl then .ok { s := s, rows := o.aRegs }
    else s.side1 core ctx o o.aH o.ainc o.aRing o.aSeq o.tileA (ctlM o.ctl / 32) skip cached
  match a with
  | .error k => s.raiseMat o k (o.info k)
  | .ok x =>
    let b : Except Cause Side :=
      if ctlBSrc o.ctl then .ok { s := x.s, rows := o.bRegs }
      else x.s.side1 core ctx o o.bH o.binc o.bRing o.bSeq o.tileB (ctlN o.ctl / 32) skip cached
    match b with
    | .error k => s.raiseMat o k (o.info k)
    | .ok y =>
      let s := y.s
      if skip && skips o.mcfg (ctlInt8 o.ctl) x.heads y.heads then s.skipStep o x.rows y.rows
      else s.setCore core ((s.core core).computed o.ctl x.rows y.rows)

/-- The step, then the operation's own count. -/
def State.countStep (s : State) (core : Nat) (o : MatOp) (cached : Bool) : State :=
  let s := s.mmaStep core o cached
  if o.step + 1 < o.kcnt then s.setCore core ((s.core core).setOp { o with step := o.step + 1 })
  else s.finishMat core o

/-- The cells of a rectangle as bytes, row-major (R213). -/
def Core.rectBytes (c : Core) (ctl : Word) : List Byte :=
  (List.range (ctlM ctl)).flatMap fun i =>
    (List.range (ctlN ctl)).flatMap fun j => leBytes 4 (c.cell (ctlRow ctl + i) (ctlCol ctl + j)).toNat

/-- The rectangle loaded from bytes. -/
def Core.rectFrom (c : Core) (ctl : Word) (bs : List Byte) : Core :=
  let rows := (List.range (ctlM ctl)).map fun i => wordsFrom (ctlN ctl) (bs.drop (4 * ctlN ctl * i))
  c.setRect (ctlRow ctl) (ctlCol ctl) (ctlM ctl) (ctlN ctl) fun i j _ => (rows.getD i []).getD j 0

/-- Writes bytes into ring slots from number `k` on. -/
def State.fillSlots (cl r : Nat) : Nat → State → BitVec 16 → List Byte → State
  | 0, s, _, _ => s
  | n + 1, s, k, bs =>
    let x := s.ring cl r
    let a := x.slot k.toNat
    State.fillSlots cl r n (s.setClusterBytes cl a (bs.take x.size) none) (k + 1) (bs.drop x.size)

/-- MSTA's one action (R213). -/
def State.mstaStep (s : State) (core : Nat) (o : MatOp) : State :=
  let cl := clusterOf core
  let ctx := s.ctxOf o.grp
  let bs := (s.core core).rectBytes o.ctl
  match o.bRing with
  | some r =>
    let n := slotsFor (s.ring cl r) bs.length
    if (List.range n).all fun i =>
        s.clusterRange ctx cl ((s.ring cl r).slot (o.bSeq + BitVec.ofNat 16 i).toNat) (s.ring cl r).size then
      State.fillSlots cl r n s o.bSeq bs
    else s.raiseMat o Code.CSPBND (o.info Code.CSPBND)
  | none =>
    let a := o.addr.toNat
    if s.clusterRange ctx cl a bs.length then s.setClusterBytes cl a bs none
    else s.raiseMat o Code.CSPBND (o.info Code.CSPBND)

/-- MLDA's one action (R213). -/
def State.mldaStep (s : State) (core : Nat) (o : MatOp) : State :=
  let cl := clusterOf core
  let a := o.addr.toNat
  if s.clusterRange (s.ctxOf o.grp) cl a o.blockLen then
    s.setCore core ((s.core core).rectFrom o.ctl (s.clusterBytes cl a o.blockLen))
  else s.raiseMat o Code.CSPBND (o.info Code.CSPBND)

/-- The value that MAV moves to each lane (R214). -/
def Core.slice (c : Core) (e : Nat) : List Word := perLane fun i => c.cell ((e + i) / 128) ((e + i) % 128)

/-- The cells that MVA writes. -/
def Core.sliceFrom (c : Core) (e : Nat) (m : Mask) (vals : List Word) : Core :=
  (lanesOf m).foldl (fun c i => c.setRow ((e + i) / 128) ((e + i) % 128) 1 fun _ _ => vals.getD i 0) c

/-- An admitted head performs one step (R205). -/
def State.performOp (s : State) (core : Nat) (o : MatOp) (cached : Bool) : State :=
  let c := s.core core
  match o.kind with
  | .mma => s.countStep core o cached
  | .mloop => s.countStep core o cached
  | .mzero =>
    (s.setCore core (c.setRect (ctlRow o.ctl) (ctlCol o.ctl) (ctlM o.ctl) (ctlN o.ctl) fun _ _ _ => 0)).finishMat core o
  | .mzeroRel =>
    let own := o.rows.filter fun r => tget c.rows r == some (s.grp o.grp).wg
    let new := (own.filter fun r => !c.releasing.any fun x => x.1 == r).map fun r => (r, (s.grp o.grp).wg)
    (s.setCore core { c with releasing := c.releasing ++ new }).finishMat core o
  | .mlda => (s.mldaStep core o).finishMat core o
  | .msta => (s.mstaStep core o).finishMat core o
  | .mav => (s.modGrp o.grp fun x => x.supply o.id (fun _ => (o.lanes, c.slice o.cell)) true).finishMat core o
  | .mva => (s.setCore core (c.sliceFrom o.cell o.lanes o.vals)).finishMat core o

/-- A step of a team operation: on every member at once (R221). (DEDUCED, log 75) -/
def State.teamStep (s : State) (cl : Nat) (o : MatOp) (cached : Bool) : State :=
  match o.team with
  | none => s
  | some t => (s.mates cl t o.tnum).foldl (fun s m =>
      (s.setCore m.1 { s.core m.1 with lastStream := m.2.2.key }).performOp m.1 m.2.2 cached) s

/-- Admits an operation, or ends one whose ring is gone (R181, R206, R211). -/
def State.admitMat (s : State) (core : Nat) (o : MatOp) : State :=
  let cl := clusterOf core
  if s.ringsLost cl (s.ctxOf o.grp) o then (s.finishMat core o).raiseMat o Code.RINGBAD 0
  else if s.footClear cl o.posted (s.ctxOf o.grp) o.reads o.writes && s.ringsHave cl o then
    let x := s.takeMat cl o
    x.1.setCore core ((x.1.core core).setOp { x.2 with admitted := true })
  else s

/-- MATRIX_STEP on operation `k` of a core's queue: a head that is not admitted yet is admitted, an admitted one performs a
step if its stream's turn has come. (DEDUCED, log 74) -/
def State.matrixStep (s : State) (core k : Nat) (cached : Bool) : State :=
  let c := s.core core
  match c.mq[k]? with
  | none => s
  | some o =>
    if !o.left || !c.isHead k o then s
    else if !o.admitted then s.admitMat core o
    else if mcfgSke o.mcfg && (s.grp o.grp).auditDue then s
    else if (s.nextOp core).map (fun x => x.id) == some o.id then
      let s := s.setCore core { s.core core with lastStream := o.key }
      if o.team.isSome then s.teamStep (clusterOf core) o cached else s.performOp core o cached
    else s

/-- MATRIX_STEP (R205). `cached` false: the operand cache has lost the step's entries meanwhile (R204). (DEDUCED, log 73; DEDUCED, log 76) -/
def execMatrixStep (core k : Nat) (cached : Bool) (s : State) : Host.Outcome State Fault Refusal :=
  .next (s.matrixStep core k cached)

/-- A matrix operation leaves its issue queue: the release of the group's earlier accesses is complete (R206). -/
def State.leaveMat (s : State) (core id : Nat) : State :=
  let c := s.core core
  s.setCore core { c with mq := c.mq.map fun o => if o.id = id then { o with left := true } else o }

end Sys2Proof.Machine
end

