-- ==== Sys2Proof/Machine/Matrix.lean ====
section
/-! DEFINITION. Matrix words (R199-R223): the checks of MMA, MLOOP, MZERO, MZERO.rel, MLDA, MSTA, MAV and MVA and their post
to a stream, MWAIT, MSYNC, SPFEN, MCFG, MAUD, MJOIN, MLEAVE, and the end of matrix waits (MATRIX_QUEUE_ROOM). -/

namespace Sys2Proof.Machine

/-! ## Posting (R205, R214, R221) -/

/-- Unfinished accumulator moves of a group. -/
def State.moves (s : State) (g : Nat) : Nat := ((s.core (coreOf g)).mq.filter fun o => o.grp == g && o.move).length

/-- Operations of a team agree (R221). -/
def MatOp.agrees (a b : MatOp) : Bool :=
  a.kind == b.kind && a.stream == b.stream && ctlInt8 a.ctl == ctlInt8 b.ctl && a.aH == b.aH && a.bH == b.bH &&
    a.w5 == b.w5 && a.ainc == b.ainc && a.binc == b.binc

/-- How a post goes. -/
inductive MatPost where
  | posted (s : State)
  | full
  | joine

/-- An operation that the core issued earlier is parked for room and is posted first: one of the same stream of the group (R205), and
for a team operation any other of the core's team, whose operations are counted in issue order (R221). (DEDUCED, log 75) -/
def State.overtakes (s : State) (core : Nat) (o : MatOp) : Bool :=
  (s.parkedOn core).any fun x =>
    decide (x.id < o.id) && ((x.grp == o.grp && x.stream == o.stream) || (x.team.isSome && o.team.isSome))

/-- Posts an operation to its core's queue if it may be posted. -/
def State.tryMat (s : State) (core : Nat) (o : MatOp) : MatPost :=
  let c := s.core core
  if 32 ≤ c.mq.length ∨ (o.move ∧ 16 ≤ s.moves o.grp) ∨ s.overtakes core o = true then .full
  else
    let (n, s) := s.fresh
    let o := { o with posted := n }
    match o.team with
    | none => .posted (s.setCore core { c with mq := c.mq ++ [o] })
    | some t =>
      let o := { o with tnum := c.teamOps }
      if (s.mates (clusterOf core) t c.teamOps).all fun m => m.2.2.agrees o then
        .posted (s.setCore core { c with mq := c.mq ++ [o], teamOps := c.teamOps + 1 })
      else .joine

/-- Scratchpad operands make an operation a card of the issue queue (R206). (DEDUCED, log 75) -/
def MatOp.carded (o : MatOp) : Bool := !o.foot.isEmpty || !o.inRings.isEmpty || o.outRing.isSome

/-- Opcode of an operation's word. -/
def MatOp.opc (o : MatOp) : BitVec 6 :=
  match o.kind with
  | .mma => 0x3B | .mloop => 0x3C
  | _ => 0x3D

/-- A class E cause of a matrix word; %tinfo holds the stream for MSTREAM and MOPND (R108). (DEDUCED, log 24) -/
def State.trapM (s : State) (c : Cursor) (k : Cause) (stream : Nat) : State :=
  s.raiseE c k 0 0 (if k = Code.MSTREAM ∨ k = Code.MOPND then BitVec.ofNat 32 stream else 0) []

/-- MSTREAM of a word with a stream mask: %tinfo names the lowest stream of the mask that is not the group's to name, and is a free value
in bits 2:0 where the mask is refused for a bit that is no stream's. (DEDUCED, log 24) -/
def State.trapMask (s : State) (c : Cursor) (priv : Bool) (mask : Nat) : State :=
  match (List.range 8).find? fun k => mask.testBit k && (priv != (k == 7)) with
  | some k => s.trapM c Code.MSTREAM k
  | none => { s.trapM c Code.MSTREAM (Config.freeWord s.free &&& 7).toNat with free := s.free + 1 }

/-- A checked operation of the word at the cursor: posted, or its slot parks for room. -/
def State.matWord (s : State) (c : Cursor) (i : Instr) (stream : Nat) (r : Except Cause MatOp) (dst : Option Nat) : State :=
  match r with
  | .error k => s.trapM c k stream
  | .ok o =>
    let core := coreOf c.grp
    let (id, s) := s.fresh
    let o := { o with id := id, grp := c.grp, slotB := c.slotB, pos := c.pos, stream := stream, left := !o.carded
                      repi := c.repi, serial := c.serial, resume := c.next
                      gen := (s.core core).gen, mcfg := (s.grp c.grp).regs.mcfg }
    let s := match dst with
      | some d => s.postWait c (.v d) c.lanes id
      | none => s
    match s.tryMat core o with
    | .joine => s.trapM c Code.MJOINE stream
    | .full =>
      let keep (p : Park) : Park := { p with mat := some o }
      (s.park c .matrixRoom i 0 id).modPark c.grp c.slotB keep
    | .posted s => if o.left then s else s.enqueue c id o.opc (.mat core id) [] 0

/-! ## Checks (R113, R200-R205, R223) -/

/-- The issuing slot runs the handler. -/
def Group.handler (g : Group) (b : Bool) : Bool := g.priv && b == g.privB

/-- Stream 7 is the handler's, the others are not. (DEDUCED, log 72) -/
def streamBad (priv : Bool) (x : Nat) : Bool := if priv then x != 7 else x == 7

/-- MACCOWN on a row; `claim` for MZERO and MLDA, `release` for MZERO.rel. -/
def State.rowBad (s : State) (g : Nat) (priv claim release : Bool) (r : Nat) : Bool :=
  let own := tget (s.core (coreOf g)).rows r
  if priv then release || decide (r < 120) || own.isSome
  else
    match own with
    | none => !claim && !release
    | some w => w != (s.grp g).wg

/-- Rows that MZERO and MLDA claim. -/
def State.claimRows (s : State) (g : Nat) (rows : List Nat) : State :=
  let c := s.core (coreOf g)
  let w := (s.grp g).wg
  let f (t : Table Nat) (r : Nat) : Table Nat := if (tget t r).isNone then tset t r w else t
  s.setCore (coreOf g) { c with rows := rows.foldl f c.rows }

/-- The stream and ownership checks, which come last. -/
def State.lastChecks (s : State) (c : Cursor) (stream : Nat) (claim release : Bool) (o : MatOp) : Except Cause MatOp :=
  let priv := (s.grp c.grp).handler c.slotB
  if streamBad priv stream || (o.team.isSome && stream == 7) then .error Code.MSTREAM
  else if o.rows.any (s.rowBad c.grp priv claim release) then .error Code.MACCOWN
  else .ok o

/-- The claim, once every check has passed; the handler claims nothing. -/
def State.claimOk (s : State) (c : Cursor) (r : Except Cause MatOp) : State :=
  match r with
  | .ok o => if (s.grp c.grp).handler c.slotB then s else s.claimRows c.grp o.rows
  | .error _ => s

/-- A register operand (R202): its rows, or a cause. -/
def State.regOperand (s : State) (c : Cursor) (x rows : Nat) : Except Cause (List (List Word)) :=
  let g := s.grp c.grp
  if 64 < rows ∨ 112 < x then .error Code.MOPND
  else if !g.vregsOk (s.wg g.wg).hdr.vregs c.slotB x (x + 16) then .error Code.REGBUD
  else .ok ((List.range rows).map fun r => (List.range 16).map fun w => g.v (x + w) r)

/-- BASE of the steps whose operand is checked: the first and the last (R210). -/
def stepBases (h : Dword) (inc : Int) (k : Nat) : List Int :=
  if k ≤ 1 then [(hBase h : Int)] else [(hBase h : Int), hBase h + ((k : Int) - 1) * inc]

/-- BASE of every step, for the headers that the steps reach (R217). -/
def everyBase (h : Dword) (inc : Int) (k : Nat) : List Int :=
  if inc = 0 then [(hBase h : Int)] else (List.range k).map fun (i : Nat) => (hBase h : Int) + (i : Int) * inc

/-- A handle operand of `n` tiles over `k` steps (R203, R210, R217): its footprint, none where it is refused. -/
def State.handleOperand (s : State) (c : Cursor) (h : Dword) (inc : Int) (k n : Nat) (skip : Bool) :
    Option (Bool × Nat × Nat) :=
  let ctx := s.ctxOf c.grp
  let cl := clusterOf (coreOf c.grp)
  let hs := (stepBases h inc k).map (hAt h)
  if hRp h = 0 ∨ (hRot h ≠ 0 ∧ hRp h % 2 = 1) ∨ fld h.toNat 29 3 ≠ 0 then none
  else if (stepBases h inc k).any fun b => decide (b < 0) || decide (4095 < b) then none
  else if hs.any fun x => !s.handleHeld ctx cl x 0 n then none
  else if skip && ((everyBase h inc k).map (hAt h)).any fun x => !s.headsHeld ctx cl x n then none
  else
    let sp := spanOfWords (hOwn h) (hs.flatMap fun x => hWords x 0 n)
    some (false, sp.1, sp.2)

/-- A ring operand of MLOOP with `n` slots in all (R211). -/
def State.ringOperand (s : State) (c : Cursor) (r n : Nat) (skip : Bool) : Option Cause :=
  let x := s.ring (clusterOf (coreOf c.grp)) r
  if 64 < n then some Code.MOPND
  else if x.foreign (s.ctxOf c.grp) then some Code.RINGBAD
  else if x.size < (if skip then 2064 else 2048) then some Code.MOPND
  else none

/-- The member's part of a team operation: its block side fits the team (R221). -/
def State.teamOf (s : State) (c : Cursor) (o : MatOp) : Except Cause MatOp :=
  if !ctlTeam o.ctl then .ok o
  else
    let k := s.core (coreOf c.grp)
    match k.team with
    | none => .error Code.MJOINE
    | some (t, p) =>
      match tget (s.cluster (clusterOf (coreOf c.grp))).teams t with
      | none => .error Code.MJOINE
      | some x =>
        if k.teamWg ≠ (s.grp c.grp).wg then .error Code.MJOINE
        else
          let h := if x.size = 4 then 128 else 64
          if ctlM o.ctl ≠ h ∨ ctlN o.ctl ≠ h then .error Code.MSHAPE
          else .ok { o with team := some t, tpos := p, tsize := x.size }

/-- Tiles of an operand that its handle names: all 256 rows for a team (R221). -/
def MatOp.tilesOf (o : MatOp) (rows : Nat) : Nat := if o.team.isSome then 8 else rows / 32

/-! ## MMA and MLOOP (R207-R211) -/

/-- One operand of MMA added to the operation. -/
def State.mmaOperand (s : State) (c : Cursor) (isA : Bool) (f : BitVec 7) (o : MatOp) : Except Cause MatOp :=
  let rows := if isA then ctlM o.ctl else ctlN o.ctl
  if (if isA then ctlASrc o.ctl else ctlBSrc o.ctl) then
    if o.team.isSome then .error Code.MOPND
    else
      match s.regOperand c f.toNat rows with
      | .error k => .error k
      | .ok x => .ok (if isA then { o with aRegs := x } else { o with bRegs := x })
  else if f.toNat % 2 = 1 ∨ 62 < f.toNat then .error Code.MOPND
  else
    let g := s.grp c.grp
    let h := g.sp c.slotB f.toNat
    let skip := mcfgSke g.regs.mcfg && o.team.isNone && !ctlASrc o.ctl && !ctlBSrc o.ctl
    match s.handleOperand c h 0 1 (o.tilesOf rows) skip with
    | none => .error Code.MOPND
    | some a =>
      let o := { o with foot := o.foot ++ [a] }
      .ok (if isA then { o with aH := h } else { o with bH := h })

/-- Every check of MMA. -/
def State.checkMma (s : State) (c : Cursor) (d a b : BitVec 7) (n : BitVec 3) : Except Cause MatOp :=
  let ctl := (s.grp c.grp).s c.slotB d.toNat
  if ctlBad ctl 0x003C0000 then .error Code.MSHAPE
  else
    match s.teamOf c { kind := .mma, ctl := ctl } with
    | .error k => .error k
    | .ok o =>
      match s.mmaOperand c true a o with
      | .error k => .error k
      | .ok o =>
        match s.mmaOperand c false b o with
        | .error k => .error k
        | .ok o => s.lastChecks c n.toNat false false o

/-- MMA (R207). -/
def execMma (d a b : BitVec 7) (n : BitVec 3) (s : State) : Host.Outcome State Fault Refusal :=
  word (.mma d a b n) s fun c s => s.matWord c (.mma d a b n) n.toNat (s.checkMma c d a b n) none

/-- The completion word of an operation that binds no bytes: its barrier as the cluster-wide handle (R188, R198, R210). -/
def State.bindDone (s : State) (w : Wg) (x : Word) : Except Cause Word :=
  if complKind x.toNat = 3 ∨ x &&& 0x3F000000 ≠ 0 then .error Code.CPYBND
  else if complKind x.toNat = 1 then
    match s.barNo w (complTgt x.toNat) with
    | none => .error Code.BARBUD
    | some b => .ok (BitVec.ofNat 32 (1073741824 + (16 + b) * 65536 + complInc x.toNat))
  else .ok x

/-- One operand of MLOOP. -/
def State.loopOperand (s : State) (c : Cursor) (isA : Bool) (h : Dword) (inc : Int) (ring : Option Nat) (o : MatOp) :
    Except Cause MatOp :=
  let rows := if isA then ctlM o.ctl else ctlN o.ctl
  let skip := mcfgSke (s.grp c.grp).regs.mcfg && o.team.isNone
  match ring with
  | some r =>
    if o.team.isSome then .error Code.MOPND
    else
      match s.ringOperand c r (o.kcnt * (rows / 32)) skip with
      | some k => .error k
      | none => .ok (if isA then { o with aRing := some r } else { o with bRing := some r })
  | none =>
    match s.handleOperand c h inc o.kcnt (o.tilesOf rows) skip with
    | none => .error Code.MOPND
    | some a =>
      let o := { o with foot := o.foot ++ [a] }
      .ok (if isA then { o with aH := h, ainc := inc } else { o with bH := h, binc := inc })

/-- Every check of MLOOP, in the order of R210. -/
def State.checkMloop (s : State) (c : Cursor) (d : BitVec 7) (n : BitVec 3) : Except Cause MatOp :=
  let g := s.grp c.grp
  let w (i : Nat) : Word := g.s c.slotB (d.toNat + i)
  let x := (w 5).toNat
  let aR := if fld x 24 1 = 1 then some (fld x 16 4) else none
  let bR := if fld x 25 1 = 1 then some (fld x 20 4) else none
  if ctlBad (w 0) 0x003C0000 then .error Code.MSHAPE
  else if ctlASrc (w 0) || ctlBSrc (w 0) || (aR.isSome && aR == bR) then .error Code.MOPND
  else
    match s.teamOf c { kind := .mloop, ctl := w 0, kcnt := fld x 0 16, w5 := w 5, done := w 7 } with
    | .error k => .error k
    | .ok o =>
      match s.loopOperand c true (w 2 ++ w 1 : BitVec 64) ((w 6).extractLsb' 0 16).toInt aR o with
      | .error k => .error k
      | .ok o =>
        match s.loopOperand c false (w 4 ++ w 3 : BitVec 64) ((w 6).extractLsb' 16 16).toInt bR o with
        | .error k => .error k
        | .ok o =>
          match s.lastChecks c n.toNat false false o with
          | .error k => .error k
          | .ok o =>
            if x / 67108864 ≠ 0 ∨ o.kcnt = 0 then .error Code.MOPND
            else (s.bindDone (s.wg g.wg) (w 7)).map fun v => { o with done := v }

/-- MLOOP (R210). -/
def execMloop (d : BitVec 7) (n : BitVec 3) (s : State) : Host.Outcome State Fault Refusal :=
  word (.mloop d n) s fun c s => s.matWord c (.mloop d n) n.toNat (s.checkMloop c d n) none

/-! ## Accumulator moves (R212-R214) -/

/-- A rectangle operation without operands. -/
def State.checkRect (s : State) (c : Cursor) (kind : MatKind) (ctl : Word) (stream : Nat) (claim release : Bool) :
    Except Cause MatOp :=
  if ctlBad ctl 0 then .error Code.MSHAPE else s.lastChecks c stream claim release { kind := kind, ctl := ctl }

/-- MZERO (R212). -/
def execMzero (d a : BitVec 7) (s : State) : Host.Outcome State Fault Refusal :=
  word (.mzero d a) s fun c s =>
    let r := s.checkRect c .mzero ((s.grp c.grp).sc c.slotB a.toNat) d.toNat true false
    (s.claimOk c r).matWord c (.mzero d a) d.toNat r none

/-- MZERO.rel (R212). (DEDUCED, log 72) -/
def execMzeroRel (d a : BitVec 7) (s : State) : Host.Outcome State Fault Refusal :=
  word (.mzeroRel d a) s fun c s =>
    s.matWord c (.mzeroRel d a) d.toNat
      (s.checkRect c .mzeroRel ((s.grp c.grp).sc c.slotB a.toNat) d.toNat false true) none

/-- The checks of MLDA and MSTA. -/
def State.checkBlock (s : State) (c : Cursor) (kind : MatKind) (ctl b : Word) (stream : Nat) : Except Cause MatOp :=
  let o : MatOp := { kind := kind, ctl := ctl, addr := b }
  let cl := clusterOf (coreOf c.grp)
  let ctx := s.ctxOf c.grp
  if ctlBad ctl 0 then .error Code.MSHAPE
  else if kind = .msta ∧ b.getLsbD 31 = true then
    let r := b.toNat % 16
    let x := s.ring cl r
    if fld b.toNat 4 27 ≠ 0 then .error Code.MOPND
    else if x.foreign ctx then .error Code.RINGBAD
    else if x.size = 0 ∨ 64 < slotsFor x o.blockLen then .error Code.MOPND
    else s.lastChecks c stream false false { o with bRing := some r }
  else if b.toNat % 16 ≠ 0 ∨ !s.clusterRange ctx cl b.toNat o.blockLen then .error Code.MOPND
  else s.lastChecks c stream (kind == .mlda) false { o with foot := [(kind == .msta, b.toNat, o.blockLen)] }

/-- MLDA (R213). -/
def execMlda (d a b : BitVec 7) (s : State) : Host.Outcome State Fault Refusal :=
  word (.mlda d a b) s fun c s =>
    let g := s.grp c.grp
    let r := s.checkBlock c .mlda (g.sc c.slotB a.toNat) (g.sc c.slotB b.toNat) d.toNat
    (s.claimOk c r).matWord c (.mlda d a b) d.toNat r none

/-- MSTA (R213). -/
def execMsta (d a b : BitVec 7) (s : State) : Host.Outcome State Fault Refusal :=
  word (.msta d a b) s fun c s =>
    let g := s.grp c.grp
    s.matWord c (.msta d a b) d.toNat (s.checkBlock c .msta (g.sc c.slotB a.toNat) (g.sc c.slotB b.toNat) d.toNat) none

/-- The checks of MAV and MVA: the slice's start is at most 16,288 (R214). -/
def State.checkSlice (s : State) (c : Cursor) (kind : MatKind) (e stream : Nat) (vals : List Word) : Except Cause MatOp :=
  if 16288 < e then .error Code.MSHAPE
  else s.lastChecks c stream false false { kind := kind, cell := e, lanes := c.lanes, vals := vals }

/-- MAV (R214). -/
def execMav (d a b : BitVec 7) (s : State) : Host.Outcome State Fault Refusal :=
  word (.mav d a b) s fun c s =>
    s.matWord c (.mav d a b) b.toNat (s.checkSlice c .mav ((s.grp c.grp).sc c.slotB a.toNat).toNat b.toNat [])
      (some d.toNat)

/-- MVA (R214). -/
def execMva (d a b : BitVec 7) (s : State) : Host.Outcome State Fault Refusal :=
  word (.mva d a b) s fun c s =>
    let g := s.grp c.grp
    s.matWord c (.mva d a b) d.toNat
      (s.checkSlice c .mva (g.sc c.slotB b.toNat).toNat d.toNat (perLane fun i => g.v a.toNat i)) none

/-! ## Waits (R215, R220, R222) -/

/-- An operation that the group issued on streams of a mask before number `id` is unfinished. -/
def State.earlierOps (s : State) (g streams id : Nat) : Bool :=
  (s.opsOf g).any fun o => streams.testBit o.stream && decide (o.id < id)

/-- The wait of a matrix word is over. -/
def State.matReady (s : State) (g : Nat) (p : Park) : Bool :=
  match p.word with
  | .mwait _ => decide (((s.opsOf g).filter MatOp.move).length ≤ p.arg.toNat)
  | .mleave => !((s.core (coreOf g)).mq ++ s.parkedOn (coreOf g)).any fun o => o.team.isSome
  | _ => !s.earlierOps g (p.arg.toNat % 256) p.id

/-- Frees a core's position in its team (R222). -/
def State.leaveTeam (s : State) (core : Nat) : State :=
  let c := s.core core
  let cl := clusterOf core
  match c.team with
  | none => s
  | some (t, p) =>
    let s := s.setCore core { c with team := none, teamOps := 0 }
    let x := s.cluster cl
    match tget x.teams t with
    | none => s
    | some y =>
      let m := tdel y.members p
      s.setCluster cl { x with teams := if m.isEmpty then tdel x.teams t else tset x.teams t { y with members := m } }

/-- What a matrix wait does at its end: MAUD's value, the acquire of R206, the end of a team position. -/
def State.matOver (s : State) (g : Nat) (p : Park) : State :=
  match p.word with
  | .maud _ _ =>
    let v := (s.grp g).regs.audit
    (s.modGrp g fun x => x.supply p.id (fun r => (1, [if r = .spr 0x35 then 0 else v])) true).acquireAt g .clu
  | .mleave => s.leaveTeam (coreOf g)
  | _ => s.acquireAt g .clu

/-- Results that a matrix wait will write: MAUD's destination and, where it clears, %audit (R220, R31). -/
def State.postMat (s : State) (c : Cursor) (i : Instr) (arg : Word) (id : Nat) : State :=
  match i with
  | .maud d _ =>
    let s := s.postWait c (sreg d.toNat) 1 id
    if arg.getLsbD 8 then s.postWait c (.spr 0x35) 1 id else s
  | _ => s

/-- A matrix wait: over at once, or its slot parks. -/
def State.matWait (s : State) (c : Cursor) (i : Instr) (arg : Word) : State :=
  let (id, s) := s.fresh
  let s := s.postMat c i arg id
  let p : Park := { why := .matrixWait, word := i, pos := c.pos, arg := arg, id := id }
  if s.matReady c.grp p then s.matOver c.grp p else s.park c .matrixWait i arg id

/-- MWAIT (R215). -/
def execMwait (a : BitVec 7) (s : State) : Host.Outcome State Fault Refusal :=
  word (.mwait a) s fun c s => s.matWait c (.mwait a) ((s.grp c.grp).sc c.slotB a.toNat)

/-- A stream mask is refused: a bit above `top`, bit 7 outside privileged mode (R215), any other stream in it (R113). -/
def maskBad (priv : Bool) (x top : Nat) : Bool :=
  decide (2 ^ (top + 1) ≤ x) || (if priv then x % 128 != 0 else x.testBit 7)

/-- MSYNC (R215). -/
def execMsync (a : BitVec 7) (s : State) : Host.Outcome State Fault Refusal :=
  word (.msync a) s fun c s =>
    let g := s.grp c.grp
    let m := g.sc c.slotB a.toNat
    if maskBad (g.handler c.slotB) m.toNat 7 then s.trapMask c (g.handler c.slotB) m.toNat else s.matWait c (.msync a) m

/-- SPFEN (R215). -/
def execSpfen (s : State) : Host.Outcome State Fault Refusal :=
  word .spfen s fun c s =>
    let k := s.core (coreOf c.grp)
    s.setCore (coreOf c.grp) { k with gen := k.gen + 1 }

/-- MCFG (R220). -/
def execMcfg (a : BitVec 7) (s : State) : Host.Outcome State Fault Refusal :=
  word (.mcfg a) s fun c s =>
    let g := s.grp c.grp
    if s.streamBusy c.grp 255 then s.trapE c Code.MCFGBSY
    else
      let s := s.modGrp c.grp fun x => { x with phi := 0 }
      (s.postReg c (.spr 0x34) (g.sc c.slotB a.toNat &&& sprMask 0x34)).postReg c (.spr 0x35) 0

/-- MAUD (R220). -/
def execMaud (d a : BitVec 7) (s : State) : Host.Outcome State Fault Refusal :=
  word (.maud d a) s fun c s =>
    let g := s.grp c.grp
    let m := g.sc c.slotB a.toNat
    if maskBad (g.handler c.slotB) m.toNat 8 then s.trapMask c (g.handler c.slotB) m.toNat
    else s.matWait c (.maud d a) m

/-! ## Teams (R222) -/

/-- MJOIN with a team word: the team with the new member, none where R222 refuses. -/
def State.joined (s : State) (c : Cursor) (w : Nat) : Option Team :=
  let core := coreOf c.grp
  let size := if fld w 8 1 = 1 then 16 else 4
  let pos := fld w 4 4
  let ctx := s.ctxOf c.grp
  if w / 512 ≠ 0 ∨ fld w 3 1 ≠ 0 ∨ size ≤ pos ∨ (s.core core).team.isSome = true ∨
      (s.grp c.grp).handler c.slotB = true then none
  else
    match tget (s.cluster (clusterOf core)).teams (fld w 0 3) with
    | none => some { ctx := ctx, size := size, members := [(pos, core)] }
    | some t =>
      if t.ctx ≠ ctx ∨ t.size ≠ size ∨ (tget t.members pos).isSome = true then none
      else some { t with members := tset t.members pos core }

/-- MJOIN (R222). (DEDUCED, log 72) -/
def execMjoin (a : BitVec 7) (s : State) : Host.Outcome State Fault Refusal :=
  word (.mjoin a) s fun c s =>
    let w := ((s.grp c.grp).sc c.slotB a.toNat).toNat
    let core := coreOf c.grp
    match s.joined c w with
    | none => s.trapE c Code.MJOINE
    | some t =>
      let x := s.cluster (clusterOf core)
      let k := s.core core
      (s.setCluster (clusterOf core) { x with teams := tset x.teams (fld w 0 3) t }).setCore core
        { k with team := some (fld w 0 3, fld w 4 4), teamWg := (s.grp c.grp).wg, teamOps := 0 }

/-- MLEAVE (R222). -/
def execMleave (s : State) : Host.Outcome State Fault Refusal :=
  word .mleave s fun c s =>
    let k := s.core (coreOf c.grp)
    if k.team.isNone || k.teamWg != (s.grp c.grp).wg || (s.grp c.grp).handler c.slotB then s.trapE c Code.MJOINE
    else s.matWait c .mleave 0

/-! ## The end of matrix parks -/

/-- A slot parked for room posts its operation if it now may. -/
def State.wakeRoom (s : State) (g : Nat) (b : Bool) : State :=
  match ((s.grp g).slot b).park with
  | none => s
  | some p =>
    match p.mat with
    | none => s
    | some o =>
      match s.tryMat (coreOf g) o with
      | .full => s
      | .joine => (s.raiseParked g b p Code.MJOINE).settleRows (coreOf g)
      | .posted t =>
        let t := t.unpark g b
        if o.left then t
        else
          let e : Entry :=
            { id := o.id, serial := p.serial, slotB := b, pos := p.pos, resume := ((s.grp g).slot b).pc, repi := p.repi
              opc := o.opc, body := .mat (coreOf g) o.id, handler := (s.grp g).handling b }
          t.modGrp g fun x => { x with queue := x.queue ++ [e] }

/-- MATRIX_QUEUE_ROOM (R205). -/
def execMatrixQueueRoom (grp : Nat) (slotB : Bool) (s : State) : Host.Outcome State Fault Refusal :=
  .next (s.wakeRoom grp slotB)

/-- A slot parked in MWAIT, MSYNC, MAUD or MLEAVE goes on if its wait is over. -/
def State.wakeMat (s : State) (g : Nat) (b : Bool) : State :=
  match ((s.grp g).slot b).park with
  | none => s
  | some p =>
    if p.why == ParkWhy.matrixWait && s.matReady g p then (s.unpark g b).matOver g p else s

end Sys2Proof.Machine
end

