-- ==== Sys2Proof/Machine/Pantry.lean ====
section
/-! DEFINITION. Kernel headers, launch records and continuation records (R124-R127, R267-R269), the deques of the pantry
(R271), join counters and the end of a launch (R268, R275), and the words SPAWN, SPAWNR, JDEC, QSTAT and FRAME (R276). -/

namespace Sys2Proof.Machine

/-! ## Kernel headers (R124-R127) -/

/-- The header in 64 bytes, read as one number (R124). -/
def headerOf (n : Nat) : Header :=
  { widths := (List.range (fld n 173 3)).map fun k => fld n (256 + 8 * k) 8
    priv := fld n 224 32, spad := fld n 192 32, callregs := fld n 176 8, place := fld n 170 3, dstack := fld n 152 8
    groups := fld n 146 6, bars := fld n 141 5, latency := decide (fld n 140 1 = 1), vregs := fld n 128 8
    handler := BitVec.ofNat 64 (fld n 64 64), entry := BitVec.ofNat 64 (fld n 0 64) }

/-- log2 of the size of a work-group (R24). -/
def Header.wgBits (h : Header) : Nat := h.bits h.place

/-- Vector registers that a group takes (R127). -/
def Header.vecs (h : Header) : Nat :=
  (h.vregs + 7) / 8 * 8 + (if h.handler ≠ 0 then 128 - max h.vregs 120 else 0)

/-- Vector registers that a work-group takes (R127). -/
def Header.vectors (h : Header) : Nat := h.groups * h.vecs

/-- Local scratchpad that a work-group takes (R127). -/
def Header.spadSize (h : Header) : Nat := (h.spad + 127) / 128 * 128

/-- The widths of the WID fields keep R23. -/
def widthsOk (n nf : Nat) : Bool :=
  let w (k : Nat) : Nat := fld n (256 + 8 * k) 8
  ((List.range 6).all fun k => if k < nf then decide (1 ≤ w k ∧ w k ≤ 32) else w k == 0) &&
    decide (((List.range 6).map w).sum ≤ 64)

/-- Offset of the first field of a header that breaks R126. -/
def headerBad (n : Nat) : Option Nat :=
  let h := headerOf n
  let nf := fld n 173 3
  let out (lo hi x : Nat) : Bool := decide (x < lo) || decide (hi < x)
  let checks : List (Bool × Nat) :=
    [ (h.entry.toNat % 3 != 0, 0), (h.handler.toNat % 3 != 0, 8), (out 1 128 h.vregs || decide (1024 < h.vectors), 16),
      (fld n 136 4 != 0 || decide (16 < h.bars), 17),
      (out 1 32 h.groups || decide (96 * h.groups < 2 ^ h.wgBits), 18),
      (fld n 160 10 != 0, 20), (out 1 6 nf || decide (nf < h.place) || decide (11 < h.wgBits), 21),
      (out 1 128 h.callregs, 22), (fld n 184 8 != 0, 23), (decide (262144 < h.spad), 24),
      (decide (65536 < h.priv) || h.priv % 4 != 0, 28), (!widthsOk n nf, 32), (fld n 304 208 != 0, 38) ]
  (checks.find? fun c => c.1).map fun c => c.2

/-! ## Reads by the device at the homes (R126) -/

/-- A read of a structure by the device: its bytes, the cause that refuses it, or a wait for firmware. -/
inductive HomeRead where
  | ok (bs : List Byte)
  | wait
  | bad (cause : Cause)
  deriving DecidableEq, Repr

/-- `n` bytes at `va` as their homes hold them. A page that firmware would still map makes the read wait (R229). -/
def State.homeRead (s : State) (ctx va n : Nat) : HomeRead :=
  let ps := pageStarts va n
  let lines := (List.range ((va + n - 1) / 32 - va / 32 + 1)).map fun i => 32 * (va / 32 + i)
  if !canonical va || !canonical (va + n - 1) then .bad Code.NCADDR
  else
    match ps.find? fun a => (s.window ctx a).isNone && (s.leaf ctx a).isNone with
    | some a => if s.hostMapped ctx a then .wait else .bad Code.PFNP
    | none =>
      if ps.any fun a => (s.window ctx a).isSome then .bad Code.SKADDR
      else
        match s.eccCheck (lines.flatMap fun a => s.granules ctx a 1) with
        | some k => .bad k
        | none => .ok (s.homeBytes ctx va n)

/-- The read has been made: it has touched the windows of its lines (R233), and granules that it finds uncorrectable are poisoned from now
on (R240). -/
def State.afterRead (s : State) (ctx va n : Nat) : State :=
  (s.touchRead ctx va n).readEcc ((List.range ((va + n - 1) / 32 - va / 32 + 1)).flatMap fun i => s.granules ctx (32 * (va / 32 + i)) 1)

/-! ## Launch records (R267, R268) -/

def launchCode (v : Nat) : Nat := fld v 0 64
def launchFrame (v : Nat) : Dword := BitVec.ofNat 64 (fld v 64 64)
def launchJadr (v : Nat) : Nat := fld v 128 64
def launchPrio (v : Nat) : Nat := fld v 224 2

/-- Extent `k` of 24 bytes of extents. -/
def extentOf (e k : Nat) : Nat := fld e (32 * k) 32

/-- The extents of a launch record. -/
def launchExts (v : Nat) : Nat := fld v 256 192

/-- The first extent that breaks R24, which bounds those of the header's fields. (DEDUCED, log 45) -/
def extentBad (h : Header) (e : Nat) : Option Nat :=
  (List.range 6).find? fun k =>
    let n := extentOf e k
    match h.widths[k]? with
    | some w => decide (n = 0) || decide (2 ^ w < n)
    | none => false

/-- lastw of R268. -/
def lastIndex (h : Header) (e : Nat) : Nat :=
  ((List.range h.widths.length).map fun k =>
    if h.place ≤ k then (extentOf e k - 1) * 2 ^ (h.bits k - h.wgBits) else 0).sum

/-- The first check of R268 that a launch fails after its header has been read, with its TINFO. (DEDUCED, log 45) -/
def launchBad (v hdr : Nat) : Option Word :=
  let h := headerOf hdr
  match headerBad hdr with
  | some o => some (BitVec.ofNat 32 o)
  | none =>
    match extentBad h (launchExts v) with
    | some k => some (BitVec.ofNat 32 (0x40000000 + 32 + 4 * k))
    | none => if 4294967295 ≤ lastIndex h (launchExts v) then some 0x40000020 else none

/-! ## Continuation records (R269) -/

/-- The record in 64 bytes, read as one number. -/
def recordOf (n : Nat) : PRec :=
  { jadr := BitVec.ofNat 64 (fld n 448 64), ext := BitVec.ofNat 64 (fld n 384 64), frame := BitVec.ofNat 64 (fld n 320 64)
    code := BitVec.ofNat 64 (fld n 256 64), wlo := BitVec.ofNat 64 (fld n 192 64), wcnt := fld n 160 32
    save := BitVec.ofNat 64 (fld n 64 64), ctx := fld n 48 16, prio := fld n 46 2, kind := fld n 44 2
    lch := decide (fld n 0 1 = 1) }

/-- Offset of the first field of a record that breaks the checks of SPAWN (R276, R347). (DEDUCED, log 46) -/
def recordBad (n : Nat) : Option Nat :=
  let checks : List (Bool × Nat) :=
    [(fld n 1 21 != 0, 0), (fld n 44 2 != 0, 5), (fld n 128 32 != 0, 16), (fld n 160 32 == 0, 20)]
  (checks.find? fun c => c.1).map fun c => c.2

/-- WLO + WCNT goes beyond the indices of a header's work-groups (R276). -/
def PRec.overflows (r : PRec) (h : Header) : Bool := decide (2 ^ (64 - h.wgBits) < r.wlo.toNat + r.wcnt)

/-! ## The deques (R271) -/

/-- Records that a deque holds at most. (DEDUCED, log 48) -/
def dequeMax : Nat := 1024

def Core.deque (c : Core) (lv : Nat) : List PRec := tgetD c.pantry lv []

def Core.setDeque (c : Core) (lv : Nat) (q : List PRec) : Core := { c with pantry := tset c.pantry lv q }

/-- The deque has an entry that is neither used nor reserved. -/
def Core.room (c : Core) (lv : Nat) : Bool := decide ((c.deque lv).length + tgetD c.reserved lv 0 < dequeMax)

/-- One entry of a deque is reserved (R276). -/
def Core.reserve (c : Core) (lv : Nat) : Core := { c with reserved := tset c.reserved lv (tgetD c.reserved lv 0 + 1) }

/-- One reservation ends. -/
def Core.unreserve (c : Core) (lv : Nat) : Core := { c with reserved := tset c.reserved lv (tgetD c.reserved lv 0 - 1) }

def State.modCore (s : State) (core : Nat) (f : Core → Core) : State := s.setCore core (f (s.core core))

def State.pushHead (s : State) (core lv : Nat) (r : PRec) : State :=
  s.modCore core fun c => c.setDeque lv (r :: c.deque lv)

def State.pushTail (s : State) (core lv : Nat) (r : PRec) : State :=
  s.modCore core fun c => c.setDeque lv (c.deque lv ++ [r])

/-- MAXP of a context (R278). -/
def Ctx.maxp (c : Ctx) : Nat := fld c.sched.toNat 60 2

/-- The level that a record of priority `p` is pushed at. -/
def State.levelOf (s : State) (ctx p : Nat) : Nat := min p (s.ctx ctx).maxp

/-! ## Join counters (R275) and the end of a launch (R268) -/

/-- What the home finds at a join counter. -/
inductive JoinRead where
  | value (n : Nat)
  | wait
  | bad (cause : Cause)
  deriving DecidableEq, Repr

/-- The join counter at `c`: a write access, which waits on a frozen page and for firmware. The word is read as signed, that of a launch too
(R269, R275). (DEDUCED, log 47; DESIGN CHOICE, log 114) -/
def State.joinAt (s : State) (ctx c : Nat) : JoinRead :=
  match s.homeRead ctx c 4 with
  | .wait => .wait
  | .bad k => .bad k
  | .ok bs =>
    match s.translate ctx c .write with
    | .error k => .bad k
    | .ok _ =>
      if s.frz ctx c then .wait
      else if leNat bs = 0 ∨ 2147483648 ≤ leNat bs then .bad Code.JOINUF else .value (leNat bs)

/-- The outcome of a decrement: performed, waiting, or refused with a cause at an address. -/
inductive Dec where
  | done (s : State)
  | wait
  | bad (cause : Cause) (va : Nat)

/-- The decrement of the continuation record at `j` by a core (R275): the one that reaches 0 pushes the record. (DEDUCED, log 47) -/
def State.decRecord (s : State) (core ctx j : Nat) : Dec :=
  match s.joinAt ctx (j + 16) with
  | .wait => .wait
  | .bad k => .bad k (j + 16)
  | .value n =>
    let t := s.put ctx (j + 16) (leBytes 4 (n - 1)) none
    if n ≠ 1 then .done t
    else
      let v := leNat (t.homeBytes ctx j 64)
      let lv := t.levelOf ctx (recordOf v).prio
      if (t.core core).room lv then
        .done (t.pushHead core lv { recordOf v with ctx := ctx, prio := lv, check := true, bad := recordBad v })
      else .wait

/-- DONE moves over the completed launches at its head, and LQCFG's vector is sent if it moved (R268, R289). -/
def State.advanceDone (s : State) (ctx : Nat) : State :=
  let c := s.ctx ctx
  let n := (c.launches.takeWhile fun l => l.done).length
  if n = 0 then s
  else
    (s.setCtx ctx { c with launches := c.launches.drop n, done := c.done + BitVec.ofNat 32 n }).msix
      (vectorOf (match c.lqUse with | some q => q.2 | none => c.lqcfg))

/-- Marks the launch whose record is at `l` as completed. -/
def markDone (l : Nat) : List LaunchSt → List LaunchSt
  | [] => []
  | x :: r => if x.addr.toNat = l ∧ x.done = false then { x with done := true } :: r else x :: markDone l r

/-- The launch whose record is at `l` has completed (R268). -/
def State.launchDone (s : State) (ctx l : Nat) : State :=
  let c := s.ctx ctx
  (s.setCtx ctx { c with launches := markDone l c.launches }).advanceDone ctx

/-- The decrement of the launch record at `l` (R275): the last completes the launch, and a decrement of the launch's own
JADR follows (R268). -/
def State.decLaunch (s : State) (core ctx l : Nat) : Dec :=
  match s.joinAt ctx (l + 24) with
  | .wait => .wait
  | .bad k => .bad k (l + 24)
  | .value n =>
    let t := s.put ctx (l + 24) (leBytes 4 (n - 1)) none
    if n ≠ 1 then .done t
    else
      let t := t.launchDone ctx l
      let j := leNat (t.homeBytes ctx (l + 16) 8)
      if j = 0 then .done t
      else
        match t.decRecord core ctx j with
        | .done u => .done u
        | .wait => .wait
        | .bad k va => .done ((t.afterRead ctx va 4).errRecord ctx 1 k 0 0 0 0)

/-- The decrement of R275 by an ended work-group or a skipped one; a refused one is a record of kind 1. None: it waits. -/
def State.decrement (s : State) (core ctx : Nat) (jadr : Dword) (lch : Bool) (widb : Dword) : Option State :=
  if jadr = 0 then some s
  else
    match (if lch then s.decLaunch core ctx jadr.toNat else s.decRecord core ctx jadr.toNat) with
    | .done t => some t
    | .wait => none
    | .bad k va => some ((s.afterRead ctx va 4).errRecord ctx 1 k widb 0 0 0)

/-! ## SPAWN, SPAWNR, JDEC (R276) -/

def opPantry : BitVec 6 := 0x1E

/-- The 64 bytes of a word's record and the level whose deque it reserves an entry in, or SPAWNQ. -/
def State.withRecord (s : State) (c : Cursor) (a : BitVec 7) (lvOf : Nat → Nat) (f : State → Nat → Nat → Nat → State) :
    State :=
  let va := ((s.grp c.grp).sp c.slotB a.toNat).toNat
  match s.readAt c.grp va 64 64 with
  | .error k => s.raiseRead c opPantry k
  | .ok bs =>
    let s := s.seenAt c.grp va 64
    let lv := s.levelOf (s.ctxOf c.grp) (lvOf (leNat bs))
    if (s.core (coreOf c.grp)).room lv then f s va (leNat bs) lv else s.trapE c Code.SPAWNQ

/-- The entry of a word that reserves an entry in a deque of level `lv`. (DEDUCED, log 87) -/
def State.enqueuePantry (s : State) (c : Cursor) (lv : Nat) (body : EntryBody) : State :=
  let (id, s) := s.fresh
  (s.modCore (coreOf c.grp) fun x => x.reserve lv).enqueue c id opPantry body [] 0

/-- SPAWN (R276). (DEDUCED, log 47) -/
def execSpawn (a : BitVec 7) (s : State) : Host.Outcome State Fault Refusal :=
  word (.spawn a) s fun c s => s.withRecord c a (fun v => (recordOf v).prio) fun s _ v lv =>
    let r := recordOf v
    if (recordBad v).isSome then s.trapE c Code.ILLFLD
    else
      match s.readAt c.grp r.code.toNat 64 1 with
      | .error k => s.raiseRead c opPantry k
      | .ok hb =>
        let s := s.seenAt c.grp r.code.toNat 64
        if (headerBad (leNat hb)).isSome then s.trapE c Code.ILLFLD
        else if r.overflows (headerOf (leNat hb)) then s.trapE c Code.WIDOVF
        else s.enqueuePantry c lv (.spawn { r with ctx := s.ctxOf c.grp, prio := lv, lch := false })

/-- The range record of a launch (R268). -/
def launchRange (ctx l v hdr lv : Nat) : PRec :=
  { code := BitVec.ofNat 64 (launchCode v), frame := launchFrame v, ext := BitVec.ofNat 64 (l + 32), wlo := 0
    wcnt := lastIndex (headerOf hdr) (launchExts v) + 1, jadr := BitVec.ofNat 64 l, lch := true, ctx := ctx, prio := lv }

/-- SPAWNR (R276). -/
def execSpawnr (a : BitVec 7) (s : State) : Host.Outcome State Fault Refusal :=
  word (.spawnr a) s fun c s => s.withRecord c a launchPrio fun s l v lv =>
    if launchCode v % 64 ≠ 0 then s.trapE c Code.ILLFLD
    else
      match s.readAt c.grp (launchCode v) 64 1 with
      | .error k => s.raiseRead c opPantry k
      | .ok hb =>
        let s := s.seenAt c.grp (launchCode v) 64
        if (launchBad v (leNat hb)).isSome then s.trapE c Code.ILLFLD
        else s.enqueuePantry c lv (.spawn (launchRange (s.ctxOf c.grp) l v (leNat hb) lv))

/-- JDEC (R276). (DEDUCED, log 87) -/
def execJdec (a : BitVec 7) (s : State) : Host.Outcome State Fault Refusal :=
  word (.jdec a) s fun c s => s.withRecord c a (fun v => (recordOf v).prio) fun s va _ lv =>
    s.enqueuePantry c lv (.jdec va lv)

/-- SPAWN or SPAWNR leaves the issue queue: the record is pushed at the head; SPAWNR first writes its launch's JOIN. None: a frozen page
holds that write back (R242). -/
def State.leaveSpawn (s : State) (g : Nat) (r : PRec) : Option State :=
  let join := r.jadr.toNat + 24
  if r.lch && s.frz r.ctx join then none
  else
    let s := if r.lch then s.put r.ctx join (leBytes 4 r.wcnt) none else s
    some ((s.modCore (coreOf g) fun x => x.unreserve r.prio).pushHead (coreOf g) r.prio r)

/-- JDEC's decrement when it leaves the issue queue; none: it waits at the home. (DEDUCED, log 87) -/
def State.leaveJdec (s : State) (g : Nat) (e : Entry) (va lv : Nat) : Option State :=
  let s := s.modCore (coreOf g) fun x => x.unreserve lv
  match s.decRecord (coreOf g) (s.ctxOf g) va with
  | .done t => some t
  | .wait => none
  | .bad k a =>
    let s := s.afterRead (s.ctxOf g) a 4
    some (if k = Code.JOINUF then s.raiseEntry g e k else s.report g e [(96, k, a)] true true 0)

/-! ## QSTAT, FRAME (R276) -/

/-- QSTAT (R276). -/
def execQstat (d a : BitVec 7) (s : State) : Host.Outcome State Fault Refusal :=
  word (.qstat d a) s fun c s =>
    let lv := ((s.grp c.grp).sc c.slotB a.toNat).toNat
    let q := (s.core (coreOf c.grp)).deque lv
    if 3 < lv then s.postSP c d.toNat 0
    else
      let n := min 4294967295 (q.map fun r => r.wcnt).sum
      s.postSP c d.toNat (BitVec.ofNat 32 n ++ BitVec.ofNat 32 q.length : BitVec 64)

/-- Bits 63:0 of a resident work-group's record (R269). -/
def Wg.word0 (w : Wg) : Dword :=
  (BitVec.ofNat 16 w.ctx ++ BitVec.ofNat 2 w.prio ++ (2 : BitVec 2) ++ BitVec.ofNat 4 w.bb ++ BitVec.ofNat 18 w.spb ++
    (0 : BitVec 21) ++ BitVec.ofBool w.lch : BitVec 64)

/-- The items of FRAME. -/
def Wg.item (w : Wg) (k : Nat) : Dword :=
  match k with
  | 0 => w.frame
  | 1 => w.code
  | 2 => w.index
  | 3 => w.privb
  | 4 => w.word0
  | 5 => w.jadr
  | _ => 0

/-- FRAME (R276). -/
def execFrame (d a : BitVec 7) (s : State) : Host.Outcome State Fault Refusal :=
  word (.frame d a) s fun c s =>
    let g := s.grp c.grp
    s.postSP c d.toNat ((s.wg g.wg).item (g.sc c.slotB a.toNat).toNat)

end Sys2Proof.Machine
end

