-- ==== Sys2Proof/Machine/Schedule.lean ====
section
/-! DEFINITION. Launches (R266-R268, R274), the take and the split of records (R272, R347), the start of a work-group
(R127, R270, R277), stealing (R273), time slices and aging (R279, R280), and the end of a work-group (R173, R275). -/

namespace Sys2Proof.Machine

/-! ## Resources (R127, R129) -/

/-- Work-groups on a core. -/
def State.resident (s : State) (core : Nat) : List (Nat × Wg) := s.wgs.filter fun w => w.2.core == core

/-- The context has a work-group on the core. -/
def State.ctxOn (s : State) (core ctx : Nat) : Bool := (s.resident core).any fun w => w.2.ctx == ctx

/-- Two ranges share an address. -/
def overlap (a n b m : Nat) : Bool := decide (a < b + m) && decide (b < a + n)

/-- Private area of a whole work-group (R129). -/
def Wg.areas (w : Wg) : Nat := w.hdr.groups * w.hdr.area

/-- Private areas of a context in use: those of resident and of saved work-groups. -/
def State.privUsed (s : State) (ctx : Nat) : List (Nat × Nat) :=
  (s.wgs.filter fun w => w.2.ctx == ctx).map (fun w => (w.2.privb.toNat, w.2.areas)) ++
    (s.ctx ctx).images.map fun i => (i.2.wg.privb.toNat, i.2.wg.areas)

/-- A free range for the private areas of a work-group. (DEDUCED, log 44) -/
def State.privFree (s : State) (ctx : Nat) (h : Header) (privb : Nat) : Bool :=
  let n := h.groups * h.area
  let c := s.ctx ctx
  n == 0 || privb % 128 == 0 && decide (c.privVa.toNat ≤ privb) && decide (privb + n ≤ c.privVa.toNat + c.privLen) &&
    !((s.privUsed ctx).any fun u => overlap privb n u.1 u.2)

/-- What a work-group takes on the core is free where the placement says (R127). -/
def State.coreFree (s : State) (core : Nat) (h : Header) (p : Placement) : Bool :=
  let ws := s.resident core
  let used := ws.flatMap fun w => w.2.slots
  let bars := (s.cluster (clusterOf core)).bars
  decide (p.slots.length = h.groups) && p.slots.eraseDups == p.slots &&
    (p.slots.all fun k => decide (k < 32) && !used.contains k) &&
    decide ((ws.map fun w => w.2.hdr.vectors).sum + h.vectors ≤ 1024) &&
    p.spb % 128 == 0 && decide (p.spb + h.spadSize ≤ 262144) &&
    !(ws.any fun w => overlap p.spb h.spadSize w.2.spb w.2.hdr.spadSize) &&
    decide (p.bb < 16) && decide (p.bb + h.bars ≤ 16) &&
    (List.range h.bars).all fun i => (tgetD bars (p.bb + i) {}).holder.isNone

/-- The work-group fits (R127). -/
def State.fits (s : State) (core ctx : Nat) (h : Header) (p : Placement) : Bool :=
  s.coreFree core h p && s.privFree ctx h p.privb.toNat

/-! ## The start of a work-group (R24, R270) -/

/-- Extent `k` holds field `k` of a WID. -/
def fieldIn (h : Header) (e wid k : Nat) : Bool :=
  decide (wid / 2 ^ h.bits k % 2 ^ h.widths.getD k 0 < extentOf e k)

/-- Starting mask of group `j` of the work-group whose lowest WID is `base` (R24). -/
def startMask (h : Header) (e base j : Nat) : Mask :=
  maskOf ((List.range 96).filter fun i =>
    decide (96 * j + i < 2 ^ h.wgBits) &&
      (List.range h.widths.length).all fun k => fieldIn h e (base + 96 * j + i) k)

/-- Some lane of the work-group lies within the extents. -/
def runs (h : Header) (e base : Nat) : Bool :=
  ((List.range h.widths.length).all fun k => decide (k < h.place) || fieldIn h e base k) &&
    (List.range h.groups).any fun j => startMask h e base j != 0

/-- A group at its start (R11, R20). (DESIGN CHOICE, log 4) -/
def startGroup (w : Nat) (x : Wg) (j : Nat) (m : Mask) : Group :=
  let base := x.base.toNat + 96 * j
  { wg := w, idx := j
    a := { st := .run, pc := x.hdr.entry, owned := m, active := m, bank := m }
    regs := { s := tset (tset [] 0 (x.frame.setWidth 32)) 1 ((x.frame >>> 32).setWidth 32)
              seed := perLane fun i => BitVec.ofNat 32 (base + i) ^^^ 0x9E3779B9 } }

/-- The barriers of a work-group at its start (R139). -/
def State.startBars (s : State) (cl bb n w expa : Nat) : State :=
  (List.range n).foldl (fun s i => s.setBar cl (bb + i) { holder := some w, expa := expa }) s

/-- A core that no work-group is on takes the package's cycle when one is placed on it: no clock of the work-group counts earlier
cycles (R21). (DESIGN CHOICE, log 91) -/
def State.roused (s : State) (core : Nat) : State :=
  if (s.resident core).isEmpty then
    s.modCore core fun c => { c with
      busyA := c.busyA - (s.cycles - c.cycles), busyB := c.busyB - (s.cycles - c.cycles), cycles := s.cycles }
  else s

/-- A work-group starts on a core: the acquire of R277, its resources and its groups (R270). -/
def State.startWg (s : State) (core : Nat) (r : PRec) (h : Header) (e : Nat) (p : Placement) : State :=
  let (w, s) := (s.roused core).fresh
  let s := s.acquire core r.ctx
  let base := (r.wlo <<< h.wgBits).toNat
  let js := (List.range h.groups).filter fun j => startMask h e base j != 0
  let key (j : Nat) : Nat := 32 * core + p.slots.getD j 0
  let x : Wg :=
    { ctx := r.ctx, core := core, hdr := h, code := r.code, frame := r.frame, ext := r.ext, index := r.wlo, jadr := r.jadr
      lch := r.lch, prio := r.prio, spb := p.spb, bb := p.bb, privb := p.privb, groups := js.map key, slots := p.slots }
  let s := s.setWg w x
  let s := s.setSpad core p.spb (List.replicate h.spadSize 0) none
  let s := s.startBars (clusterOf core) p.bb h.bars w js.length
  let s := js.foldl (fun s j => s.setGrp (key j) (startGroup w x j (startMask h e base j))) s
  s.modCore core fun c => { c with sliced := c.sliced.filter fun k => k == r.ctx }

/-- Starts the first work-group of a record, or skips it (R270). None: the decrement of a skipped one waits. -/
def State.startFirst (s : State) (core : Nat) (r : PRec) (h : Header) (e : Nat) (p : Placement) : Option State :=
  let base := r.wlo <<< h.wgBits
  if runs h e base.toNat then some (s.startWg core r h e p) else s.decrement core r.ctx r.jadr r.lch base

/-! ## The check of a record at its take (R347) -/

/-- What the reads at a take find. -/
inductive Vet where
  | ok (h : Header) (e : Nat)
  | wait
  | bad (cause : Cause) (info : Word)

/-- The header and the extents of a record, and the checks of R347 where they are due. (DEDUCED, log 46) -/
def State.vet (s : State) (r : PRec) : Vet :=
  match r.bad with
  | some o => .bad Code.ILLFLD (BitVec.ofNat 32 (0xC0000000 + o))
  | none =>
    match s.homeRead r.ctx r.code.toNat 64 with
    | .wait => .wait
    | .bad k => .bad k 0
    | .ok hb =>
      match headerBad (leNat hb) with
      | some o => .bad Code.ILLFLD (BitVec.ofNat 32 o)
      | none =>
        match s.homeRead r.ctx r.ext.toNat 32 with
        | .wait => .wait
        | .bad k => .bad k 0
        | .ok eb =>
          let h := headerOf (leNat hb)
          match (if r.check then extentBad h (leNat eb) else none) with
          | some k => .bad Code.ILLFLD (BitVec.ofNat 32 (0x80000000 + 4 * k))
          | none =>
            if r.check && r.overflows h then .bad Code.WIDOVF 0xC0000018 else .ok h (leNat eb)

/-- The header and the extents of a record have been read. -/
def State.vetted (s : State) (r : PRec) : State := (s.afterRead r.ctx r.code.toNat 64).afterRead r.ctx r.ext.toNat 32

/-- A record that failed its checks is posted as a notice (R347). (DEDUCED, log 46) -/
def State.dropRecord (s : State) (r : PRec) (k : Cause) (info : Word) : State :=
  (s.vetted r).errRecord r.ctx 1 k 0 0 0 info

/-! ## Choice and split (R272, R279) -/

/-- Records of the context may start work-groups (R283). -/
def State.running (s : State) (ctx : Nat) : Bool := (s.ctx ctx).st == CtxSt.run

/-- Index of the record that a core takes from one of its deques. -/
def State.pick (s : State) (core lv : Nat) : Option Nat :=
  let c := s.core core
  let q := c.deque lv
  match q.findIdx? fun r => s.running r.ctx with
  | none => none
  | some i =>
    let x := (q.getD i {}).ctx
    if c.sliced.contains x then
      match q.findIdx? fun r => s.running r.ctx && r.ctx != x with
      | some j => some j
      | none => some i
    else some i

/-- Level and index of the record that a core takes. (DEDUCED, log 48) -/
def State.candidate (s : State) (core : Nat) : Option (Nat × Nat) :=
  [3, 2, 1, 0].findSome? fun lv => (s.pick core lv).map fun i => (lv, i)

/-- The upper part of a record of which the first `n` work-groups are taken. -/
def PRec.upper (r : PRec) (n : Nat) : PRec :=
  { r with wlo := r.wlo + BitVec.ofNat 64 n, wcnt := r.wcnt - n, check := false }

/-- The lower part. -/
def PRec.lower (r : PRec) (n : Nat) : PRec := { r with wcnt := n, check := false }

/-- Work-groups that a taker takes of a record; a full deque leaves all but one (R272). -/
def PRec.share (r : PRec) (room : Bool) : Nat := if room then (r.wcnt + 1) / 2 else 1

/-- Record `i` of a deque is taken, but for the part that stays in its place. -/
def Core.takeAt (c : Core) (lv i n : Nat) : Core :=
  let q := c.deque lv
  match q[i]? with
  | none => c
  | some r => c.setDeque lv (if n < r.wcnt then setAt q i (r.upper n) else dropAt q i)

/-- The rest of a taken range goes to the head of the taker's deque (R272). -/
def State.pushRest (s : State) (core lv : Nat) (r : PRec) : State :=
  if r.wcnt ≤ 1 then s else s.pushHead core lv (r.upper 1)

/-- A core takes `n` work-groups of a record from a deque (its own or a victim's) and starts the first. -/
def State.takeRange (s : State) (core from_ lv i n : Nat) (r : PRec) (h : Header) (e : Nat) (p : Placement) :
    Option State :=
  let s := ((s.vetted r).modCore from_ fun c => c.takeAt lv i n).pushRest core lv (r.lower n)
  s.startFirst core (r.lower n) h e p

/-! ## LAUNCH_QUEUE_TAIL_WRITE, LAUNCH_TAKE (R266, R268, R274) -/

/-- A queue that its configuration word makes usable. -/
def usable (base : Dword) (cfg : Word) : Option (Dword × Word) := if 4 ≤ sizeOf cfg then some (base, cfg) else none

/-- LAUNCH_QUEUE_TAIL_WRITE (R266): the first such write takes the queues' configurations (R288). -/
def execLaunchQueueTailWrite (ctx : Nat) (tail : Word) (s : State) : Host.Outcome State Fault Refusal :=
  .next (match tget s.ctxs ctx with
    | none => s
    | some c =>
      let c := { c with tail := tail }
      s.setCtx ctx (if c.cfgDue then
        { c with cfgDue := false, lqUse := usable c.lqbase c.lqcfg, eqUse := usable c.eqbase c.eqcfg }
      else c))

/-- TAIL as the device reads it: at most 2^LQ ahead of DONE (R266). -/
def Ctx.tailRead (c : Ctx) (cfg : Word) : Word :=
  if 2 ^ sizeOf cfg < (c.tail - c.done).toNat then c.done + BitVec.ofNat 32 (2 ^ sizeOf cfg) else c.tail

/-- A core is in a core set: bit i of CSET stands for the cores of cluster i (R274). -/
def inSet (cset : BitVec 128) (core : Nat) : Bool := cset.getLsbD (clusterOf core)

/-- The first core of the set at or above the pointer, wrapping (R274). -/
def Ctx.nextCore (c : Ctx) : Option Nat :=
  match (List.range 100).find? fun k => c.cset.getLsbD ((c.place / 32 + k) % 100) with
  | none => none
  | some k =>
    if k = 0 then some c.place
    else some (32 * ((c.place / 32 + k) % 100))

/-- The clock of a core's island runs: two clusters an island, thirteen islands a die (R296). -/
def islandOf (core : Nat) : Nat := 13 * (core / 800) + core % 800 / 64

/-- DEDUCED, log 86. -/
def State.clocked (s : State) (core : Nat) : Bool :=
  !s.stopped.contains (islandOf core) && !s.lost.contains (clusterOf core)

/-- A launch that a check has refused completes at once (R268). -/
def State.refuseLaunch (s : State) (ctx l : Nat) (k : Cause) (info : Word) : State :=
  ((s.errRecord ctx 1 k 0 0 0 info)).launchDone ctx l

/-- The launch is pushed on the next core of the context's set; none where its deque is full or its clock stopped. -/
def State.pushLaunch (s : State) (ctx l v hdr : Nat) : Option State :=
  let c := s.ctx ctx
  match c.nextCore with
  | none => none
  | some core =>
    let lv := s.levelOf ctx (launchPrio v)
    let r := launchRange ctx l v hdr lv
    if !(s.core core).room lv || !s.clocked core || s.frz ctx (l + 24) then none
    else
      let s := s.put ctx (l + 24) (leBytes 4 r.wcnt) none
      some ((s.setCtx ctx { s.ctx ctx with place := (core + 1) % 3200 }).pushTail core lv r)

/-- The checks of R268 on the launch record at `l`, read as `v`. (DEDUCED, log 45) -/
def State.checkLaunch (s : State) (ctx l v : Nat) : Option State :=
  if launchCode v % 64 ≠ 0 then some (s.refuseLaunch ctx l Code.ILLFLD 0x40000000)
  else
    match s.homeRead ctx (launchCode v) 64 with
    | .wait => none
    | .bad k => some ((s.afterRead ctx (launchCode v) 64).refuseLaunch ctx l k 0)
    | .ok hb =>
      let s := s.afterRead ctx (launchCode v) 64
      match launchBad v (leNat hb) with
      | some info => some (s.refuseLaunch ctx l Code.ILLFLD info)
      | none => s.pushLaunch ctx l v (leNat hb)

/-- LAUNCH_TAKE (R268). (DEDUCED, log 45) -/
def execLaunchTake (ctx : Nat) (s : State) : Host.Outcome State Fault Refusal :=
  let c := s.ctx ctx
  .next (match c.lqUse with
    | none => s
    | some (base, cfg) =>
      if c.st != CtxSt.run || c.head == c.tailRead cfg then s
      else
        let l := base.toNat + 64 * (c.head.toNat % 2 ^ sizeOf cfg)
        let t := s.setCtx ctx { c with
          head := c.head + 1, launches := c.launches ++ [{ addr := BitVec.ofNat 64 l, done := false }] }
        match s.homeRead ctx l 64 with
        | .wait => s
        | .bad k => (t.afterRead ctx l 64).refuseLaunch ctx l k 0
        | .ok bs => ((t.afterRead ctx l 64).checkLaunch ctx l (leNat bs)).getD s)

/-! ## Stealing (R273) -/

/-- All four deques are empty. -/
def Core.idle (c : Core) : Bool := [0, 1, 2, 3].all fun lv => (c.deque lv).isEmpty

/-- The victim state at reset. -/
def victimSeed (core : Nat) : Word := BitVec.ofNat 32 ((core + 1) * 0x9E3779B9)

/-- Draws until the victim is another core. (DEDUCED, log 48) -/
def drawVictim (core : Nat) : Nat → Word → Word
  | 0, x => Fp.xorshift x
  | n + 1, x => if (Fp.xorshift x).toNat % 3200 = core then drawVictim core n (Fp.xorshift x) else Fp.xorshift x

/-- STEAL_REQUEST (R273). (DEDUCED, log 48) -/
def execStealRequest (core : Nat) (s : State) : Host.Outcome State Fault Refusal :=
  let c := s.core core
  .next (if c.idle && c.stealReq.isNone && !c.stealWait && s.clocked core && decide (core < 3200) then
      let x := drawVictim core 64 (c.victim.getD (victimSeed core))
      s.setCore core { c with victim := some x, stealReq := some (x.toNat % 3200) }
    else s)

/-- The tail record that a victim gives a thief: the highest level whose tail record qualifies. -/
def State.stealable (s : State) (victim thief : Nat) : Option (Nat × PRec) :=
  [3, 2, 1, 0].findSome? fun lv =>
    match ((s.core victim).deque lv).getLast? with
    | none => none
    | some r => if s.running r.ctx && inSet (s.ctx r.ctx).cset thief then some (lv, r) else none

/-- STEAL_RETRY_TIMER (R273): 256 ns after no work. -/
def execStealRetryTimer (core : Nat) (s : State) : Host.Outcome State Fault Refusal :=
  .next (s.modCore core fun c => { c with stealWait := false })

/-! ## Time slices and aging (R279, R280) -/

/-- TSLICE in ns. -/
def Ctx.slice (c : Ctx) : Nat := 1000 * fld c.sched.toNat 14 16

/-- The core holds a record of `ctx` and one of another context at the same or a higher level. (DEDUCED, log 53) -/
def State.rivals (s : State) (core ctx : Nat) : Bool :=
  let c := s.core core
  (List.range 4).any fun lv =>
    ((c.deque lv).any fun r => r.ctx == ctx) &&
      (List.range 4).any fun hi => decide (lv ≤ hi) && (c.deque hi).any fun r => r.ctx != ctx && s.running r.ctx

/-- TIME_SLICE_EXPIRY (R279): the core starts nothing more of the context until another has started. (DEDUCED, log 53) -/
def execTimeSliceExpiry (core ctx : Nat) (s : State) : Host.Outcome State Fault Refusal :=
  let c := s.core core
  let n := (s.ctx ctx).slice
  .next (if n ≠ 0 ∧ n ≤ tgetD c.resid ctx 0 ∧ s.rivals core ctx ∧ c.sliced.contains ctx = false then
      s.setCore core { c with sliced := c.sliced ++ [ctx] }
    else s)

/-- AGING_PERIOD_EXPIRY (R280): record `k` of a level moves to the tail of the next one. (DEDUCED, log 53) -/
def execAgingPeriodExpiry (core level k : Nat) (s : State) : Host.Outcome State Fault Refusal :=
  let c := s.core core
  .next (match (c.deque level)[k]? with
    | none => s
    | some r =>
      let x := s.ctx r.ctx
      if fld x.sched.toNat 56 4 = 0 ∨ x.maxp ≤ level ∨ c.room (level + 1) = false then s
      else (s.setCore core (c.setDeque level (dropAt (c.deque level) k))).pushTail core (level + 1)
        { r with prio := level + 1 })

/-! ## The end of a work-group (R173, R223, R275) -/

/-- Both slots are FREE, the stack is empty and nothing is left to take (R11). -/
def Group.ended (x : Group) : Bool :=
  x.dead || x.a.st == SlotSt.free && x.b.st == SlotSt.free && x.dsp == 0 && x.trap.isNone &&
    x.a.pend.isNone && x.b.pend.isNone

/-- Nothing of the group is on its way, and none of its operations is in the matrix engine. -/
def State.drained (s : State) (g : Nat) : Bool :=
  let x := s.grp g
  x.queue.isEmpty && x.flights.isEmpty && x.deferred.isEmpty && !((s.core (coreOf g)).mq.any fun o => o.grp == g)

/-- A range holds a line. -/
def lineIn (va n line : Nat) : Bool := overlap va n (128 * line) 128

/-- The core's lines of a work-group's private areas are dropped without write-back (R129). -/
def State.dropPrivate (s : State) (w : Wg) : State :=
  (s.modCore w.core fun c => { c with
      l1 := c.l1.filter fun l => !(l.ctx == w.ctx && lineIn w.privb.toNat w.areas l.line) })

/-- A work-group's rings are unbound (R181). -/
def Cluster.unbind (c : Cluster) (w : Nat) : Cluster :=
  { c with rings := c.rings.map fun r => if r.2.owner = w ∧ r.2.v then (r.1, { r.2 with v := false }) else r }

/-- A work-group's barriers are free again (R127). -/
def Cluster.freeBars (c : Cluster) (w : Nat) : Cluster :=
  { c with bars := c.bars.filter fun b => b.2.holder != some w }

/-- The core's rows of a work-group are zero and free (R200). -/
def Core.freeRows (c : Core) (w : Nat) : Core :=
  let mine := (c.rows.filter fun r => r.2 == w).map fun r => r.1
  { c with rows := c.rows.filter fun r => r.2 != w
           acc := c.acc.filter fun r => !mine.contains r.1
           releasing := c.releasing.filter fun r => r.2 != w }

/-- Team, rows, rings, barriers, group slots and scratchpad of a work-group are free (R173, R181, R223). -/
def State.freeWg (s : State) (no : Nat) : State :=
  let w := s.wg no
  let cl := clusterOf w.core
  let c := s.core w.core
  let s := if c.team.isSome && c.teamWg == no then s.leaveTeam w.core else s
  let s := s.modCore w.core fun c => c.freeRows no
  let s := s.setCluster cl (((s.cluster cl).unbind no).freeBars no)
  let s := { s with groups := s.groups.filter fun g => !w.groups.contains g.1
                    watches := s.watches.filter fun y => !w.groups.contains y.grp
                    wgs := tdel s.wgs no }
  if s.ctxOn w.core w.ctx then s else s.modCore w.core fun c => { c with resid := tdel c.resid w.ctx }

/-- A draining or saving context with no resident work-group is stopped (R283). -/
def State.stopIdle (s : State) (ctx : Nat) : State :=
  let c := s.ctx ctx
  if (c.st == CtxSt.drain || c.st == CtxSt.save) && !(s.wgs.any fun w => w.2.ctx == ctx) then
    s.setCtx ctx { c with st := .stopped, deadline := false }
  else s

/-- The core moves every dirty byte of a work-group's context; its end or its save waits for those bytes (R173). -/
def State.moveDirty (s : State) (wg : Nat) : State :=
  let w := s.wg wg
  let s := s.pushDirty w.core w.ctx
  s.setWg wg { w with moved := s.nextId }

/-- WORKGROUP_END (R173): once its groups have ended, the context's dirty bytes go to their homes; once they are
acknowledged the resources are freed and the join counter is decremented (R275). -/
def execWorkgroupEnd (wg : Nat) (s : State) : Host.Outcome State Fault Refusal :=
  .next (match tget s.wgs wg with
    | none => s
    | some w =>
      if !(w.groups.all fun g => (s.grp g).ended && s.drained g) then s
      else if w.moved = 0 then (s.dropPrivate w).moveDirty wg
      else if !s.wbDone w.core w.ctx w.moved then s
      else
        match (s.freeWg wg).decrement w.core w.ctx w.jadr w.lch w.base with
        | some u => u.stopIdle w.ctx
        | none => s)

end Sys2Proof.Machine
end

