-- ==== Sys2Proof/Machine/Save.lean ====
section
/-! DEFINITION. Saving and restoring a work-group (R281, R282), the take of a record and the answer to a steal (R272, R273),
and pre-emption and forced reset (R283, R284). -/

namespace Sys2Proof.Machine

/-! ## The save image (R281) -/

def pad64 (n : Nat) : Nat := (n + 63) / 64 * 64

/-- `bs` up to a multiple of 64 bytes. -/
def padded (bs : List Byte) : List Byte := bs ++ List.replicate (pad64 bs.length - bs.length) 0

/-- Vector registers of a group in a save image. (DESIGN CHOICE, log 50) -/
def Header.savedVecs (h : Header) : Nat := (h.vregs + 7) / 8 * 8

/-- Bytes of a save image. -/
def Image.size (i : Image) : Nat :=
  64 + pad64 (8 * i.bars.length) + pad64 (16 + 512 * i.rows.length) + i.wg.hdr.spadSize +
    i.groups.length * (896 + 384 * i.wg.hdr.savedVecs)

/-- The record of KIND 10 as 64 bytes (R269). -/
def Wg.recordBytes (w : Wg) : List Byte :=
  leBytes 8 w.word0.toNat ++ leBytes 8 w.privb.toNat ++ leBytes 4 0 ++ leBytes 4 1 ++ leBytes 8 w.index.toNat ++
    leBytes 8 w.code.toNat ++ leBytes 8 w.frame.toNat ++ leBytes 8 w.ext.toNat ++ leBytes 8 w.jadr.toNat

/-- 128 bytes for a slot: state, depth and presence of a point, pc, owned lanes, active lanes, point, return stack, q14. (DESIGN CHOICE, log 50) -/
def Slot.image (x : Slot) : List Byte :=
  let st := match x.st with | .free => 0 | .run => 1 | .wait => 2
  leBytes 4 st ++ leBytes 2 x.rstack.length ++ leBytes 2 x.point.isSome.toNat ++ leBytes 8 x.pc.toNat ++
    leBytes 12 x.owned.toNat ++ leBytes 12 x.active.toNat ++ leBytes 8 (x.point.getD 0).toNat ++
    (List.range 7).flatMap (fun i => leBytes 8 (x.rstack.reverse.getD i 0).toNat) ++ leBytes 12 x.bank.toNat ++
    leBytes 12 0

/-- 256 bytes for the special registers 0x00 to 0x35, one word each, lane 0 of a register that holds more; words 54 to 57 hold the
higher members of %tmask and %tdone, and the last word the skip count. (DESIGN CHOICE, log 50) -/
def State.sprImage (s : State) (g : Nat) : List Byte :=
  let x := s.grp g
  let t := x.trapRegs
  let at_ (n : Nat) : Word :=
    match n with
    | 0x04 | 0x05 | 0x0D => s.laneSpr g n 0
    | 0x22 => t.tmask.setWidth 32
    | 0x23 => t.tdone.setWidth 32
    | 0x25 => (t.faddr.getD 0 0).setWidth 32
    | 54 => (t.tmask >>> 32).setWidth 32
    | 55 => (t.tmask >>> 64).setWidth 32
    | 56 => (t.tdone >>> 32).setWidth 32
    | 57 => (t.tdone >>> 64).setWidth 32
    | n => if n ≤ 0x35 then s.groupSpr g false n else 0
  (List.range 63).flatMap (fun n => leBytes 4 (at_ n).toNat) ++ leBytes 4 x.phi.toNat

/-- One group of a save image. -/
def State.groupImage (s : State) (g : Nat) : List Byte :=
  let x := s.grp g
  (List.range 64).flatMap (fun n => leBytes 4 (tgetD x.regs.s n 0).toNat) ++ x.a.image ++ x.b.image ++ s.sprImage g ++
    (List.range 16).flatMap (fun k => leBytes 8 (tgetD x.tmld k 0).toNat) ++
    (List.range (s.wg x.wg).hdr.savedVecs).flatMap fun n => (List.range 96).flatMap fun i => leBytes 4 (x.v n i).toNat

/-- The bytes of a save image, part by part (R281), with the groups that `gs` names. (DESIGN CHOICE, log 50) -/
def Image.bytes (i : Image) (s : State) (gs : List Nat) : List Byte :=
  let owned := i.rows.foldl (fun n r => n + 2 ^ r.1) 0
  i.wg.recordBytes ++
    padded (i.bars.flatMap fun b => leBytes 4 b.low.toNat ++ leBytes 4 b.tx.toNat) ++
    padded (leBytes 16 owned ++ i.rows.flatMap fun r => (List.range 128).flatMap fun k => leBytes 4 (r.2.getD k 0).toNat) ++
    i.spad ++ gs.flatMap s.groupImage

/-- Pieces of an image that lie in one frame of the save pool each: PA and bytes. -/
def poolPieces (frames : List Nat) : Nat → Nat → List Byte → List (Nat × List Byte)
  | 0, _, _ => []
  | fuel + 1, a, bs =>
    if bs.isEmpty then []
    else
      let n := 262144 - a % 262144
      (262144 * frames.getD (a / 262144) 0 + a % 262144, bs.take n) :: poolPieces frames fuel (a + n) (bs.drop n)

/-- The image is written into the save pool; the granules it covers are whole writes. -/
def State.putImage (s : State) (frames : List Nat) (a : Nat) (bs : List Byte) : State :=
  (poolPieces frames (bs.length / 262144 + 2) a bs).foldl (fun s p =>
    let sound (g : Nat) : Bool := decide (32 * g + 32 ≤ p.1) || decide (p.1 + p.2.length ≤ 32 * g)
    { s with mem := setCells s.mem p.1 p.2, poison := s.poison.filter sound, failed := s.failed.filter sound }) s

/-! ## Whether a work-group can be saved (R181, R223, R281) -/

/-- The work-group owns a bound ring or holds a team position. -/
def State.engaged (s : State) (no : Nat) : Bool :=
  let w := s.wg no
  let c := s.core w.core
  (s.cluster (clusterOf w.core)).rings.any (fun r => r.2.v && r.2.owner == no) || c.team.isSome && c.teamWg == no

/-- The image of a work-group as it stands. -/
def State.imageOf (s : State) (no : Nat) : Image :=
  let w := s.wg no
  let c := s.core w.core
  let cl := s.cluster (clusterOf w.core)
  { no := no, wg := w, groups := w.groups.map s.grp, bars := (List.range w.hdr.bars).map fun i => cl.bar (w.bb + i)
    rows := (c.rows.filter fun r => r.2 == no).map fun r => (r.1, tgetD c.acc r.1 [])
    spad := cells c.spad w.spb w.hdr.spadSize }

/-- The address, an offset in the save pool, is free for an image of `n` bytes. (DESIGN CHOICE, log 50) -/
def Ctx.imageFree (c : Ctx) (a n : Nat) : Bool :=
  a % 64 == 0 && decide (a + n ≤ c.savePool) && !(c.images.any fun i => overlap a n i.1 i.2.size)

/-- Where a free range of the save pool can start: at 0 or behind an image. -/
def Ctx.imageStarts (c : Ctx) : List Nat := 0 :: c.images.map fun i => (i.1 + i.2.size + 63) / 64 * 64

/-- The work-group may be saved: otherwise a save is served as a drain, a fault as for the latency class. (DEDUCED, log 51) -/
def State.saveOk (s : State) (no : Nat) : Bool :=
  let c := s.ctx (s.wg no).ctx
  !s.engaged no && c.imageStarts.any fun a => c.imageFree a (s.imageOf no).size

/-! ## The save (R281) -/

/-- The slot waits for nothing but a barrier, a ring or a copy, or, where the save is for a fault, for its service, or it issues. (DEDUCED,
log 51) -/
def Slot.restful (x : Slot) (fault : Bool) : Bool :=
  match x.park with
  | none => true
  | some p => match p.why with
    | .barrier _ | .ring _ | .copyWait _ => true
    | .service _ => fault
    | _ => false

/-- Nothing but what fault service or a barrier, ring or copy wait holds back is outstanding, and no trap is due. -/
def Group.calm (x : Group) : Bool :=
  !x.priv && x.trap.isNone && x.a.pend.isNone && x.b.pend.isNone && x.deferred.isEmpty && x.spec.isNone

/-- Parked words, and accesses of a save for a fault, whose results the save leaves outstanding. -/
def Group.waitIds (x : Group) : List Nat :=
  let park (y : Slot) : List Nat := match y.park with | some p => [p.id] | none => []
  park x.a ++ park x.b ++ x.queue.map (fun e => e.id) ++ x.flights.map fun f => f.entry.id

/-- Entry `k` of a group's queue cannot leave now: what it waits for is, in the end, an access in fault service (R162, R165). -/
def State.stuck (s : State) (g k : Nat) : Bool :=
  let x := s.grp g
  let maint := (x.queue.take k).any Entry.isMaint || x.flights.any fun f => f.entry.isMaint
  match x.queue[k]? with
  | none => true
  | some e =>
    match e.body with
    | .mem .. => !s.mayLeave g k
    | .maint .. => !s.mayLeave g k
    | .fence _ .grp _ => k != 0 || maint
    | .fence .acq _ _ => maint
    | .fence .. => k != 0 || maint || !s.fenceLanded g e
    | _ => k != 0 || !s.landed g e

/-- The group has waited as after a marked bundle (R32, R281): nothing of it is outstanding but what a barrier, ring or copy wait will write.
In a save for a fault (R229) the lanes in service stay outstanding, to be replayed, and with them what cannot leave its queue before they
are performed. (DEDUCED, log 51) -/
def State.quietForSave (s : State) (g : Nat) (fault : Bool) : Bool :=
  let x := s.grp g
  x.a.restful fault && x.b.restful fault && (x.out.all fun r => r.src != 0 && x.waitIds.contains r.src) &&
    if fault then
      (x.flights.all fun f => f.serviced) && ((List.range x.queue.length).all (s.stuck g)) &&
        (!x.flights.isEmpty || (x.a.repDone && x.b.repDone))
    else x.flights.isEmpty && x.queue.isEmpty && x.a.repDone && x.b.repDone

/-- The core's L1 holds dirty bytes of lines that the work-group's groups have stored to. -/
def State.dirtyOf (s : State) (w : Wg) : Bool :=
  (s.core w.core).l1.any fun l => l.ctx == w.ctx && l.dirty != 0 && l.groups.any fun k => w.groups.contains (32 * w.core + k)

/-- A copy card bound to one of the work-group's barriers is still to complete. -/
def State.boundCard (s : State) (w : Wg) : Bool :=
  let mine (c : Card) : Bool :=
    complKind (c.w 7) == 1 && decide (16 + w.bb ≤ complTgt (c.w 7)) && decide (complTgt (c.w 7) < 16 + w.bb + w.hdr.bars)
  (s.cluster (clusterOf w.core)).chans.any fun x => (x.2.queue ++ x.2.fired).any mine

/-- The addresses whose pages the lanes, the words and the fetches in fault service wait for. -/
def State.waitedPages (s : State) (w : Wg) : List Nat :=
  w.groups.flatMap fun g =>
    let x := s.grp g
    x.flights.flatMap (fun f => (serviceable f.bad).map fun b => b.2.2) ++ x.a.serviced.toList ++ x.b.serviced.toList ++ s.fetchVas g

/-- Lanes in fault service go back to their queue: their replay is a new access (R229). -/
def State.requeueFaults (s : State) (w : Wg) : State :=
  w.groups.foldl (fun s g => (s.grp g).flights.reverse.foldl (fun s f => s.replayLanes g f ((serviceable f.bad).map fun b => b.1)) s) s

/-- The record of KIND 01 of a saved work-group (R269). -/
def Wg.savedRecord (w : Wg) (image : Dword) : PRec :=
  { jadr := w.jadr, ext := w.ext, frame := w.frame, code := w.code, wlo := w.index, wcnt := 1, save := image, ctx := w.ctx
    prio := w.prio, kind := 1, lch := w.lch }

/-- Records of saved work-groups whose pages are settled return to the pantry of the core that saved them (R229). (DEDUCED, log 36) -/
def State.releaseHeld (s : State) (ctx : Nat) : State :=
  let c := s.ctx ctx
  let go (h : Held) : Bool := h.vas.all fun a => s.pageSettled ctx a
  c.held.foldl (fun s h =>
    if go h && (s.core h.core).room h.item.prio then
      (s.setCtx ctx { s.ctx ctx with held := (s.ctx ctx).held.erase h }).pushTail h.core h.item.prio h.item
    else s) s

/-- Entries that a queue's words have reserved in their core's deques: level by level. -/
def Group.reserves (x : Group) : List Nat :=
  x.queue.filterMap fun e =>
    match e.body with
    | .spawn r => some r.prio
    | .jdec _ lv => some lv
    | _ => none

/-- The image is written, the resources are freed and the record is pushed, or kept until its pages are mapped and its deque has room.
The deque entries that waiting words have reserved are free, and are reserved again on the core that restores the work-group. -/
def State.writeImage (s : State) (no : Nat) (image : Dword) : State :=
  let w := s.wg no
  let vas := s.waitedPages w
  let s := (s.requeueFaults w).setWg no { w with saving := false, faulted := false, moved := 0 }
  let i := s.imageOf no
  let s := s.putImage (s.ctx w.ctx).saveFrames image.toNat (i.bytes s w.groups)
  let s := (s.dropPrivate w).modCore w.core fun c => (i.groups.flatMap Group.reserves).foldl Core.unreserve c
  let c := s.ctx w.ctx
  let s := s.setCtx w.ctx { c with
    images := tset c.images image.toNat i
    held := c.held ++ [{ core := w.core, item := w.savedRecord image, vas := vas }] }
  ((s.freeWg no).releaseHeld w.ctx).stopIdle w.ctx

/-- The next thing that the save of a work-group does: abort a try region (R150), move dirty bytes, private ones included,
to their homes, as often as a replayed lane has stored since, write the image. -/
def State.saveStep (s : State) (no : Nat) (image : Dword) : State :=
  match tget s.wgs no with
  | none => s
  | some w =>
    if !w.saving || w.killed then s
    else if !s.saveOk no then s.setWg no { w with saving := false, faulted := false, moved := 0 }
    else if !(w.groups.all fun g => (s.grp g).calm) then s
    else
      match w.groups.find? fun g => (s.grp g).tryR.isSome with
      | some g => s.abortTry g abPREEMPT Code.PREEMPT 0
      | none =>
        let ready := w.groups.all fun g => s.quietForSave g w.faulted && (s.opsOf g).isEmpty
        if !ready || s.boundCard w then s
        else if w.moved = 0 || s.dirtyOf w then s.moveDirty no
        else if s.wbDone w.core w.ctx w.moved && (s.ctx w.ctx).imageFree image.toNat (s.imageOf no).size &&
            (s.core w.core).room w.prio then s.writeImage no image
        else s

/-- WORKGROUP_SAVE (R281). -/
def execWorkgroupSave (wg : Nat) (image : Dword) (s : State) : Host.Outcome State Fault Refusal :=
  .next (s.saveStep wg image)

/-- THROUGHPUT_FAULT_TIMEOUT (R229): the work-group of a group in fault service is saved, where it may be. (DEDUCED, log 36) -/
def execThroughputFaultTimeout (grp : Nat) (image : Dword) (s : State) : Host.Outcome State Fault Refusal :=
  let x := s.grp grp
  let w := s.wg x.wg
  .next (if s.asks grp && !w.hdr.latency && !w.killed && s.saveOk x.wg then
      (s.setWg x.wg { w with saving := true, faulted := true }).saveStep x.wg image
    else s)

/-! ## The restore (R282) -/

/-- A piece in the work-group's scratchpad allocation moves with it. -/
def Piece.moved (p : Piece) (w x : Wg) : Piece :=
  let a := 262144 * (w.core % 32) + w.spb
  if a ≤ p.addr ∧ p.addr < a + w.hdr.spadSize then { p with addr := 262144 * (x.core % 32) + x.spb + (p.addr - a) } else p

/-- A cluster barrier that was the work-group's own. -/
def movedBar (w x : Wg) (b : Nat) : Nat := if w.bb ≤ b ∧ b < w.bb + w.hdr.bars then x.bb + (b - w.bb) else b

/-- What a queue entry kept over a save names on its new core. -/
def Entry.relocated (e : Entry) (w x : Wg) : Entry :=
  { e with moved := 0, body := match e.body with
      | .mem k true ps => .mem k true (ps.map fun p => p.moved w x)
      | .arrive cl b wait => .arrive (if cl = clusterOf w.core then clusterOf x.core else cl) (movedBar w x b) wait
      | b => b }

/-- A parked slot resumes parked: on the barrier of the work-group's new place, on the ring or channel of its number in the new cluster,
which the spec leaves open (R282); the hang clock of every slot starts again (R123). (DESIGN CHOICE, log 117) -/
def Slot.moved (y : Slot) (w x : Wg) : Slot :=
  let f (p : Park) : Park :=
    { p with why := match p.why with | .barrier b => .barrier (movedBar w x b) | o => o }
  { y with park := y.park.map f, hang := 0 }

/-- A saved group on its new core. (DEDUCED, log 51) -/
def Group.moved (g : Group) (w x : Wg) : Group :=
  { g with a := g.a.moved w x, b := g.b.moved w x, queue := g.queue.map fun e => e.relocated w x }

/-- The loads of the table pairs that a group holds are reissued (R95). None: one waits for its page. Where the reissued load faults,
or its image no longer passes the checks, the group loses the pair's VALID bit and no cause is raised. (DESIGN CHOICE, log 101) -/
def State.reloadPairs (s : State) (g ctx : Nat) : Option State :=
  let x := s.grp g
  let held := x.tmld.filter fun p => x.regs.tfn.getLsbD p.1
  let lost (s : State) (k : Nat) : State := s.modGrp g fun y => y.unload k
  held.foldl (fun (o : Option State) p =>
    match o with
    | none => none
    | some s =>
      match s.homeRead ctx p.2.toNat 2056 with
      | .wait => none
      | .bad _ => some (lost (s.afterRead ctx p.2.toNat 2056) p.1)
      | .ok bs =>
        match pairIn bs with
        | some ws => some ((s.afterRead ctx p.2.toNat 2056).loadPair g p.1 p.2.toNat ws)
        | none => some (lost (s.afterRead ctx p.2.toNat 2056) p.1)) (some s)

/-- The rows of a saved work-group are free on a core (R223). -/
def Core.rowsFree (c : Core) (i : Image) : Bool := i.rows.all fun r => (tget c.rows r.1).isNone

/-- The claims and contents of the saved rows. -/
def Core.loadRows (c : Core) (i : Image) : Core :=
  { c with rows := i.rows.foldl (fun t r => tset t r.1 i.no) c.rows
           acc := i.rows.foldl (fun t r => tset t r.1 r.2) c.acc }

/-- A saved work-group is reloaded on a core (R282). None where it does not fit, or waits for a table image's page. (DEDUCED, log 51) -/
def State.restore (s : State) (core : Nat) (r : PRec) (p : Placement) : Option State :=
  match tget (s.ctx r.ctx).images r.save.toNat with
  | none => none
  | some i =>
    let w := i.wg
    let key (g : Group) : Nat := 32 * core + p.slots.getD g.idx 0
    let x : Wg := { w with
      core := core, slots := p.slots, spb := p.spb, bb := p.bb, prio := r.prio, groups := i.groups.map key, saving := false, faulted := false }
    let res := i.groups.flatMap Group.reserves
    let room := (List.range 4).all fun lv =>
      decide (((s.core core).deque lv).length + tgetD (s.core core).reserved lv 0 + (res.filter fun k => k == lv).length ≤ dequeMax)
    if !s.coreFree core w.hdr p || !(s.core core).rowsFree i || !room then none
    else
      let s := ((s.roused core).acquire core r.ctx).setWg i.no x
      let s := s.setSpad core p.spb i.spad none
      let s := i.bars.zipIdx.foldl (fun s b => s.setBar (clusterOf core) (p.bb + b.2) b.1) s
      let s := i.groups.foldl (fun s g => s.setGrp (key g) (g.moved w x)) s
      let s := s.modCore core fun c => res.foldl Core.reserve (c.loadRows i)
      let s := s.modCore core fun c => { c with sliced := c.sliced.filter fun k => k == r.ctx }
      let c := s.ctx r.ctx
      let s := s.setCtx r.ctx { c with images := tdel c.images r.save.toNat }
      x.groups.foldl (fun (o : Option State) g => o.bind fun s => s.reloadPairs g r.ctx) (some s)

/-! ## PANTRY_TAKE and STEAL_ANSWER (R272, R273, R347) -/

/-- PANTRY_TAKE (R272): the record a core takes is checked, split and started, or restored. -/
def execPantryTake (core : Nat) (place : Placement) (s : State) : Host.Outcome State Fault Refusal :=
  .next (match s.candidate core with
    | none => s
    | some (lv, i) =>
      let c := s.core core
      let r := (c.deque lv).getD i {}
      let without (s : State) : State := s.modCore core fun c => c.takeAt lv i r.wcnt
      if r.kind = 1 then ((without s).restore core r place).getD s
      else
        match s.vet r with
        | .wait => s
        | .bad k info => (without s).dropRecord r k info
        | .ok h e =>
          if s.fits core r.ctx h place then (s.takeRange core core lv i (r.share (c.room lv)) r h e place).getD s else s)

/-- STEAL_ANSWER (R273): the victim gives the lower half of a tail record, or one work-group where the thief's deque is full (R272), or
no work; a thief with no room for the first work-group pushes the range on its own deque. A core whose island has stopped since takes
nothing (R273, R296). (DEDUCED, log 48) -/
def execStealAnswer (core : Nat) (place : Placement) (s : State) : Host.Outcome State Fault Refusal :=
  .next (match (s.core core).stealReq with
    | none => s
    | some v =>
      let done (s : State) : State := s.modCore core fun c => { c with stealReq := none }
      if !s.clocked core then done s
      else
      match s.stealable v core with
      | none => s.modCore core fun c => { c with stealReq := none, stealWait := true }
      | some (lv, r) =>
        let i := ((s.core v).deque lv).length - 1
        let room := (s.core core).room lv
        let n := r.share room
        let without (s : State) (n : Nat) : State := s.modCore v fun c => c.takeAt lv i n
        if r.kind = 1 then
          let t := done (without s 1)
          (t.restore core r place).getD (if room then t.pushHead core lv r else s)
        else
          match s.vet r with
          | .wait => s
          | .bad k info => (without s r.wcnt).dropRecord r k info
          | .ok h e =>
            let kept := if room then (done (without (s.vetted r) n)).pushHead core lv (r.lower n) else s
            if s.fits core r.ctx h place then ((done s).takeRange core v lv i n r h e place).getD kept else kept)

/-! ## Pre-emption (R283) -/

/-- Changes a context that exists. -/
def State.modCtx (s : State) (ctx : Nat) (f : Ctx → Ctx) : State :=
  match tget s.ctxs ctx with
  | some c => s.setCtx ctx (f c)
  | none => s

/-- PREEMPT_DRAIN_REQUEST (R283). -/
def State.drain (s : State) (ctx : Nat) : State :=
  (s.modCtx ctx fun c => if c.st == CtxSt.run then { c with st := .drain, deadline := true } else c).stopIdle ctx

def execPreemptDrainRequest (ctx : Nat) (s : State) : Host.Outcome State Fault Refusal :=
  .next (if s.served then s.drain ctx else s)

/-- Every resident work-group of a context is to be saved, but for those that can only be drained. -/
def State.askSaves (s : State) (ctx : Nat) : State :=
  { s with wgs := s.wgs.map fun w => if w.2.ctx = ctx ∧ !s.engaged w.1 then (w.1, { w.2 with saving := true, faulted := false }) else w }

/-- PREEMPT_SAVE_REQUEST (R283), also made by eviction (R298). -/
def State.saveCtx (s : State) (ctx : Nat) : State :=
  let c := s.ctx ctx
  if (tget s.ctxs ctx).isSome && (c.st == CtxSt.run || c.st == CtxSt.drain) then
    ((s.setCtx ctx { c with st := .save, deadline := true }).askSaves ctx).stopIdle ctx
  else s

def execPreemptSaveRequest (ctx : Nat) (s : State) : Host.Outcome State Fault Refusal :=
  .next (if s.served then s.saveCtx ctx else s)

/-- PREEMPT_RESUME_REQUEST (R283). -/
def State.resume (s : State) (ctx : Nat) : State :=
  s.modCtx ctx fun c => if c.st == CtxSt.stopped then { c with st := .run, cfgDue := true } else c

def execPreemptResumeRequest (ctx : Nat) (s : State) : Host.Outcome State Fault Refusal :=
  .next (if s.served then s.resume ctx else s)

/-! ## Forced reset (R284) -/

/-- A work-group ends at once, with no write-back. (DEDUCED, log 52) -/
def State.cutWg (s : State) (no : Nat) : State :=
  let w := s.wg no
  let s := (s.endWg no).modCore w.core fun c =>
    { (w.groups.foldl (fun c g => (s.grp g).reserves.foldl Core.unreserve c) c) with
      mq := c.mq.filter fun o => !w.groups.contains o.grp
      l1 := c.l1.filter fun l => l.ctx != w.ctx }
  let s := s.noInstall w.core w.ctx fun _ => true
  s.freeWg no

/-- A context's records leave every pantry. (DEDUCED, log 52) -/
def Core.dropCtx (c : Core) (ctx : Nat) : Core :=
  { c with pantry := c.pantry.map fun q => (q.1, q.2.filter fun r => r.ctx != ctx)
           sliced := c.sliced.filter fun k => k != ctx }

/-- DONE moves to TAIL at a forced reset; LQCFG's vector is sent if it moves (R284, R289). -/
def State.endLaunches (s : State) (ctx : Nat) : State :=
  let c := s.ctx ctx
  if (tget s.ctxs ctx).isNone || c.done == c.tail then s
  else (s.setCtx ctx { c with done := c.tail }).msix (vectorOf (match c.lqUse with | some q => q.2 | none => c.lqcfg))

/-- A context is reset by force (R284). (DEDUCED, log 52) -/
def State.forceReset (s : State) (ctx : Nat) : State :=
  let ws := s.wgs.filter fun w => w.2.ctx == ctx
  let s := ws.foldl (fun s w => s.cutWg w.1) s
  let s := { s with cores := s.cores.map fun (c : Nat × Core) => (c.1, c.2.dropCtx ctx) }
  let s := (s.endLaunches ctx).modCtx ctx fun c => { c with
    head := c.tail, launches := [], armed := [], held := [], images := [], colls := [], st := .killed, deadline := false }
  s.ctxEvent ctx Code.CTXKILL 0

/-- PREEMPT_DEADLINE_EXPIRY (R284): DLINE has passed before STOPPED. (DEDUCED, log 52; DESIGN CHOICE, log 91) -/
def execPreemptDeadlineExpiry (ctx : Nat) (s : State) : Host.Outcome State Fault Refusal :=
  let c := s.ctx ctx
  .next (if (c.st == CtxSt.drain || c.st == CtxSt.save) && c.deadline then s.forceReset ctx else s)

end Sys2Proof.Machine
end

