-- ==== Sys2Proof/Machine/Fabric.lean ====
section
/-! DEFINITION. The fabric (spec/17, 19): replies and drops at the source (R310-R314), planes and link keys (R301, R302), the
security alarm (R295), request packets at this package as their target (R305, R309, R311, R312), and the mixers of the
switch (R326-R330). -/

namespace Sys2Proof.Machine

open Sys2Proof.Fp

/-! ## Replies at the source (R314) -/

/-- A packet is no longer outstanding; its units return to the devices that were charged. -/
def State.settlePkt (s : State) (k : Nat) (o : OutPkt) : State := ({ s with pkts := dropAt s.pkts k }).uncharge o.devs o.units

/-- CAP after a reply: a marked one lowers it by an eighth, 64 unmarked ones raise it by 16. -/
def Allow.replied (a : Allow) (mark : Bool) : Allow :=
  if mark then { a with cap := max 16 (a.cap - (a.cap + 7) / 8) }
  else if a.unmarked = 63 then { a with cap := min 4096 (a.cap + 16), unmarked := 0 }
  else { a with unmarked := a.unmarked + 1 }

/-- CAP of every device of a packet after its reply. -/
def State.replied (s : State) (devs : List Nat) (mark : Bool) : State :=
  devs.foldl (fun s d => { s with allow := tset s.allow d ((tgetD s.allow d {}).replied mark) }) s

/-- The head card of a channel is the packet's card. -/
def State.cardOf (s : State) (o : OutPkt) : Option Card :=
  match (s.chan o.cl o.ch).queue with
  | c :: _ => if c.id == o.pkt.card && c.admitted then some c else none
  | [] => none

/-- The packet's card completes with a cause (R310): its unsent units return and the channel halts. -/
def State.failCard (s : State) (o : OutPkt) (k : Cause) (gone : List Nat) : State :=
  match s.cardOf o with
  | none => s
  | some c => ((s.unspent c).modChan o.cl o.ch fun x => x.setHead { c with gone := gone }).haltHead o.cl o.ch k

/-- Capacity of a landing zone and bytes of a row (R308, R311). -/
def Card.zoneRows (c : Card) : Nat := fld (c.w 6) 16 16
def Card.rowBytes64 (c : Card) : Nat := 64 * fld (c.w 6) 0 16

/-- The landing card once its row is known: its data packets go to the row. (DEDUCED, log 64; DEDUCED, log 68) -/
def Card.landed (c : Card) (row : Nat) : Card :=
  let o := 64 + row * c.rowBytes64
  let c := { c with land := 2, pa := c.pa + o, ra := c.ra + o }
  { c with toSend := c.packets, npkts := c.packets.length }

/-- What a performed packet brings its card. -/
def Card.took (c : Card) (p : Packet) (r : Reply) : Card :=
  let off := p.addr - c.pa
  match p.kind with
  | .read => { c with got := c.got ++ [(off, r.data.take p.len)] }
  | .atom _ => { c with got := c.got ++ [(16, leBytes 8 (leNat (r.data.take 8)))] }
  | .mcrRead op =>
    let e := (off + mixRead op.toNat - 1) / mixRead op.toNat
    { c with got := c.got ++ [(e * mixResult op.toNat, r.data)], flags := c.flags ||| r.flags }
  | .tcOnly _ => { c with acked := c.acked ++ [(0, 0)] }
  | .land => c
  | _ => { c with acked := c.acked ++ [(off, p.len)] }

/-- The card goes on after a reply. An XMLR with a failed element completes with its cause once every packet has its reply (R330). -/
def State.replyIn (s : State) (o : OutPkt) (c : Card) : State :=
  if c.kind = .xmlr ∧ c.cause ≠ 0 ∧ c.allIn = true then (s.modChan o.cl o.ch fun x => x.setHead c).failCard o c.cause []
  else (s.moveWp o.cl o.ch c).sendMore o.cl o.ch

/-- An element of a block has failed, TDOM before TOVF (R330). -/
def Card.failedPart (c : Card) (p : Packet) (k : Cause) : Card :=
  { c with acked := c.acked ++ [(p.addr - c.pa, p.len)], cause := if c.cause = Code.TDOM then c.cause else k }

/-- A performed packet's reply reaches its card. -/
def State.tookReply (s : State) (o : OutPkt) (c : Card) (r : Reply) : State :=
  if o.pkt.kind = .land then
    if leNat (r.data.take 4) < c.zoneRows then
      (s.modChan o.cl o.ch fun x => x.setHead (c.landed (leNat (r.data.take 4)))).sendMore o.cl o.ch
    else (s.uncharge c.devs c.charged).complete o.cl o.ch Code.XFULL
  else s.replyIn o (c.took o.pkt r)

/-- A reply to packet `k` reaches the source, in a frame of the packet's plane. -/
def State.reply (s : State) (k : Nat) (r : Reply) : State :=
  match s.pkts[k]? with
  | none => s
  | some o =>
    match (if o.dropped then none else s.takeFrame o.plane) with
    | none => s
    | some s =>
      let s := (s.settlePkt k o).replied o.devs r.mark
      match r.st with
      | .ok => match s.cardOf o with
        | some c => s.tookReply o c r
        | none => s
      | .denied => s.failCard o Code.PEERDENY []
      | .xseq => s.failCard o Code.XSEQ []
      | .poison => s.failCard o Code.XPOISON []
      | .absent => s.failCard o Code.PEERABS r.gone
      | .failed k => match s.cardOf o with
        | some c => s.replyIn o (c.failedPart o.pkt k)
        | none => s

/-- REPLY_ARRIVE (R314). -/
def execReplyArrive (k : Nat) (r : Reply) (s : State) : Host.Outcome State Fault Refusal := .next (s.reply k r)

/-- SWITCH_ROUTE_REFUSAL (R305): the plane's switch holds no route to the device, for no package of the domain holds its identifier, or the
one that held it has failed and no standby has taken it yet. -/
def execSwitchRouteRefusal (k : Nat) (s : State) : Host.Outcome State Fault Refusal :=
  .next (match s.pkts[k]? with
    | some o =>
      if o.pkt.dst < 576 && (!s.routes.contains o.pkt.dst || s.unrouted.contains o.pkt.dst) then
        s.reply k { st := .denied, data := [], mark := false, flags := 0, gone := [] }
      else s
    | none => s)

/-! ## Drops (R313) -/

/-- Changes an outstanding packet. -/
def State.modPkt (s : State) (k : Nat) (f : OutPkt → OutPkt) : State :=
  match s.pkts[k]? with
  | some o => { s with pkts := setAt s.pkts k (f o) }
  | none => s

/-- Key of the sequence numbers of a packet: its source, its target, which is this device or a group, and the context (R312). -/
def seqKey (p : Packet) : Nat := 65536 * (p.src + (if p.dst < 576 then 0 else 1024 * (p.dst - 575))) + p.tctx

/-- How a target takes a packet by its sequence number (R312): it is to be performed, `d` above NEXT; it has been performed; it is too far
ahead. -/
inductive SeqTurn where
  | fresh (d : Nat)
  | again
  | far
  deriving DecidableEq, Repr

def State.seqTurn (s : State) (p : Packet) : SeqTurn :=
  let x := tgetD s.recvSeq (seqKey p) {}
  let d := (p.seq - x.next).toNat
  if 2147483648 ≤ d ∨ d < 256 ∧ x.map.getLsbD d = true then .again else if 256 ≤ d then .far else .fresh d

/-- SWITCH_QUEUE_TIMEOUT (R313): a switch drops the packet, which has not been performed. (DESIGN CHOICE, log 91) -/
def execSwitchQueueTimeout (k : Nat) (s : State) : Host.Outcome State Fault Refusal :=
  .next (s.modPkt k fun o => { o with dropped := o.dropped || !(decide (576 ≤ o.pkt.dst) && s.seqTurn o.pkt == SeqTurn.again) })

/-- DROPS of a channel (R323). -/
def Channel.countDrop (x : Channel) : Channel := if x.drops = BitVec.allOnes 8 then x else { x with drops := x.drops + 1 }

/-- DROP_NOTICE_ARRIVE (R313), in a frame of the packet's plane: the eighth drop of a packet completes its card with XTMO. -/
def execDropNoticeArrive (k : Nat) (s : State) : Host.Outcome State Fault Refusal :=
  .next (match s.pkts[k]? with
    | none => s
    | some o =>
      match (if o.dropped && !o.noticed then s.takeFrame o.plane else none) with
      | none => s
      | some s =>
        let s := s.modChan o.cl o.ch Channel.countDrop
        if 7 ≤ o.drops then (s.settlePkt k o).failCard o Code.XTMO []
        else s.modPkt k fun o => { o with drops := o.drops + 1, noticed := true })

/-- Packet `k` is sent again on a plane; none while its link awaits a key. -/
def State.resend (s : State) (k plane : Nat) : Option State :=
  (s.pkts[k]?).bind fun o => (s.sendFrame plane (Config.packetFlits o.pkt)).map fun s =>
    s.modPkt k fun o => { o with dropped := false, noticed := false, plane := plane }

/-- DROP_RESEND_TIMER (R313): the packet is sent again with the same sequence number. (DESIGN CHOICE, log 91) -/
def execDropResendTimer (k : Nat) (s : State) : Host.Outcome State Fault Refusal :=
  .next (match s.pkts[k]? with
    | none => s
    | some o =>
      match s.planeFor o.ra with
      | some plane => if o.noticed then (s.resend k plane).getD s else s
      | none => s)

/-! ## Planes and links (R300-R302) -/

/-- The cards of the packets that `which` names complete with a cause; those packets are no longer outstanding. -/
def State.failPkts (s : State) (which : OutPkt → Bool) (k : Cause) : State :=
  let os := s.pkts.filter which
  let s := os.foldl (fun s o => s.uncharge o.devs o.units) { s with pkts := s.pkts.filter fun o => !which o }
  os.foldl (fun s o => s.failCard o k []) s

/-- A collective's cause skips its steps (R335). -/
def Coll.failed (x : Coll) (c : Cause) : Coll :=
  { x with cause := c, todo := [], buf := none, got := [], took := 0, posted := false, charged := 0, devs := [], left := [], parts := []
           fault := 0, phase := .closing }

/-- Every card that a sequencer has posted and that has packets to be performed completes with a cause; what it holds of the allowance is
given back (R301, R336). (DEDUCED, log 70) -/
def State.failColls (s : State) (k : Cause) : State :=
  let open_ (x : Coll) : Bool := x.posted && !x.left.isEmpty
  let s := (s.ctxs.flatMap fun c => c.2.colls.filter open_).foldl (fun s x => s.uncharge x.devs x.charged) s
  { s with ctxs := s.ctxs.map fun c =>
      (c.1, { c.2 with colls := c.2.colls.map fun x => if open_ x then x.failed k else x }) }

/-- A plane leaves the list of live planes: the packets outstanding on it are sent again on a live one, as soon as its link may carry
them, and with no plane left every card with a packet outstanding times out, those of a sequencer among them (R301). -/
def State.losePlane (s : State) (plane : Nat) : State :=
  let s := { s with planes := s.planes.filter fun x => x != plane }
  if s.planes.isEmpty then (s.failPkts (fun _ => true) Code.XTMO).failColls Code.XTMO
  else
    (List.range s.pkts.length).foldl (fun s k =>
      match s.pkts[k]? with
      | some o =>
        if o.plane = plane then
          (s.resend k ((s.planeFor o.ra).getD plane)).getD (s.modPkt k fun o => { o with dropped := true, noticed := true })
        else s
      | none => s) s

/-- PLANE_LOSS (R301). -/
def execPlaneLoss (plane : Nat) (s : State) : Host.Outcome State Fault Refusal :=
  .next ((s.setLink plane { s.link plane with keyed := false }).losePlane plane)

/-- An ascending list with one more element. -/
def insertAsc (x : Nat) : List Nat → List Nat
  | [] => [x]
  | y :: r => if x < y then x :: y :: r else if x = y then y :: r else y :: insertAsc x r

/-- PLANE_RETURN (R301): once its link has trained again. -/
def execPlaneReturn (plane : Nat) (s : State) : Host.Outcome State Fault Refusal :=
  .next (if plane < 36 ∧ (s.link plane).keyed = true ∧ s.alarm = false then { s with planes := insertAsc plane s.planes }
    else s)

/-! ## The security alarm (R295) -/

/-- A record of a cause for every context. (DEDUCED, log 24) -/
def State.toAll (s : State) (k : Cause) (info : Word) : State :=
  s.ctxs.foldl (fun s c => s.ctxEvent c.1 k info) s

/-- The cards in flight complete with XCRYPT: those with packets outstanding, and those that have still to send. (DEDUCED, log 85) -/
def State.cutCards (s : State) : State :=
  let s := s.failPkts (fun _ => true) Code.XCRYPT
  s.clusters.foldl (fun s cl => cl.2.chans.foldl (fun s ch =>
    match s.headCard cl.1 ch.1 with
    | some c => if c.kind.remote && c.admitted && !c.toSend.isEmpty then (s.unspent c).haltHead cl.1 ch.1 Code.XCRYPT else s
    | none => s) s) s

/-- The step of an eviction that an alarm or the time limit fails (R298). -/
def EvictSt.step : EvictSt → Nat
  | .prepare => 1
  | .copy => 2
  | .drain => 3
  | .release => 4
  | _ => 0

/-- The security alarm (R295): the key store is zeroised, PUF re-derivation refused, SECALM posted to every context, the
fabric cut; with memory encryption every context is reset by force. An alarm during boot halts it, one during an eviction
ends the handshake. (DEDUCED, log 85) -/
def State.raiseAlarm (s : State) : State :=
  let s := { s with
    alarm := true, pufRefused := true, secrets := false, bootHalted := s.bootHalted || decide (s.boot < 5)
    links := s.links.map fun (l : Nat × Link) => (l.1, { l.2 with key := 0, keyed := false }),
    evict := if 1 ≤ s.evict.step ∧ s.evict.step ≤ 3 then .failed s.evict.step else s.evict }
  let s := (s.toAll Code.SECALM 0).cutCards
  if s.memEncrypt then s.ctxs.foldl (fun s c => s.forceReset c.1) s else s

/-- LINK_KEY_EXCHANGE (R302): the two ends agree on a key; a failed authentication loses the plane and raises the alarm. -/
def execLinkKeyExchange (plane : Nat) (key : BitVec 256) (authOk : Bool) (s : State) :
    Host.Outcome State Fault Refusal :=
  .next (if 36 ≤ plane ∨ s.alarm = true then s
    else if authOk then s.setLink plane { key := key, keyed := true }
    else
      let s := s.setLink plane { s.link plane with keyed := false }
      ((s.failPkts (fun o => o.plane == plane) Code.XCRYPT).losePlane plane).raiseAlarm)

/-- LINK_REKEY (R302): a new key; the flit counts go on, so that none repeats under it. -/
def execLinkRekey (plane : Nat) (key : BitVec 256) (s : State) : Host.Outcome State Fault Refusal :=
  .next (if (s.link plane).keyed then
      let l := s.link plane
      s.setLink plane { l with key := key, sentAt := l.sent, receivedAt := l.received }
    else s)

/-- The nonce of the frame that a link receives next (R302). -/
def State.nonce (s : State) (plane : Nat) : BitVec 96 := s.nonceAt plane (s.link plane).received

/-- LINK_FRAME_RECEIVE (R302): a frame of 8 flits that carries the tag of its text under the key and the nonce is taken, and the packet, reply
or notice that it carries may be taken from it; one whose tag fails
is discarded and sent again at link level. None comes under a key that has carried all its flits. (DEDUCED, log 85) -/
def execLinkFrameReceive (plane : Nat) (f : Frame) (s : State) : Host.Outcome State Fault Refusal :=
  let l := s.link plane
  .next (if !l.keyed || decide (l.receivedAt + keyFlits < l.received + 8) then s
    else if f.tag = Config.gcmTag l.key (s.nonce plane) f.text then
      s.setLink plane { l with
        received := l.received + 8, bad := l.bad - 1, held := l.held + 1, text := Config.gcmText l.key (s.nonce plane) f.text }
    else s.setLink plane { l with bad := l.bad + 1 })

/-! ## Requests at this package as their target (R305, R309) -/

/-- Right that a packet needs: bit 1 R, bit 2 W, bit 3 A. -/
def pktRight (p : Packet) : Nat :=
  match p.kind with
  | .read => 1
  | .mcrRead _ => 1
  | .write => 2
  | .mcrWrite => 2
  | .land => 2
  | .red _ => 3
  | .atom _ => 3
  | .tcOnly n => if n.getLsbD 1 then 1 else if n.getLsbD 2 then 2 else 3

/-- A valid range of the source device holds every byte and grants the access (R305). -/
def State.inRanges (s : State) (p : Packet) : Bool :=
  (List.range 16).any fun i =>
    let e := tgetD s.ranges (16 * p.src + i) 0
    let base := 4096 * fld e.toNat 37 27
    let n := 4096 * fld e.toNat 10 27
    e.getLsbD 0 && e.getLsbD (pktRight p) && decide (base ≤ p.addr) && decide (p.addr + max 1 p.len ≤ base + n)

/-- A context takes part in fabric traffic. -/
def State.ctxLive (s : State) (ctx : Nat) : Bool :=
  match tget s.ctxs ctx with
  | some c => c.st != CtxSt.killed
  | none => false

/-- A page of a context that holds a PA is frozen (R242). (DESIGN CHOICE, log 34) -/
def State.paFrozen (s : State) (ctx pa : Nat) : Bool := (s.vasOf ctx pa).any fun a => s.frz ctx a

/-- An access at the memory-side cache of a context's line touches its pinned windows (R233). -/
def State.touchPa (s : State) (ctx pa : Nat) : State := (s.vasOf ctx pa).foldl (fun s a => s.touchPins ctx a) s

/-- Granules of `n` bytes at a PA. -/
def paGranules (pa n : Nat) : List Nat :=
  if n = 0 then [] else (List.range ((pa + n - 1) / 32 - pa / 32 + 1)).map fun i => pa / 32 + i

/-- Granules that `n` bytes at a PA cover whole. -/
def wholeGranules (pa n : Nat) : List Nat :=
  (paGranules pa n).filter fun g => decide (pa ≤ 32 * g) && decide (32 * g + 32 ≤ pa + n)

/-- What a packet does at the home: bytes to write and reply data; none where a granule is poisoned (R240, R241). -/
structure Done where
  writes : List (Nat × List Byte) := []
  data : List Byte := []

/-- Reductions of XRED by OP (R308). -/
def redOp (n : Nat) : AtOp :=
  match n with
  | 0 => .add | 1 => .min | 2 => .max | 3 => .and | 4 => .or | 5 => .xor | 6 => .fadd | _ => .add64

/-- Operations of XATOM by OP (R308). -/
def atomOp (n : Nat) : AtOp :=
  match n with
  | 0 => .add | 1 => .min | 2 => .max | 3 => .and | 4 => .or | 5 => .xor | 6 => .xchg | 7 => .cas
  | 8 => .add64 | 9 => .min64 | 10 => .max64 | _ => .cas64

/-- The words of bytes. -/
def wordsOf (bs : List Byte) : List Word := wordsFrom (bs.length / 4) bs

/-- XRED on a packet's elements. -/
def redBytes (o : AtOp) (mem data : List Byte) : List Byte :=
  (List.range (data.length / o.size)).flatMap fun i =>
    o.apply (part mem (i * o.size) o.size) (wordsOf (part data (i * o.size) o.size))

/-- What a request packet does to the bytes its home holds (R309). -/
def pktDone (p : Packet) (mem : Nat → Nat → List Byte) : Done :=
  match p.kind with
  | .write => { writes := [(p.addr, p.data)] }
  | .read => { data := mem p.addr p.len }
  | .red op => { writes := [(p.addr, redBytes (redOp op.toNat) (mem p.addr p.data.length) p.data)] }
  | .atom op =>
    let o := atomOp op.toNat
    let old := mem p.addr o.size
    let w := wordsOf p.data
    let ops := if o.size = 8 then w else [w.getD 0 0, w.getD 2 0]
    { writes := [(p.addr, o.apply old ops)], data := old }
  | .land =>
    let old := mem p.addr 4
    { writes := [(p.addr, leBytes 4 (leNat old + 1))], data := old }
  | _ => {}

/-- Bytes of the target's memory that a packet touches. -/
def pktSpan (p : Packet) : Nat :=
  match p.kind with
  | .atom op => (atomOp op.toNat).size
  | .land => 4
  | .write => p.data.length
  | .red _ => p.data.length
  | .read => p.len
  | _ => 0

/-- The packet writes. -/
def pktWrites (p : Packet) : Bool :=
  match p.kind with
  | .read => false
  | .tcOnly _ => false
  | .mcrRead _ => false
  | _ => true

def okReply (data : List Byte) : Reply := { st := .ok, data := data, mark := false, flags := 0, gone := [] }
/-- DEDUCED, log 66. -/
def badReply (st : ReplySt) : Reply := { st := st, data := [], mark := false, flags := 0, gone := [] }

/-- Bytes are written by PA: granules they cover whole are sound again, and every watch on a line they touch is hit (R151, R240). -/
def State.putPa (s : State) (w : Nat × List Byte) : State :=
  let whole (g : Nat) : Bool := (wholeGranules w.1 w.2.length).contains g
  let s := { s with mem := setCells s.mem w.1 w.2, poison := s.poison.filter fun g => !whole g
                    failed := s.failed.filter fun g => !whole g }
  ((paGranules w.1 w.2.length).map fun g => g / 4).eraseDups.foldl (fun s l => s.writtenPa (128 * l)) s

/-- A packet of a card with TC has been performed here: the card's last one adds 1 to the target counter (R309); a landing row's fetch-add
does not count (R311). (DEDUCED, log 67) -/
def State.countTc (s : State) (p : Packet) (ctx : Nat) : State :=
  match (if p.kind = .land then none else p.tc) with
  | none => s
  | some t =>
    let mine (x : TcCount) : Bool := x.src == p.src && x.card == p.card
    let seen := (((s.tcs.find? mine).map fun x => x.seen).getD 0) + 1
    let rest := s.tcs.filter fun x => !mine x
    if p.npkts ≤ seen then ({ s with tcs := rest }).addCounter ctx t 1
    else { s with tcs := { src := p.src, card := p.card, seen := seen } :: rest }

/-- The access of a request at the home: performed with its reply, refused, or waiting for a frozen page or for tokens. (DEDUCED, log 68) -/
def State.performPkt (s : State) (p : Packet) : Option (State × Reply) :=
  if !s.inRanges p || !s.ctxLive p.tctx then some (s, badReply .denied)
  else
    let whole := if p.kind = .write then wholeGranules p.addr (pktSpan p) else []
    let gs := (paGranules p.addr (pktSpan p)).filter fun g => !whole.contains g
    if (s.eccCheck gs).isSome then some (s.readEcc gs, badReply .poison)
    else if pktWrites p && s.paFrozen p.tctx p.addr then none
    else
      match s.takeTokens p.tctx 2 (4 + p.addr / 1024 % 256 / 32) (pktSpan p) with
      | none => none
      | some s =>
        let d := pktDone p fun a n => cells s.mem a n
        let s := if pktSpan p = 0 then s else s.touchPa p.tctx p.addr
        some ((d.writes.foldl State.putPa s).countTc p p.tctx, okReply d.data)

/-! ## Exactly once (R312) -/

/-- NEXT moves over the performed numbers. -/
def SeqSt.advance : Nat → SeqSt → SeqSt
  | 0, x => x
  | n + 1, x => if x.map.getLsbD 0 then SeqSt.advance n { next := x.next + 1, map := x.map >>> 1 } else x

/-- A number is performed. -/
def SeqSt.mark (x : SeqSt) (d : Nat) : SeqSt := SeqSt.advance 256 { x with map := x.map ||| (1#256 <<< d) }

/-- The reply cache keeps the last 256 of each source. (DEDUCED, log 66) -/
def keepReply (r : CachedReply) (l : List CachedReply) : List CachedReply :=
  let mine := (l.filter fun x => x.src == r.src).take 255
  r :: mine ++ l.filter fun x => x.src != r.src

/-- A reply leaves this package by the plane that the packet has come by; none while its link awaits a key. (DEDUCED, log 66) -/
def State.answer (s : State) (p : Packet) (r : Reply) : Option State :=
  (s.sendFrame p.plane (Config.replyFlits p r)).map fun s => { s with replies := (p.src, p.seq, r) :: s.replies }

/-- The reply to a packet that has been performed before. (DEDUCED, log 66) -/
def State.again (s : State) (p : Packet) : Reply :=
  if nonIdem p.kind then
    match s.rcache.find? fun x => x.src == p.src && x.tctx == p.tctx && x.seq == p.seq with
    | some x => okReply x.data
    | none => okReply []
  else if p.kind = .read then
    if (s.eccCheck (paGranules p.addr p.len)).isSome then badReply .poison else okReply (cells s.mem p.addr p.len)
  else okReply []

/-- A packet `d` above NEXT has been performed. -/
def State.numbered (s : State) (p : Packet) (d : Nat) : State :=
  { s with recvSeq := tset s.recvSeq (seqKey p) ((tgetD s.recvSeq (seqKey p) {}).mark d) }

/-- A request packet of another package reaches its home here; a packet that is refused has not been performed (R305). None: it waits.
(DEDUCED, log 66) -/
def State.arrivePkt (s : State) (p : Packet) : Option State :=
  match s.seqTurn p with
  | .again => s.answer p (s.again p)
  | .far => s.answer p (badReply .xseq)
  | .fresh d =>
    match s.performPkt p with
    | none => none
    | some (t, r) =>
      if r.st != ReplySt.ok then t.answer p r
      else
        let t := t.numbered p d
        let keep : CachedReply := { src := p.src, tctx := p.tctx, seq := p.seq, data := r.data }
        (if nonIdem p.kind then { t with rcache := keepReply keep t.rcache } else t).answer p r

/-- REQUEST_PACKET_ARRIVE (R302, R305, R312): a packet comes in a frame that has passed its tag; links carry nothing after the alarm
(R295). -/
def execRequestPacketArrive (p : Packet) (s : State) : Host.Outcome State Fault Refusal :=
  .next (if p.dst = s.chip ∧ s.alarm = false then ((s.takeFrame p.plane).bind fun s => s.arrivePkt p).getD s else s)

/-! ## The mixers (R326-R330) -/

/-- A partial in its stored form (R69), with its shape word. -/
def partialOf (bs : List Byte) : Partial × Word :=
  ({ s := wordAt bs 0, e := wordAt bs 1, n := wordAt bs 2 }, wordAt bs 3)

def partialBytes (p : Partial) (shape : Word) : List Byte :=
  leBytes 4 p.s.toNat ++ leBytes 4 p.e.toNat ++ leBytes 4 p.n.toNat ++ leBytes 4 shape.toNat

/-- One step of a floating accumulation. -/
def mixFloat (op : Nat) (acc c : Word) : Word × Word :=
  match op with
  | 2 => minMax false pickMin acc c
  | 3 => minMax false pickMax acc c
  | _ => add32 acc c

/-- A NaN result is the canonical one. -/
def canon32 (w : Word) : Word := if isNan32 w then nan32 else w

/-- Reduction of FP32 contributions in the order they are taken (R327). (DEDUCED, log 71) -/
def mixFloats (op : Nat) : List Word → Word × Word
  | [] => (0, 0)
  | c :: rest =>
    let r := rest.foldl (fun (a : Word × Word) c =>
      let x := mixFloat op a.1 c
      (x.1, a.2 ||| x.2)) (c, snan (fp32.unpack c.toNat))
    (canon32 r.1, r.2)

/-- Reduction of partials (R330): TDOM before TOVF. (DEDUCED, log 71) -/
def mixPartials (cs : List (Partial × Word)) : Except Cause (List Byte × Word) :=
  match cs with
  | [] => .ok ([], 0)
  | (p, shape) :: rest =>
    let mode := tmMode shape
    if cs.any fun c => c.2 != shape || !tmInputOk mode c.1 then .error Code.TDOM
    else
      let r := rest.foldl (fun (a : TmRes Partial) c =>
        match a with
        | .ok x fl => match tmMerge mode x c.1 with
          | .ok y g => .ok y (fl ||| g)
          | e => e
        | e => e) (.ok p 0)
      match r with
      | .ok x fl => .ok (partialBytes x shape, fl)
      | .tdom => .error Code.TDOM
      | _ => .error Code.TOVF

/-- One element of a reduction: the contributions' bytes in the order they are taken. -/
def mixElem (op : Nat) (cs : List (List Byte)) : Except Cause (List Byte × Word) :=
  match op with
  | 4 => .ok (leBytes 4 (cs.map leNat).sum, 0)
  | 5 => .ok (leBytes 8 (cs.map leNat).sum, 0)
  | 6 => mixPartials (cs.map partialOf)
  | 1 =>
    let r := mixFloats 1 (cs.map fun b => BitVec.ofNat 32 (leNat b * 65536))
    .ok (leBytes 4 r.1.toNat, r.2)
  | _ =>
    let r := mixFloats op (cs.map leWord)
    .ok (leBytes 4 r.1.toNat, r.2)

/-- The reduction of the elements that begin in a packet of `n` bytes, with the flags raised. The first `lead` bytes end an element that
began in the packet before. A mixer reduces each 256-byte block by itself (R328): the result of an element that crosses into the next block
is a free value. (DEDUCED, log 71; DESIGN CHOICE, log 116) -/
def mixBytes (op n lead free : Nat) (cs : List (List Byte)) : Except Cause (List Byte × Word) :=
  let k := mixRead op
  let rs := (List.range ((n - lead + k - 1) / k)).map fun i =>
    if lead + i * k + k ≤ n then mixElem op (cs.map fun b => part b (lead + i * k) k)
    else .ok ((List.range (mixResult op)).map fun j => Config.freeByte (free + j), 0)
  let isErr (c : Cause) (r : Except Cause (List Byte × Word)) : Bool := match r with | .error x => x == c | .ok _ => false
  if rs.any (isErr Code.TDOM) then .error Code.TDOM
  else if rs.any (isErr Code.TOVF) then .error Code.TOVF
  else
    let oks := rs.filterMap fun r => match r with | .ok x => some x | .error _ => none
    .ok (oks.flatMap fun x => x.1, oks.foldl (fun w x => w ||| x.2) 0)

/-! ## SWITCH_MCR_PACKET (R324-R326) -/

/-- How this package's aperture answers an access of `n` bytes at an offset. -/
inductive Apert where
  | ok (ctx va : Nat)
  | wait
  | refused (poisoned : Bool)
  | absent

/-- Granules that an access of `n` bytes to an aperture reads: a write need not read those that it covers whole (R240). -/
def State.aperGranules (s : State) (ctx va n pa : Nat) (write : Bool) : List Nat :=
  let whole := if write then wholeGranules pa n else []
  (s.granules ctx va n).filter fun g => !whole.contains g

/-- The checks of an access to this package's aperture (R326). -/
def State.aperture (s : State) (group o n : Nat) (write : Bool) : Apert :=
  let r := tgetD s.members group 0
  let ctx := memCtx r
  let va := memBase r + o
  if !memV r || !s.ctxLive ctx then .absent
  else if n = 0 then .ok ctx va
  else if !canonical va || !canonical (va + n - 1) || (s.window ctx va).isSome then .refused false
  else
    match s.leaf ctx va with
    | none => if s.hostMapped ctx va then .wait else .refused false
    | some e =>
      if !leafExport e || write && !leafW e then .refused false
      else if write && leafFrz e then .wait
      else
        if (s.eccCheck (s.aperGranules ctx va n (leafPa e va) write)).isSome then .refused true else .ok ctx va

/-- A contribution's bytes. -/
def State.contribution (s : State) (p : Packet) (c : Contrib) : Option (List Byte) :=
  match c with
  | .self => match s.aperture p.group p.addr p.len false with
    | .ok ctx va => some (s.homeBytes ctx va p.len)
    | _ => none
  | .data _ bs => some (bs.take p.len)
  | _ => none

/-- The device of a contribution. -/
def State.contribDev (s : State) (c : Contrib) : Nat :=
  match c with
  | .self => s.chip
  | .data d _ => d
  | .refused d _ => d
  | .absent d => d

/-- A member that is absent or refuses, this package's own aperture included. -/
def State.contribBad (s : State) (p : Packet) (c : Contrib) : Option Contrib :=
  match c with
  | .self => match s.aperture p.group p.addr p.len (p.kind == PktKind.mcrWrite) with
    | .ok _ _ => none
    | .wait => none
    | .refused b => some (.refused s.chip b)
    | .absent => some (.absent s.chip)
  | .data _ _ => none
  | c => some c

/-- Bytes at the start of a packet that end an element begun in the packet before: the card's elements lie one after another from its first
byte on. -/
def Card.lead (c : Card) (p : Packet) : Nat :=
  match p.kind with
  | .mcrRead op => (mixRead op.toNat - (p.addr - c.pa) % mixRead op.toNat) % mixRead op.toNat
  | _ => 0

/-- The reply of the switch to an MCR packet of this package (R326). (DEDUCED, log 67) -/
def State.mcrReply (s : State) (p : Packet) (lead : Nat) (order : List Contrib) : Reply :=
  let bad := order.filterMap fun c => s.contribBad p c
  let gone := bad.filterMap fun c => match c with | .absent d => some d | _ => none
  if !gone.isEmpty then { badReply .absent with gone := gone }
  else
    match bad with
    | .refused _ true :: _ => badReply .poison
    | _ :: _ => badReply .denied
    | [] =>
      match p.kind with
      | .mcrRead op =>
        match mixBytes op.toNat p.len lead s.free (order.filterMap fun c => s.contribution p c) with
        | .ok (bs, fl) => { okReply bs with flags := fl.setWidth 7 }
        | .error c => badReply (.failed c)
      | _ => okReply []

/-- What this package's aperture takes of an MCR packet, once: the bytes of an XMST, and the count of its card (R309, R312, R326). -/
def State.mcrSelf (s : State) (p : Packet) : State :=
  let write := p.kind == PktKind.mcrWrite
  match s.seqTurn p, s.aperture p.group p.addr p.len write with
  | .fresh d, .ok ctx va => ((if write then s.put ctx va (p.data.take p.len) none else s).countTc p ctx).numbered p d
  | _, _ => s

/-- The aperture is ready: it does not wait for firmware, for a thaw or for tokens; its access touches the pinned windows. (DEDUCED, log 67) -/
def State.mcrTokens (s : State) (p : Packet) : Option State :=
  match s.aperture p.group p.addr p.len (p.kind == PktKind.mcrWrite) with
  | .wait => none
  | .ok ctx va => (s.takeTokens ctx 2 (4 + chanOf va / 32) p.len).map fun s => if p.len = 0 then s else s.touchPins ctx va
  | _ => some s

/-- A poisoned refusal by this package's aperture has found the granules bad (R240). -/
def State.aperFound (s : State) (p : Packet) : State :=
  let r := tgetD s.members p.group 0
  let va := memBase r + p.addr
  match s.leaf (memCtx r) va with
  | some e => s.readEcc (s.aperGranules (memCtx r) va p.len (leafPa e va) (p.kind == PktKind.mcrWrite))
  | none => s

/-- `aperFound` where the aperture refuses as poisoned. -/
def State.foundIf (s : State) (p : Packet) : State :=
  match s.aperture p.group p.addr p.len (p.kind == PktKind.mcrWrite) with
  | .refused true => s.aperFound p
  | _ => s

/-- Every member contributes once. -/
def State.turnOk (s : State) (group : Nat) (order : List Contrib) : Bool :=
  let devs := order.map s.contribDev
  let all := mcrMembers (tgetD s.mcr group 0)
  devs.eraseDups == devs && all.all devs.contains && devs.all all.contains

/-- What the switch makes of a packet of this package: the reply, in the state after this package's aperture has taken its part. None: that
waits. A packet too far ahead of this package's NEXT is not performed (R312). -/
def State.mcrTurn (s : State) (p : Packet) (lead : Nat) (t : Turn) : Option (State × Reply) :=
  if s.seqTurn p = .far then some (s, { badReply .xseq with mark := t.mark })
  else (s.mcrTokens p).map fun s =>
    let r := { s.mcrReply p lead t.order with mark := t.mark }
    let lost := p.len == 0 && r.st != ReplySt.ok
    let s := if lost then s else (s.mcrSelf p).foundIf p
    ({ s with free := s.free + 16 }, r)

/-- SWITCH_MCR_PACKET on a packet of this package that has not been dropped: every member's contribution is taken once, in an order that is
not fixed (R328), and the reply goes to the channel. -/
def State.mcrOwn (s : State) (k : Nat) (t : Turn) : State :=
  match s.pkts[k]? with
  | none => s
  | some o =>
    if o.pkt.dst < 576 || o.dropped || t.lost || !s.turnOk o.pkt.group t.order || (s.takeFrame o.plane).isNone then s
    else
      match s.mcrTurn o.pkt (((s.cardOf o).map fun c => c.lead o.pkt).getD 0) t with
      | none => s
      | some (s, r) => s.reply k r

/-- SWITCH_MCR_PACKET on another member's packet: what this package's aperture answers; one that has been performed before is not performed
again (R312). None: it waits. -/
def State.mcrOther (s : State) (p : Packet) : Option State :=
  let write := p.kind == PktKind.mcrWrite
  match s.seqTurn p with
  | .far => s.answer p (badReply .xseq)
  | turn =>
    if turn = .again ∧ (write = true ∨ p.len = 0) then s.answer p (okReply [])
    else
      match s.mcrTokens p with
      | none => none
      | some s =>
        match s.aperture p.group p.addr p.len write with
        | .ok ctx va => (s.mcrSelf p).answer p (okReply (if write then [] else s.homeBytes ctx va p.len))
        | .refused b => (s.foundIf p).answer p (badReply (if b then .poison else .denied))
        | _ => s.answer p (badReply .absent)

/-- SWITCH_MCR_PACKET (R326); another member's packet comes in a frame, and links carry nothing after the alarm (R295, R302). (DEDUCED,
log 71) -/
def execSwitchMcrPacket (t : McrTurn) (s : State) : Host.Outcome State Fault Refusal :=
  .next (if s.alarm then s
    else
      match t with
      | .own k turn => s.mcrOwn k turn
      | .member p => ((s.takeFrame p.plane).bind fun s => s.mcrOther p).getD s)

end Sys2Proof.Machine
end

