-- ==== Sys2Proof/Machine/Collective.lean ====
section
/-! DEFINITION. Collectives (R331-R339): COLL, its checks and its place with the sequencer, the entry step, the opening
rendezvous, the card steps with the exit step, the closing rendezvous; ENGINE_LOST (R115). -/

namespace Sys2Proof.Machine

open Sys2Proof.Fp

/-! ## The parameter block (R331, R332) -/

/-- A parameter block as its bytes 0 to 55. -/
structure Block where
  soff : Nat
  doff : Nat
  xin : Nat
  xout : Nat
  count : Nat
  ctl : Nat
  grp : Nat
  compl : Word
  tshp : Word
  deriving DecidableEq, Repr

def blockOf (bs : List Byte) : Block :=
  { soff := (dwordAt bs 0).toNat, doff := (dwordAt bs 1).toNat, xin := (dwordAt bs 2).toNat, xout := (dwordAt bs 3).toNat
    count := (wordAt bs 8).toNat, ctl := (wordAt bs 9).toNat, grp := (wordAt bs 10).toNat, compl := wordAt bs 11
    tshp := wordAt bs 13 }

def Block.kind (b : Block) : Nat := fld b.ctl 0 4
def Block.op (b : Block) : Nat := fld b.ctl 4 4
def Block.alg (b : Block) : Nat := fld b.ctl 8 3
def Block.ent (b : Block) : Bool := fld b.ctl 11 1 == 1
def Block.xit (b : Block) : Bool := fld b.ctl 12 1 == 1
def Block.group (b : Block) : Nat := fld b.grp 0 8
def Block.root (b : Block) : Nat := fld b.grp 8 10
def Block.es (b : Block) : Nat := mixRead b.op
def Block.er (b : Block) : Nat := mixResult b.op

/-- Table mode of the shape word (R68). -/
def Block.tableMode (b : Block) : Bool := b.tshp.getLsbD 16

/-- The fields of a block that need no group entry are as R331, R332 and R334 ask. (DEDUCED, log 69) -/
def Block.fieldsOk (b : Block) : Bool :=
  let none_ := b.kind == 5 || b.kind == 6
  let tm := b.ent || b.xit
  let adr (on : Bool) (a : Nat) : Bool := if on then a % 4 == 0 && canonical a else a == 0
  decide (b.kind ≤ 6) && decide (b.op ≤ 6) && decide (b.alg ≤ 2) && fld b.ctl 13 19 == 0 && fld b.grp 18 14 == 0 &&
    decide (b.soff < 1099511627776) && decide (b.doff < 1099511627776) && (b.count == 0) == none_ &&
    (!tm || b.op == 6 && !b.tableMode) && adr b.ent b.xin && adr b.xit b.xout &&
    (if b.op = 6 then fld b.tshp.toNat 24 8 == 0 && fld b.tshp.toNat 17 3 == 0 && tmShapeOk b.tshp else b.tshp == 0) &&
    (b.kind == 1 || b.kind == 2 || b.root == 0) && b.soff % b.es == 0 && b.doff % b.es == 0

/-- The slice algorithm is used (R336). -/
def Block.slice (b : Block) (nm : Nat) : Bool :=
  b.kind == 0 && (b.alg == 1 || b.alg == 0 && decide (nm * 4096 ≤ b.count * b.es))

/-- Elements of a slice (R336). -/
def Block.share (b : Block) (nm : Nat) : Nat := (b.count + nm - 1) / max 1 nm

/-- Bytes of the result range (R336). -/
def Block.resultLen (b : Block) (nm : Nat) : Nat :=
  match b.kind with
  | 2 => b.count * b.es
  | 3 => nm * b.count * b.es
  | 4 => b.share nm * b.er
  | _ => b.count * b.er

/-- The ranges of a block lie in the aperture and are disjoint, and its root is a member. (DEDUCED, log 69) -/
def Block.rangesOk (b : Block) (e : BitVec 1024) : Bool :=
  let nm := (mcrMembers e).length
  let sn := b.count * b.es
  let dn := b.resultLen nm
  decide (b.soff + sn ≤ mcrLen e) && decide (b.doff + dn ≤ mcrLen e) && !overlap b.soff sn b.doff dn &&
    (!(b.kind == 1 || b.kind == 2) || mcrMember e b.root)

/-- The group is valid for a context: its entry, this package's membership and its member record (R325). -/
def State.groupFor (s : State) (ctx group : Nat) : Option (BitVec 1024) :=
  if s.mcrValid ctx group then some (tgetD s.mcr group 0) else none

/-- The OPS bits that a block needs (R334). (DEDUCED, log 69) -/
def Block.opsOk (b : Block) (e : BitVec 1024) : Bool :=
  let bit (k : Nat) : Bool := e.getLsbD (576 + k)
  (!(b.kind == 0 || b.kind == 1 || b.kind == 4) || bit b.op) &&
    (!(b.kind == 2 || b.kind == 3 || b.slice (mcrMembers e).length) || bit 7)

/-- Unfinished collectives of a context. -/
def Ctx.openColls (c : Ctx) : Nat :=
  (c.tickets.map fun t => (t.2 - tgetD c.collDone t.1 0).toNat).sum

/-- The checks of COLL in order; the completion word with its barrier resolved. (DEDUCED, log 69) -/
def State.collCheck (s : State) (g : Nat) (b : Block) : Except Cause Word :=
  let ctx := s.ctxOf g
  let e := tgetD s.mcr b.group 0
  if !b.fieldsOk || (decide (b.kind ≤ 4) && mcrV e && !b.rangesOk e) then .error Code.COLLPB
  else if b.kind != 6 && !((s.groupFor ctx b.group).any b.opsOk) then .error Code.COLLGRP
  else
    match s.bindDone (s.wg (s.grp g).wg) b.compl with
    | .error k => .error k
    | .ok w => if 16 ≤ (s.ctx ctx).openColls then .error Code.ENGQ else .ok w

/-- COLL (R334). -/
def execColl (d a : BitVec 7) (s : State) : Host.Outcome State Fault Refusal :=
  word (.coll d a) s fun c s =>
    let va := ((s.grp c.grp).sp c.slotB a.toNat).toNat
    match s.readAt c.grp va 56 128 with
    | .error k => s.raiseRead c 0x27 k
    | .ok bs =>
      let s := s.seenAt c.grp va 56
      let b := blockOf bs
      match s.collCheck c.grp b with
      | .error k => s.trapE c k
      | .ok w =>
        let ctx := s.ctxOf c.grp
        let x := s.ctx ctx
        let t := if b.kind = 6 then 0 else tgetD x.tickets b.group 0
        let s := if b.kind = 6 then s else s.setCtx ctx { x with tickets := tset x.tickets b.group (t + 1) }
        let (id, s) := s.fresh
        (s.postS c d.toNat t).enqueue c id 0x27 (.coll va bs w t (s.ttask c.grp c.slotB)) [] 0

/-! ## Status and completion (R333, R335) -/

/-- The bytes of a 576-bit mask. -/
def maskBytes (m : BitVec 576) : List Byte := leBytes 72 m.toNat

/-- STATUS and ABSENT are written, for tokens of class 1 (R340), then COMPL is signalled; none while the block's page is frozen (R242) or the
tokens have not been granted. (DEDUCED, log 70) -/
def State.collWrite (s : State) (ctx va cl : Nat) (cause : Cause) (flags : BitVec 7) (absent : BitVec 576) (compl : Word) :
    Option State :=
  let st := 2147483648 + cause.toNat * 16777216 + flags.toNat
  if s.frz ctx va then none
  else (s.takeTokens ctx 1 (resourceOf va ((s.leaf ctx va).any leafExport)) 76).map fun s =>
    ((s.put ctx (va + 48) (leBytes 4 st) none).put ctx (va + 56) (maskBytes absent) none).signal ctx cl compl.toNat .sys

/-- COLL leaves the issue queue: an absence query is answered, any other is handed to the sequencer (R334). None: it waits. -/
def State.leaveColl (s : State) (g : Nat) (e : Entry) (va : Nat) (blk : List Byte) (compl ticket ttask : Word) :
    Option State :=
  let ctx := s.ctxOf g
  let cl := clusterOf (coreOf g)
  let b := blockOf blk
  if b.kind = 6 then
    let x := tgetD (s.chan cl (b.group % 16)).absent ctx (0, 0)
    s.collWrite ctx va cl x.2 0 x.1 compl
  else
    let w := (s.grp g).wg
    let k : Coll :=
      { io := if dieOf (coreOf g) ≤ 1 then 0 else 1, group := b.group, ticket := ticket, va := va, blk := blk, cl := cl
        compl := compl, wg := w, widb := (s.wg w).base, ttask := ttask, pos := e.pos }
    some (s.modCtx ctx fun c => { c with colls := c.colls ++ [k] })

/-- Changes an open collective. -/
def State.modColl (s : State) (ctx k : Nat) (f : Coll → Coll) : State :=
  s.modCtx ctx fun c =>
    match c.colls[k]? with
    | some x => { c with colls := setAt c.colls k (f x) }
    | none => c

/-- An open collective as it stands now. -/
def State.setColl (s : State) (ctx k : Nat) (x : Coll) : State := s.modColl ctx k fun _ => x

/-- The collective is the next of its group in ticket order (R334). (DEDUCED, log 70) -/
def Ctx.turn (c : Ctx) (x : Coll) : Bool := x.ticket == tgetD c.collDone x.group 0

/-- Virtual address of aperture offset `o` of this package (R325). -/
def State.apertVa (s : State) (group o : Nat) : Nat := memBase (tgetD s.members group 0) + o

/-! ## Entry and exit steps (R337) -/

/-- The results of the elements of a step, TDOM before TOVF. -/
def stepAll {α : Type} (rs : List (TmRes α)) (bytes : α → List Byte) : Except Cause (List Byte × Word) :=
  if rs.any fun r => match r with | .tdom => true | _ => false then .error Code.TDOM
  else if rs.any fun r => match r with | .ok _ _ => false | _ => true then .error Code.TOVF
  else
    let oks := rs.filterMap fun r => match r with | .ok x fl => some (x, fl) | _ => none
    .ok (oks.flatMap fun x => bytes x.1, oks.foldl (fun w x => w ||| x.2) 0)

/-- How an entry or exit step goes: on with a further line or the computation, done, failed with a cause, or waiting. -/
inductive TmStep where
  | on (s : State) (x : Coll)
  | done (s : State) (x : Coll)
  | bad (s : State) (cause : Cause)
  | wait

/-- Reads `n` bytes line by line and computes; then writes the result line by line (R169): one that fails writes nothing. (DEDUCED, log 70) -/
def State.tmStep (s : State) (ctx : Nat) (x : Coll) (src n dst : Nat) (f : List Byte → Except Cause (List Byte × Word)) : TmStep :=
  let bad (t : State) (k : Cause) (va : Option Nat) : TmStep := if t.declines ctx k va then .bad t k else .wait
  match x.buf with
  | none =>
    if x.got.length < n then
      match s.engReadNext 1 ctx 0 false src n x.got.length with
      | .wait => .wait
      | .fault t k va => bad t k va
      | .ok s bs => .on s { x with got := x.got ++ bs }
    else
      match f x.got with
      | .error k => .bad s k
      | .ok out => .on s { x with got := [], buf := some out }
  | some out =>
    match s.engWriteNext 1 ctx 0 false dst out.1 x.took with
    | .wait => .wait
    | .fault t k va => bad t k va
    | .ok s _ =>
      let n := x.took + pieceAt dst out.1.length x.took
      if n < out.1.length then .on s { x with took := n }
      else .done s { x with took := 0, buf := none, flags := x.flags ||| out.2.setWidth 7 }

/-- COUNT inputs into partials. -/
def Block.enter (b : Block) (bs : List Byte) : Except Cause (List Byte × Word) :=
  stepAll ((List.range b.count).map fun i => tmEntry (tmMode b.tshp) (fun _ => none) (wordAt bs i))
    fun p => partialBytes p b.tshp

/-- COUNT partials into means. -/
def Block.leave (b : Block) (bs : List Byte) : Except Cause (List Byte × Word) :=
  stepAll ((List.range b.count).map fun i => tmExit (tmMode b.tshp) (fun _ => none) (partialOf (part bs (16 * i) 16)).1)
    fun w => leBytes 4 w.toNat

/-- COLL_ENTRY_STEP (R337): the entry step of the collective whose turn it is, its reads first. -/
def execCollEntryStep (ctx k : Nat) (s : State) : Host.Outcome State Fault Refusal :=
  .next (match (s.ctx ctx).colls[k]? with
    | none => s
    | some x =>
      let b := blockOf x.blk
      if x.phase != CollPhase.entry || !(s.ctx ctx).turn x then s
      else if !b.ent then s.modColl ctx k fun x => { x with phase := .opening }
      else
        match s.tmStep ctx x b.xin (4 * b.count) (s.apertVa x.group b.soff) b.enter with
        | .wait => s
        | .bad s c => s.setColl ctx k { x with phase := .opening, got := [], took := 0, buf := none, entryCause := c }
        | .on s x => s.setColl ctx k x
        | .done s x => s.setColl ctx k { x with phase := .opening })

/-! ## The rendezvous (R335) -/

/-- The steps of this member (R336). -/
def Block.steps (b : Block) (nm rank chip : Nat) : List (Bool × Nat × Nat × Nat) :=
  let q := b.share nm
  let lo := min (rank * q) b.count
  let n := min ((rank + 1) * q) b.count - lo
  let all := b.count * b.es
  let xs : List (Bool × Nat × Nat × Nat) :=
    match b.kind with
    | 0 =>
      if b.slice nm then
        [(false, b.soff + lo * b.es, b.doff + lo * b.er, n * b.es), (true, b.doff + lo * b.er, b.doff + lo * b.er, n * b.er)]
      else [(false, b.soff, b.doff, all)]
    | 1 => if chip = b.root then [(false, b.soff, b.doff, all)] else []
    | 2 => if chip = b.root then [(true, b.soff, b.doff, all)] else []
    | 3 => [(true, b.soff, b.doff + rank * all, all)]
    | 4 => [(false, b.soff + lo * b.es, b.doff, n * b.es)]
    | _ => []
  xs.filter fun x => x.2.2.2 != 0

/-- What follows when no step is left: the exit step, or the closing rendezvous. -/
def Coll.after (x : Coll) : Coll :=
  if !x.todo.isEmpty then { x with phase := .steps }
  else if (blockOf x.blk).xit && x.cause == 0 then { x with phase := .exit }
  else { x with phase := .closing }

/-- The mask of devices. -/
def devMask (ds : List Nat) : BitVec 576 := ds.foldl (fun m d => m ||| (1#576 <<< d)) 0

/-- The digest of a block (R335). -/
def Block.digest (b : Block) : CollDigest :=
  { kind := BitVec.ofNat 4 b.kind, op := BitVec.ofNat 4 b.op, alg := BitVec.ofNat 3 b.alg, count := BitVec.ofNat 32 b.count
    root := BitVec.ofNat 10 b.root, tshp := b.tshp }

def memberDev (m : MemberState) : Nat := match m with | .absent d => d | .arrived d _ _ => d

/-- The first entry fault, lowest device first. -/
def firstFault (chip : Nat) (own : Cause) (others : List MemberState) (members : List Nat) : Cause :=
  let of_ (d : Nat) : Cause :=
    if d = chip then own
    else (others.findSome? fun m => match m with | .arrived e _ c => if e = d then some c else none | .absent _ => none).getD 0
  ((members.map of_).find? fun c => c != 0).getD 0

/-- This package itself is present: its member record is valid and names a live context (R326). -/
def State.present (s : State) (group : Nat) : Bool :=
  let r := tgetD s.members group 0
  memV r && s.ctxLive (memCtx r)

/-- The opening rendezvous once every member has arrived or been found absent, this package included. -/
def Coll.opened (x : Coll) (chip : Nat) (present : Bool) (members : List Nat) (others : List MemberState) : Coll :=
  let b := blockOf x.blk
  let gone := (if present then [] else [chip]) ++ others.filterMap fun m => match m with | .absent d => some d | _ => none
  let differs := others.any fun m => match m with | .arrived _ d _ => d != b.digest | .absent _ => false
  let fault := firstFault chip x.entryCause others members
  if !gone.isEmpty then { x.failed Code.PEERABS with gone := x.gone ||| devMask gone }
  else if differs then x.failed Code.COLLPB
  else if fault ≠ 0 then x.failed fault
  else Coll.after { x with todo := b.steps members.length (members.findIdx fun d => d == chip) chip }

/-- OPENING_RENDEZVOUS (R335): `others` are the other members, each once; they meet at plane L[0], so it waits while no plane is live. After the
alarm it fails, as the cards would (R295). (DEDUCED, log 85) -/
def execOpeningRendezvous (ctx k : Nat) (others : List MemberState) (s : State) : Host.Outcome State Fault Refusal :=
  .next (match (s.ctx ctx).colls[k]? with
    | none => s
    | some x =>
      let members := mcrMembers (tgetD s.mcr x.group 0)
      let devs := others.map memberDev
      let expected := members.filter fun d => d != s.chip
      if x.phase == CollPhase.opening && s.alarm then s.modColl ctx k fun x => x.failed Code.XCRYPT
      else if x.phase != CollPhase.opening || s.planes.isEmpty || devs.eraseDups != devs || !(devs.all expected.contains) ||
          !(expected.all devs.contains) then s
      else s.modColl ctx k fun x => x.opened s.chip (s.present x.group) members others)

/-! ## Card steps (R336, R338) -/

/-- The packets of a step: pieces of its range that lie in one 256-byte block of the aperture, as (offset, length). -/
def stepPackets (a n : Nat) : List (Nat × Nat) :=
  (List.range ((a + n + 255) / 256 - a / 256)).filterMap fun i =>
    let lo := max a (256 * (a / 256 + i))
    let hi := min (a + n) (256 * (a / 256 + i + 1))
    if lo < hi then some (lo - a, hi - lo) else none

/-- One packet of a step as the switch sees it (R312). -/
def State.stepPacket (s : State) (ctx : Nat) (x : Coll) (write : Bool) (at_ n : Nat) (data : List Byte) (seq : Word) : Packet :=
  { src := s.chip, dst := 576 + x.group, tctx := ctx, seq := seq
    kind := if write then .mcrWrite else .mcrRead (BitVec.ofNat 4 (blockOf x.blk).op), addr := at_, len := n, data := data
    tc := none, card := 0, npkts := 0, group := x.group }

/-- Units of 256 bytes of a packet of a card, and of its packets that are left (R314). -/
def pieceUnits (p : Nat × Nat) : Nat := unitsTo (p.1 + p.2) - unitsTo p.1
def Coll.unitsLeft (x : Coll) : Nat := (x.left.map pieceUnits).sum

/-- A part in its place by offset. -/
def insertPart (p : Nat × List Byte) : List (Nat × List Byte) → List (Nat × List Byte)
  | [] => [p]
  | q :: r => if p.1 ≤ q.1 then p :: q :: r else q :: insertPart p r

/-- The cause that a reply brings; 0: none. -/
def replyCause (r : Reply) : Cause :=
  match r.st with
  | .ok => 0 | .denied => Code.PEERDENY | .xseq => Code.XSEQ | .poison => Code.XPOISON | .absent => Code.PEERABS
  | .failed c => c

/-- Order of a step's causes: absence before a refusal, a refusal before a failed element, TDOM before TOVF (R330); the first of each stays. -/
def causeRank (c : Cause) : Nat :=
  if c = Code.PEERABS then 4 else if c = Code.PEERDENY ∨ c = Code.XPOISON ∨ c = Code.XSEQ then 3 else if c = Code.TDOM then 2
  else if c = 0 then 0 else 1

/-- Packet `i` of the card has its reply: `p` is its place, `at_` where its result belongs. -/
def Coll.tookReply (x : Coll) (i at_ : Nat) (p : Nat × Nat) (r : Reply) : Coll :=
  { x with
    left := dropAt x.left i, charged := x.charged - pieceUnits p, flags := x.flags ||| r.flags, gone := x.gone ||| devMask r.gone
    parts := insertPart (at_, r.data) x.parts, fault := if causeRank x.fault < causeRank (replyCause r) then (replyCause r) else x.fault }

/-- The card is over: the next step, or the close where it failed (R335). -/
def Coll.stepped (x : Coll) : Coll :=
  if x.fault ≠ 0 then x.failed x.fault
  else Coll.after { x with
    todo := x.todo.tail, got := [], took := 0, buf := none, posted := false, charged := 0, devs := [], left := [], parts := [] }

/-- The card ends; what it holds of the allowance is given back. -/
def State.collEnd (s : State) (ctx k : Nat) (x : Coll) : State := (s.uncharge x.devs x.charged).setColl ctx k x.stepped

/-- The card fails with a cause. -/
def State.collFail (s : State) (ctx k : Nat) (x : Coll) (c : Cause) : State := s.collEnd ctx k { x with fault := c }

/-- A fault of an access of the card, once firmware has declined it; else `s` as it was. -/
def State.collFault (s t : State) (ctx k : Nat) (x : Coll) (c : Cause) (va : Option Nat) : State :=
  if t.declines ctx c va then t.collFail ctx k x c else s

/-- The exit step, which concerns this member alone. -/
def State.collExit (s : State) (ctx k : Nat) : State :=
  match (s.ctx ctx).colls[k]? with
  | none => s
  | some x =>
    let b := blockOf x.blk
    if x.phase != CollPhase.exit then s
    else
      match s.tmStep ctx x (s.apertVa x.group b.doff) (16 * b.count) b.xout b.leave with
      | .wait => s
      | .bad s c => s.setColl ctx k (x.failed c)
      | .on s x => s.setColl ctx k x
      | .done s x => s.setColl ctx k { x with phase := .closing }

/-- The first card is posted, as soon as the allowance covers its first units towards every member (R314, R336). -/
def State.collPost (s : State) (ctx k : Nat) (x : Coll) (at_ n : Nat) : State :=
  let devs := mcrMembers (tgetD s.mcr x.group 0)
  let u := min (unitsTo n) 64
  if s.coversAll devs u then
    (s.charge devs u).setColl ctx k { x with posted := true, charged := u, devs := devs, left := stepPackets at_ n }
  else s

/-- 16 further units for the card, if the allowance covers them (R314). -/
def State.collCharge (s : State) (ctx k : Nat) (x : Coll) : State :=
  let u := min 16 (x.unitsLeft - x.charged)
  if s.coversAll x.devs u then (s.charge x.devs u).setColl ctx k { x with charged := x.charged + u } else s

/-- An XMST reads the next line of its bytes (R169, R340). -/
def State.collRead (s : State) (ctx k : Nat) (x : Coll) (src n : Nat) : State :=
  match s.engReadNext 1 ctx 0 false (s.apertVa x.group src) n x.got.length with
  | .wait => s
  | .fault t c va => s.collFault t ctx k x c va
  | .ok t bs => t.setColl ctx k { x with got := x.got ++ bs }

/-- One packet of the card goes to the switch and its reply comes back, in frames of the plane that carries its chunk (R300, R302); the
switch may have dropped it eight times (R313). None: it waits for a plane, for a key, or at this package's aperture for a thaw, for firmware
or for tokens (R242, R340). (DEDUCED, log 70) -/
def State.collPacket (s : State) (ctx k : Nat) (x : Coll) (write : Bool) (at_ : Nat) (p : Nat × Nat) (t : Turn) : Option State :=
  let b := blockOf x.blk
  (s.planeFor (at_ + p.1)).bind fun plane =>
    let q := s.takeSeq (576 + x.group) ctx
    let pkt := s.stepPacket ctx x write (at_ + p.1) p.2 (if write then part x.got p.1 p.2 else []) q.1
    (q.2.sendFrame plane (Config.packetFlits pkt)).bind fun s =>
      if t.lost then (s.takeFrame plane).map fun s => s.collFail ctx k x Code.XTMO
      else (s.mcrTurn pkt 0 t).bind fun r => (r.1.takeFrame plane).map fun s =>
        (((s.uncharge x.devs (pieceUnits p)).replied x.devs r.2.mark)).setColl ctx k
          (x.tookReply t.at_ (if write then p.1 else p.1 / b.es * b.er) p r.2)

/-- The packets of the card, in any order (R300). With no turn a card that is refused, or a member of which is absent, ends with packets
left. -/
def State.collSend (s : State) (ctx k : Nat) (x : Coll) (write : Bool) (at_ : Nat) (turns : List Turn) : State :=
  match turns with
  | [] => if 3 ≤ causeRank x.fault then s.collEnd ctx k x else s
  | t :: _ =>
    match x.left[t.at_]? with
    | none => s
    | some p =>
      if x.charged < pieceUnits p then s.collCharge ctx k x
      else if s.turnOk x.group t.order then (s.collPacket ctx k x write at_ p t).getD s
      else s

/-- An XMLR writes the next line of its local destination, once every reply has arrived; one that any byte refuses writes nothing (R326,
R338). -/
def State.collLocal (s : State) (ctx k : Nat) (x : Coll) (dst : Nat) : State :=
  let bs := x.parts.flatMap fun p => p.2
  let a := s.apertVa x.group dst
  match (if x.took = 0 then s.rangeRefuses ctx 0 false a bs.length else none) with
  | some (c, va) => s.collFault s ctx k x c va
  | none =>
    match s.engWriteNext 1 ctx 0 false a bs x.took with
    | .wait => s
    | .fault t c va => s.collFault t ctx k x c va
    | .ok t _ =>
      let n := x.took + pieceAt a bs.length x.took
      if n < bs.length then t.setColl ctx k { x with took := n } else t.collEnd ctx k x

/-- The first card of a collective goes on (R336): it is posted, an XMST reads its bytes, its packets are performed, an XMLR writes what they
have brought; after the alarm it fails, as other cards do (R295). -/
def State.collCard (s : State) (ctx k : Nat) (x : Coll) (turns : List Turn) : State :=
  match x.todo with
  | [] => s
  | (write, src, dst, n) :: _ =>
    let at_ := if write then dst else src
    if s.alarm then s.collFail ctx k x Code.XCRYPT
    else if !x.posted then s.collPost ctx k x at_ n
    else if write && decide (x.got.length < n) then s.collRead ctx k x src n
    else if !x.left.isEmpty then s.collSend ctx k x write at_ turns
    else if write || x.fault != 0 then s.collEnd ctx k x
    else s.collLocal ctx k x dst

/-- COLL_CARD_STEP (R336): the next card of a collective, and the exit step once none is left; `turns` holds what the switch makes of the
packet that goes to it. -/
def execCollCardStep (ctx k : Nat) (turns : List Turn) (s : State) : Host.Outcome State Fault Refusal :=
  .next (match (s.ctx ctx).colls[k]? with
    | none => s
    | some x =>
      if x.phase == CollPhase.steps then (s.collCard ctx k x turns).collExit ctx k else s.collExit ctx k)

/-- CLOSING_RENDEZVOUS (R335): `gone` are members found absent since. It waits while the block's page is frozen (R242). -/
def execClosingRendezvous (ctx k : Nat) (gone : List Nat) (s : State) : Host.Outcome State Fault Refusal :=
  .next (match (s.ctx ctx).colls[k]? with
    | none => s
    | some x =>
      if x.phase != CollPhase.closing then s
      else
        let mine := (mcrMembers (tgetD s.mcr x.group 0)).filter gone.contains
        let t := s.modCtx ctx fun c => { c with
          colls := dropAt c.colls k, collDone := tset c.collDone x.group (tgetD c.collDone x.group 0 + 1) }
        (t.collWrite ctx x.va x.cl x.cause x.flags (x.gone ||| devMask mine) x.compl).getD s)

/-! ## ENGINE_LOST (R115) -/

/-- A work-group that depends on a lost engine ends (R104); the record names the word that posted to it. -/
def State.engineDead (s : State) (w : Nat) (widb pos : Dword) (ttask : Word) : State :=
  match tget s.wgs w with
  | none => s
  | some x =>
    if x.killed then s
    else (s.errRecord x.ctx (s.endKind x (groupOfTask ttask)) Code.ENGDEAD widb (pos.setWidth 32) ttask 0).endWg w

/-- ENGINE_LOST: what the engine held is gone, and the work-groups that had posted it end with ENGDEAD. (DEDUCED, log 70) -/
def execEngineLost (e : EngineRef) (s : State) : Host.Outcome State Fault Refusal :=
  .next (match e with
    | .matrix core =>
      let ops := (s.core core).mq
      let s := ops.foldl (fun s o =>
        let w := (s.grp o.grp).wg
        s.engineDead w (s.wg w).base o.pos (s.ttask o.grp o.slotB)) s
      (s.modCore core fun c => { c with mq := [] }).settleRows core
    | .copy cl =>
      let cards := (s.cluster cl).chans.flatMap fun x => x.2.queue
      let s := cards.foldl (fun s c => match c.wg with | some w => s.engineDead w c.widb c.pos c.ttask | none => s) s
      let x := s.cluster cl
      s.setCluster cl { x with chans := x.chans.map fun h => (h.1, { h.2 with queue := [], fired := [] }) }
    | .sequencer io =>
      let mine (x : Coll) : Bool := x.io == io
      let xs := s.ctxs.flatMap fun c => c.2.colls.filter mine
      let s := xs.foldl (fun s x => s.engineDead x.wg x.widb x.pos x.ttask) s
      { s with ctxs := s.ctxs.map fun c => (c.1, { c.2 with colls := c.2.colls.filter fun x => !mine x }) })

end Sys2Proof.Machine
end

