-- ==== Sys2Proof/Machine/Floating.lean ====
section
/-! DEFINITION. The floating-point families: FADD to FDIV and FMA (R86, R87), minimum, maximum, sign and class (R88),
FCMP (R89), FCVT (R62, R63), the special functions (R90), packed 16-bit pairs (R91). -/

namespace Sys2Proof.Machine

open Sys2Proof.Fp

/-- An FP32 operand as a value, under FTZ (R57). -/
def Group.f32 (g : Group) (n i : Nat) : FVal := fp32.read g.ftz (g.v n i).toNat

/-- A code with its flags as a register value. -/
def code32 (r : Nat × Word) : Word × Word := (BitVec.ofNat 32 r.1, r.2)

/-- Element `k` of a packed register (R91). -/
def half (w : Word) (k : Nat) : Nat := w.toNat / 65536 ^ k % 65536

/-- Both elements of a packed operation (R91). -/
def packed (f : Nat → Nat × Word) : Word × Word :=
  let a := f 0
  let b := f 1
  (BitVec.ofNat 32 (b.1 * 65536 + a.1), a.2 ||| b.2)

/-- A packed pair: each element rounded once under %mode.RM. -/
def packedOp (f : Fmt) (op : Fmt → Mode → Bool → FVal → FVal → FVal → Nat × Word) (d a b : BitVec 7) (c : Cursor)
    (s : State) : State :=
  let g := s.grp c.grp
  let x (n i k : Nat) : FVal := f.read g.ftz (half (g.v n i) k)
  s.floatV c d.toNat 2 .dyn fun m i =>
    packed fun k => op f (m k) g.ftz (x a.toNat i k) (x b.toNat i k) (x d.toNat i k)

/-- A lane function of one raw operand under FTZ that rounds by a rule of its own (R90). -/
def special (f : Bool → Word → Word × Word) (d a : BitVec 7) (c : Cursor) (s : State) : State :=
  let g := s.grp c.grp
  s.floatU c d.toNat fun i => f g.ftz (g.v a.toNat i)

/-- FMIN and its kin (R88). -/
def pickOp (pick : Word → Word → Word) (d a b : BitVec 7) (c : Cursor) (s : State) : State :=
  let g := s.grp c.grp
  s.floatU c d.toNat fun i => minMax g.ftz pick (g.v a.toNat i) (g.v b.toNat i)

/-- FABS, FNEG, FCPSGN and FCLASS: bits of the raw operands, no flag (R88). -/
def bitsOp (f : Word → Word → Word) (d a b : BitVec 7) (c : Cursor) (s : State) : State :=
  let g := s.grp c.grp
  s.postV c d.toNat (perLane fun i => f (g.v a.toNat i) (g.v b.toNat i))

/-- The narrow descriptors that a conversion uses are valid (R60, R62). -/
def cvtOk (g : Group) (t u : Nat) : Bool :=
  (u != 7 || nfValid (tgetD g.regs.nf 0 0)) && (decide (t < 9) || nfValid (tgetD g.regs.nf (t - 9) 0))

/-- FADD (R86). -/
def execFadd (d : BitVec 7) (a : BitVec 7) (b : BitVec 7) (r : Rm) (s : State) : Host.Outcome State Fault Refusal :=
  word (.fadd d a b r) s fun c s =>
    let g := s.grp c.grp
    s.floatV c d.toNat 1 r fun m i => code32 (fp32.add (m 0) g.ftz (g.f32 a.toNat i) (g.f32 b.toNat i))

/-- FSUB (R86). -/
def execFsub (d : BitVec 7) (a : BitVec 7) (b : BitVec 7) (r : Rm) (s : State) : Host.Outcome State Fault Refusal :=
  word (.fsub d a b r) s fun c s =>
    let g := s.grp c.grp
    s.floatV c d.toNat 1 r fun m i => code32 (fp32.add (m 0) g.ftz (g.f32 a.toNat i) (g.f32 b.toNat i).negate)

/-- FMUL (R86). -/
def execFmul (d : BitVec 7) (a : BitVec 7) (b : BitVec 7) (r : Rm) (s : State) : Host.Outcome State Fault Refusal :=
  word (.fmul d a b r) s fun c s =>
    let g := s.grp c.grp
    s.floatV c d.toNat 1 r fun m i => code32 (fp32.mul (m 0) g.ftz (g.f32 a.toNat i) (g.f32 b.toNat i))

/-- FMAC reads vD as its addend and rounds once (R86). -/
def execFmac (d : BitVec 7) (a : BitVec 7) (b : BitVec 7) (r : Rm) (s : State) : Host.Outcome State Fault Refusal :=
  word (.fmac d a b r) s fun c s =>
    let g := s.grp c.grp
    s.floatV c d.toNat 1 r fun m i => code32 (fp32.fma (m 0) g.ftz (g.f32 a.toNat i) (g.f32 b.toNat i) (g.f32 d.toNat i))

/-- FDIV (R86). -/
def execFdiv (d : BitVec 7) (a : BitVec 7) (b : BitVec 7) (r : Rm) (s : State) : Host.Outcome State Fault Refusal :=
  word (.fdiv d a b r) s fun c s =>
    let g := s.grp c.grp
    s.floatV c d.toNat 1 r fun m i => code32 (fp32.div (m 0) g.ftz (g.f32 a.toNat i) (g.f32 b.toNat i))

/-- FMA under %mode.RM (R87). -/
def execFma (d : BitVec 6) (a : BitVec 6) (b : BitVec 6) (e : BitVec 6) (s : State) : Host.Outcome State Fault Refusal :=
  word (.fma d a b e) s fun c s =>
    let g := s.grp c.grp
    s.floatV c d.toNat 1 .dyn fun m i => code32 (fp32.fma (m 0) g.ftz (g.f32 a.toNat i) (g.f32 b.toNat i) (g.f32 e.toNat i))

/-- FMIN (R88). -/
def execFmin (d : BitVec 7) (a : BitVec 7) (b : BitVec 7) (s : State) : Host.Outcome State Fault Refusal :=
  word (.fmin d a b) s (pickOp pickMin d a b)

/-- FMAX (R88). -/
def execFmax (d : BitVec 7) (a : BitVec 7) (b : BitVec 7) (s : State) : Host.Outcome State Fault Refusal :=
  word (.fmax d a b) s (pickOp pickMax d a b)

/-- FMINM (R88). -/
def execFminm (d : BitVec 7) (a : BitVec 7) (b : BitVec 7) (s : State) : Host.Outcome State Fault Refusal :=
  word (.fminm d a b) s (pickOp pickMinM d a b)

/-- FMAXM (R88). -/
def execFmaxm (d : BitVec 7) (a : BitVec 7) (b : BitVec 7) (s : State) : Host.Outcome State Fault Refusal :=
  word (.fmaxm d a b) s (pickOp pickMaxM d a b)

/-- FABS clears bit 31 (R88). -/
def execFabs (d : BitVec 7) (a : BitVec 7) (s : State) : Host.Outcome State Fault Refusal :=
  word (.fabs d a) s (bitsOp (fun x _ => x &&& 0x7FFFFFFF) d a a)

/-- FNEG inverts bit 31 (R88). -/
def execFneg (d : BitVec 7) (a : BitVec 7) (s : State) : Host.Outcome State Fault Refusal :=
  word (.fneg d a) s (bitsOp (fun x _ => x ^^^ 0x80000000) d a a)

/-- FCPSGN: vA with bit 31 of vB (R88). -/
def execFcpsgn (d : BitVec 7) (a : BitVec 7) (b : BitVec 7) (s : State) : Host.Outcome State Fault Refusal :=
  word (.fcpsgn d a b) s (bitsOp (fun x y => (x &&& 0x7FFFFFFF) ||| (y &&& 0x80000000)) d a b)

/-- FCLASS (R88). -/
def execFclass (d : BitVec 7) (a : BitVec 7) (s : State) : Host.Outcome State Fault Refusal :=
  word (.fclass d a) s (bitsOp (fun x _ => fclass x) d a a)

/-- FCMP writes the whole triple (R89). -/
def execFcmp (d : BitVec 7) (a : BitVec 7) (b : BitVec 7) (k : FCond) (s : State) : Host.Outcome State Fault Refusal :=
  word (.fcmp d a b k) s fun c s =>
    let g := s.grp c.grp
    let r (i : Nat) : Bool × Word := fcmp k g.ftz (g.v a.toNat i) (g.v b.toNat i)
    s.withFlags c (fun i => (r i).2) fun s => s.postQ c d.toNat (mask1 c.lanes fun i => (r i).1)

/-- FCVT (R62, R63): an invalid narrow descriptor raises ILLFMT. -/
def execFcvt (d : BitVec 7) (a : BitVec 7) (t : BitVec 4) (u : BitVec 3) (r : Rm) (s : State) : Host.Outcome State Fault Refusal :=
  word (.fcvt d a t u r) s fun c s =>
    let g := s.grp c.grp
    if cvtOk g t.toNat u.toNat then
      s.floatV c d.toNat 1 r fun m i =>
        cvtDst t.toNat g.ftz (fun k => tgetD g.regs.nf k 0) (m 0)
          (cvtSrc u.toNat g.ftz (tgetD g.regs.nf 0 0) (g.v a.toNat i))
    else s.raiseE c Code.ILLFMT c.lanes 0 0 []

/-- EX2 (R90). -/
def execEx2 (d : BitVec 7) (a : BitVec 7) (s : State) : Host.Outcome State Fault Refusal :=
  word (.ex2 d a) s (special ex2 d a)

/-- LG2 (R90). -/
def execLg2 (d : BitVec 7) (a : BitVec 7) (s : State) : Host.Outcome State Fault Refusal :=
  word (.lg2 d a) s (special lg2 d a)

/-- RCP (R90). -/
def execRcp (d : BitVec 7) (a : BitVec 7) (s : State) : Host.Outcome State Fault Refusal :=
  word (.rcp d a) s (special rcp d a)

/-- RSQ (R90). -/
def execRsq (d : BitVec 7) (a : BitVec 7) (s : State) : Host.Outcome State Fault Refusal :=
  word (.rsq d a) s (special rsq d a)

/-- SIN (R90). -/
def execSin (d : BitVec 7) (a : BitVec 7) (s : State) : Host.Outcome State Fault Refusal :=
  word (.sin d a) s (special sin d a)

/-- COS (R90). -/
def execCos (d : BitVec 7) (a : BitVec 7) (s : State) : Host.Outcome State Fault Refusal :=
  word (.cos d a) s (special cos d a)

/-- TANH (R90). -/
def execTanh (d : BitVec 7) (a : BitVec 7) (s : State) : Host.Outcome State Fault Refusal :=
  word (.tanh d a) s (special tanh d a)

/-- SQRT, correctly rounded under %mode.RM (R90). -/
def execSqrt (d : BitVec 7) (a : BitVec 7) (s : State) : Host.Outcome State Fault Refusal :=
  word (.sqrt d a) s fun c s =>
    let g := s.grp c.grp
    s.floatV c d.toNat 1 .dyn fun m i => sqrt32 (m 0) g.ftz (g.v a.toNat i)

/-- HADD2_BF16 (R91). -/
def execHadd2Bf16 (d : BitVec 7) (a : BitVec 7) (b : BitVec 7) (s : State) : Host.Outcome State Fault Refusal :=
  word (.hadd2Bf16 d a b) s (packedOp bf16 (fun f m z x y _ => f.add m z x y) d a b)

/-- HMUL2_BF16 (R91). -/
def execHmul2Bf16 (d : BitVec 7) (a : BitVec 7) (b : BitVec 7) (s : State) : Host.Outcome State Fault Refusal :=
  word (.hmul2Bf16 d a b) s (packedOp bf16 (fun f m z x y _ => f.mul m z x y) d a b)

/-- HMAC2_BF16 (R91). -/
def execHmac2Bf16 (d : BitVec 7) (a : BitVec 7) (b : BitVec 7) (s : State) : Host.Outcome State Fault Refusal :=
  word (.hmac2Bf16 d a b) s (packedOp bf16 (fun f m z x y w => f.fma m z x y w) d a b)

/-- HADD2_F16 (R91). -/
def execHadd2F16 (d : BitVec 7) (a : BitVec 7) (b : BitVec 7) (s : State) : Host.Outcome State Fault Refusal :=
  word (.hadd2F16 d a b) s (packedOp fp16 (fun f m z x y _ => f.add m z x y) d a b)

/-- HMUL2_F16 (R91). -/
def execHmul2F16 (d : BitVec 7) (a : BitVec 7) (b : BitVec 7) (s : State) : Host.Outcome State Fault Refusal :=
  word (.hmul2F16 d a b) s (packedOp fp16 (fun f m z x y _ => f.mul m z x y) d a b)

/-- HMAC2_F16 (R91). -/
def execHmac2F16 (d : BitVec 7) (a : BitVec 7) (b : BitVec 7) (s : State) : Host.Outcome State Fault Refusal :=
  word (.hmac2F16 d a b) s (packedOp fp16 (fun f m z x y w => f.fma m z x y w) d a b)

/-- HPACK moves bits only (R91). -/
def execHpack (d : BitVec 7) (a : BitVec 7) (b : BitVec 7) (s : State) : Host.Outcome State Fault Refusal :=
  word (.hpack d a b) s (bitsOp (fun x y => y <<< 16 ||| (x &&& 0xFFFF)) d a b)

end Sys2Proof.Machine
end

