-- ==== Sys2Proof/Machine/PageTables.lean ====
section
/-! DEFINITION. Page tables as firmware writes them, in all eight replicas (R227), the frames it hands out (R226, R291), and
page migration (R242). -/

namespace Sys2Proof.Machine

/-! ## Entries -/

/-- Entry `e` of the table at stack-local frame `F`, written in every stack (R227). -/
def State.setEntry (s : State) (F e v : Nat) : State :=
  { s with mem := (List.range 8).foldl (fun m t => setCells m (tablePa t F (8 * e)) (leBytes 8 v)) s.mem }

/-- Indices of a virtual address at the three levels (R227). -/
def index1 (va : Nat) : Nat := va / 17592186044416 % 8192
def index2 (va : Nat) : Nat := va / 2147483648 % 8192
def index3 (va : Nat) : Nat := va / 262144 % 8192

/-- The third-level table that serves an address. -/
def State.lastTable (s : State) (root va : Nat) : Option Nat :=
  (nextFrame (s.entryAt 0 root (index1 va))).bind fun f => nextFrame (s.entryAt 0 f (index2 va))

/-- Writes the leaf entry of an address whose tables exist. -/
def State.setLeaf (s : State) (ctx va v : Nat) : State :=
  match s.lastTable (s.ctx ctx).root va with
  | some f => s.setEntry f (index3 va) v
  | none => s

/-! ## Frames -/

/-- Frame numbers lie on 256 KiB of PA each: channel-local frame f is PA / 2^18 = f in all 256 channels (R226, R303). -/
def inFrames (fs : List Nat) (pa : Nat) : Bool := fs.contains (pa / 262144)

/-- Channel-local frames of stack-local frame `F` (R227). -/
def tableFrames (F : Nat) : List Nat := [2 * F, 2 * F + 1]

/-- Channel-local frames of a page: 64 for a large one (R226). -/
def pageFrames (large : Bool) (f : Nat) : List Nat := if large then (List.range 64).map fun i => f + i else [f]

/-- All bytes of some channel-local frames are zero and sound. -/
def State.zeroFrames (s : State) (fs : List Nat) : State :=
  { s with mem := s.mem.filter fun (c : Host.Cell) => !inFrames fs c.1
           poison := s.poison.filter fun g => !inFrames fs (32 * g)
           failed := s.failed.filter fun g => !inFrames fs (32 * g) }

/-- Distinct frames that exist and that nobody holds. (DEDUCED, log 78) -/
def State.framesFree (s : State) : List Nat → Bool
  | [] => true
  | f :: r => decide (f < 1572864) && !s.frames.contains f && !r.contains f && s.framesFree r

/-- DEDUCED, log 78. -/
def State.takeFrames (s : State) (fs : List Nat) : State := { s with frames := fs ++ s.frames }

def State.dropFrames (s : State) (fs : List Nat) : State := { s with frames := s.frames.filter fun f => !fs.contains f }

/-! ## Mapping -/

/-- The table below entry `e` of table `F`; a new one is taken from `ts`, zeroed first (R227). -/
def State.childTable (s : State) (F e : Nat) (ts : List Nat) : Option (Nat × List Nat × State) :=
  match nextFrame (s.entryAt 0 F e) with
  | some f => some (f, ts, s)
  | none =>
    match ts with
    | [] => none
    | t :: r =>
      let fs := tableFrames t
      if t ≤ 786431 ∧ s.framesFree fs = true then
        some (t, r, ((s.zeroFrames fs).takeFrames fs).setEntry F e (1 + 2048 * t))
      else none

/-- The leaf entry of an address, its tables made where they are missing. -/
def State.mapLeaf (s : State) (root va v : Nat) (ts : List Nat) : Option (List Nat × State) :=
  match s.childTable root (index1 va) ts with
  | none => none
  | some (f, ts, s) =>
    match s.childTable f (index2 va) ts with
    | none => none
    | some (f, ts, s) => some (ts, s.setEntry f (index3 va) v)

/-- Leaf entries of consecutive 256 KiB pages. -/
def State.mapAll (s : State) (root : Nat) : Nat → List Nat → List Nat → Option State
  | _, [], _ => some s
  | va, v :: r, ts =>
    match s.mapLeaf root va v ts with
    | none => none
    | some (ts, s) => s.mapAll root (va + 262144) r ts

/-- The entries of pages at frames `fs`, with the flag bits `flags`: a large page has 64 identical ones (R227). -/
def leafEntries (flags : Nat) (large : Bool) (fs : List Nat) : List Nat :=
  fs.flatMap fun f => List.replicate (if large then 64 else 1) (1 + flags + 2048 * f)

/-- Pages mapped at frames that firmware has picked; none where frames or tables run out. -/
def State.mapRange (s : State) (root va flags : Nat) (large : Bool) (fs tables : List Nat) : Option State :=
  let all := fs.flatMap (pageFrames large)
  if s.framesFree all then ((s.zeroFrames all).takeFrames all).mapAll root va (leafEntries flags large fs) tables else none

/-! ## Present pages -/

/-- The 256 KiB pages of a range that lie in another one. -/
def sharedPages (va len lo n : Nat) : List Nat :=
  let a := max va lo / 262144
  let b := (min (va + len) (lo + n) + 262143) / 262144
  (List.range (b - a)).map fun i => 262144 * (a + i)

/-- Pages of a context, in a range, that its page table holds. -/
def State.presentPages (s : State) (ctx va len : Nat) : List Nat :=
  let c := s.ctx ctx
  let all := sharedPages va len c.privVa.toNat c.privLen ++ c.maps.flatMap fun m => sharedPages va len m.va m.len
  all.filter fun a => (s.leaf ctx a).isSome

/-- Frames that the present pages of a range hold. -/
def State.framesOf (s : State) (ctx : Nat) (pages : List Nat) : List Nat :=
  pages.map fun a => match s.leaf ctx a with
    | some e => leafPa e a / 262144
    | none => 0

/-- Lines of a context in a range are written back and dropped (R225, R291). -/
def State.flushRange (s : State) (ctx va len : Nat) : State :=
  let mine := s.llc.filter fun l => l.ctx == ctx && decide (va ≤ 128 * l.line) && decide (128 * l.line < va + len)
  mine.foldl (fun s l => s.evictLlc ctx l.line) s

/-- The pages leave the page table; their frames are free. -/
def State.unmapList (s : State) (ctx : Nat) (pages : List Nat) : State :=
  let fs := s.framesOf ctx pages
  (pages.foldl (fun s a => s.setLeaf ctx a 0) s).dropFrames fs

/-- What is left of a mapped range when `va` to `va + len - 1` leaves it. -/
def MapRec.cut (m : MapRec) (va len : Nat) : List MapRec :=
  let left : List MapRec := if m.va < va then [{ m with len := min m.len (va - m.va) }] else []
  let stop := m.va + m.len
  let right : List MapRec := if va + len < stop then [{ m with va := max m.va (va + len), len := stop - max m.va (va + len) }] else []
  if m.va < va + len ∧ va < stop then left ++ right else [m]

/-- Byte of table `F`, in its replica of stack 0, that stands at a PA. -/
def tableByte (F pa : Nat) : Option Nat :=
  if pa / 524288 = F ∧ pa / 1024 % 256 < 32 then some (32768 * (pa / 262144 % 2) + 1024 * (pa / 1024 % 256) + pa % 1024) else none

/-- The tables that the entries of table `F` name. -/
def State.children (s : State) (F : Nat) : List Nat :=
  ((s.mem.filterMap fun c => (tableByte F c.1).map fun b => b / 8).eraseDups).filterMap fun e => nextFrame (s.entryAt 0 F e)

/-- Every table of a context: its root, and those of its second and third level, whether or not they serve a page now. -/
def State.ctxTables (s : State) (ctx : Nat) : List Nat :=
  let root := (s.ctx ctx).root
  let second := s.children root
  root :: second ++ second.flatMap s.children

/-! ## FAULT_SERVICE_MAP (R229) -/

/-- Firmware makes the mapping of a page that the host has mapped and whose leaf is not present yet, at a frame it has picked. -/
def State.installPage (s : State) (ctx : Nat) (tables : List Nat) (p : Nat × Nat) : State :=
  match (s.ctx ctx).maps.find? fun m => decide (m.va ≤ p.1) && decide (p.1 < m.va + m.len) with
  | none => s
  | some m =>
    let large := m.flags.testBit 4
    let unit := if large then 16777216 else 262144
    if (s.leaf ctx p.1).isSome || p.1 % unit != 0 || (large && p.2 % 64 != 0) then s
    else (s.mapRange (s.ctx ctx).root p.1 m.flags large [p.2] tables).getD s

/-- FAULT_SERVICE_MAP (R229): firmware makes the mappings, for whatever waits for them; the lanes of the access that it names, if they wait
and each now passes the check, are replayed. (DEDUCED, log 36) -/
def execFaultServiceMap (grp : Nat) (m : FaultMap) (s : State) : Host.Outcome State Fault Refusal :=
  .next (if !s.served || (tget s.ctxs m.ctx).isNone then s
    else
      let s := m.pages.foldl (fun s p => s.installPage m.ctx m.tables p) s
      let s := if m.pages.isEmpty then s else s.releaseHeld m.ctx
      match (s.grp grp).flights[m.access]? with
      | none => s
      | some f =>
        if f.serviced && s.ctxOf grp == m.ctx && (serviceable f.bad).all fun b => s.nowMapped m.ctx b then
          s.replayLanes grp f ((serviceable f.bad).map fun b => b.1)
        else s)

/-! ## PAGE_FREEZE, PAGE_THAW (R242) -/

/-- Pages of 256 KiB whose entries describe the page of an address: 64 for a large page. -/
def pageGroup (e va : Nat) : List Nat :=
  if leafLarge e then (List.range 64).map fun i => 16777216 * (va / 16777216) + 262144 * i else [262144 * (va / 262144)]

/-- PAGE_FREEZE: FRZ is set in every replica of the leaf entry. -/
def execPageFreeze (ctx : Nat) (va : Dword) (s : State) : Host.Outcome State Fault Refusal :=
  .next (match s.leaf ctx va.toNat with
    | some e =>
      if leafFrz e || !s.served then s
      else (pageGroup e va.toNat).foldl (fun s a => s.setLeaf ctx a (e + 32)) s
    | none => s)

/-- The bytes and the bad granules of frame `f` stand at frame `f'` too, as poison; what was there is gone. -/
def State.copyFrame (s : State) (f f' : Nat) : State :=
  let s := s.zeroFrames [f']
  let put (m : List Host.Cell) (c : Host.Cell) : List Host.Cell :=
    if c.1 / 262144 = f then setCell m (262144 * f' + c.1 % 262144) c.2 else m
  let moved := ((s.poison ++ s.failed).filter fun g => inFrames [f] (32 * g)).eraseDups.map fun g => 8192 * f' + g % 8192
  { s with mem := s.mem.foldl put s.mem, poison := moved ++ s.poison }

/-- PAGE_THAW: the page stands at its new frame `frame`, which firmware has picked; FRZ is cleared, the cached copies of granules that the
copying found uncorrectable are marked (R240), and the records that the page held back are written. -/
def execPageThaw (ctx : Nat) (va : Dword) (frame : Nat) (s : State) : Host.Outcome State Fault Refusal :=
  .next (match s.leaf ctx va.toNat with
    | some e =>
      let old := pageFrames (leafLarge e) (leafFrame e)
      let new := pageFrames (leafLarge e) frame
      if !leafFrz e || !s.served || !s.framesFree new || (leafLarge e && frame % 64 != 0) then s
      else
        let e' := e - 32 - 2048 * leafFrame e + 2048 * frame
        let s := (old.zip new).foldl (fun s p => s.copyFrame p.1 p.2) s
        let s := (s.dropFrames old).takeFrames new
        let s := (pageGroup e va.toNat).foldl (fun s a => s.setLeaf ctx a e') s
        (s.markCopies (s.poison.filter fun g => inFrames new (32 * g))).postHeld ctx
    | none => s)

end Sys2Proof.Machine
end

