-- ==== Sys2Proof/Machine/HostPort.lean ====
section
/-! DEFINITION. The host's side of the package: the link (R286), BAR0 and BAR2 (R287-R289), the core set (R274) and the
doorbell of the service request mailbox (R290). -/

namespace Sys2Proof.Machine

/-! ## The link (R286) -/

/-- PCIE_LINK_ERROR: an uncorrectable error posts HOSTERR to every context; so does link down, whose messages wait for the link to
train again. Which of the two it is, is a free value. (DESIGN CHOICE, log 2) -/
def execPcieLinkError (s : State) : Host.Outcome State Fault Refusal :=
  .next (if s.linkUp then { s with linkUp := !Config.linkDrops s.free, free := s.free + 1 }.toAll Code.HOSTERR 0 else s)

/-- PCIE_LINK_RETRAIN: messages held while the link was down are sent. The link comes up only once boot has run (R292). -/
def execPcieLinkRetrain (s : State) : Host.Outcome State Fault Refusal :=
  .next (if s.linkUp || s.boot != 5 then s
    else { s with linkUp := true, msixSent := s.msixPend ++ s.msixSent, msixPend := [] })

/-! ## BAR2 (R287) -/

/-- Context and virtual address behind a byte of BAR2. -/
def State.bar2 (s : State) (off : Nat) : Option (Nat × Nat) :=
  let e := (tgetD s.apw (off / 1073741824) 0).toNat
  if e.testBit 16 then some (e % 65536, widen57 (1073741824 * fld e 30 27) + off % 1073741824) else none

/-- The lines that bytes `va` to `va + n - 1` touch. -/
def linesOf (va n : Nat) : List Nat := (List.range ((va + n + 127) / 128 - va / 128)).map fun i => va / 128 + i

/-- Every line of the range passes the check of R228, and none lies in a Colander window. (DEDUCED, log 79) -/
def State.hostOk (s : State) (ctx va n : Nat) (k : Acc) : Bool :=
  (linesOf va n).all fun l => (s.translate ctx (128 * l) k).toBool && (s.window ctx (128 * l)).isNone

/-- The granule of a byte. -/
def State.granuleAt (s : State) (ctx va : Nat) : Option Nat := (s.leaf ctx va).map fun e => leafPa e va / 32

/-- One byte that a host read returns: a free byte inside a bad granule. (DEDUCED, log 80) -/
def State.hostByte (s : State) (ctx va i : Nat) : Byte :=
  match s.granuleAt ctx (va + i) with
  | some g => if s.poison.contains g then Config.freeByte (s.free + i) else s.homeByte ctx (va + i)
  | none => 0

/-- A host read touches the pinned windows of its context where it reaches a memory-side cache (R233, R287). -/
def State.hostTouch (s : State) (ctx l : Nat) : State := s.engTouch ctx (128 * l) (s.exported ctx (128 * l))

/-- A host read of `n` bytes; the bits of the granules of `ecc` have failed by now (R240). (DEDUCED, log 80) -/
def State.hostRead (s : State) (ctx va n : Nat) (ecc : List Nat) : State :=
  if s.hostOk ctx va n .read then
    let gs := (List.range n).filterMap fun i => s.granuleAt ctx (va + i)
    let s := (s.fail ecc).readEcc gs
    let bytes := (List.range n).map fun i => s.hostByte ctx va i
    let bad := gs.any s.poison.contains
    let s := (linesOf va n).foldl (fun s l => s.hostTouch ctx l) s
    { s with hostResp := .data bytes bad, free := s.free + n }
  else { s with hostResp := .abort }

/-- A line's part of a host write: its mask and its line image. -/
def hostPart (va : Nat) (bs : List Byte) (l : Nat) : BitVec 128 × List Byte :=
  let a := max va (128 * l)
  let n := min (va + bs.length) (128 * l + 128) - a
  (lineMask (a % 128) n, placed (a % 128) (part (bs.drop (a - va)) 0 n))

/-- Granules that a host write reads, for it covers them in part (R241). -/
def State.hostParts (s : State) (ctx va : Nat) (bs : List Byte) : List Nat :=
  (linesOf va bs.length).flatMap fun l => (s.splitGranules ctx (128 * l) (hostPart va bs l).1).2

/-- A host write; one over a bad granule that it covers in part writes nothing, and one to a frozen page waits (R241, R242).
(DEDUCED, log 80) -/
def State.hostWrite (s : State) (ctx va : Nat) (bs : List Byte) (ecc : List Nat) : State :=
  let ls := linesOf va bs.length
  let t := s.fail ecc
  let gs := t.hostParts ctx va bs
  if !s.hostOk ctx va bs.length .write then { s with hostResp := .abort }
  else if ls.any fun l => s.frz ctx (128 * l) then s
  else if (t.eccCheck gs).isSome then { t.readEcc gs with hostResp := .abort }
  else
    let put (t : State) (l : Nat) : State :=
      (t.homeWrite ctx l (hostPart va bs l).1 (hostPart va bs l).2 none).2
    { ls.foldl put t with hostResp := .written }

/-- HOST_BAR2_ACCESS: a read of `len` bytes, or a write of the bytes `wr`, within one window. -/
def execHostBar2Access (off len : Nat) (wr : Option (List Byte)) (ecc : List Nat) (s : State) :
    Host.Outcome State Fault Refusal :=
  let n := match wr with | some bs => bs.length | none => len
  .next (if !s.linkUp || decide (1073741824 < off % 1073741824 + n) then s
    else
      match s.bar2 off, wr with
      | none, _ => { s with hostResp := .abort }
      | some (ctx, va), none => s.hostRead ctx va n ecc
      | some (ctx, va), some bs => s.hostWrite ctx va bs ecc)

/-! ## Registers of BAR0 (R287-R290) -/

/-- The low or the high word of a doubleword replaced. -/
def putHalf (d : Dword) (hi : Bool) (w : Word) : Dword :=
  if hi then (w ++ d.setWidth 32 : BitVec 64) else (d.extractLsb' 32 32 ++ w : BitVec 64)

/-- A queue configuration word: its vector and its size; outside 4-16 the write is ignored (R288). (DEDUCED, log 79) -/
def queueCfg (old w : Word) : Word :=
  if 4 ≤ sizeOf w ∧ sizeOf w ≤ 16 then w &&& 0x07FF001F else old

/-- A word of a context page (R288). TAIL, PREQ and CSET have rows of their own. (DEDUCED, log 39; DEDUCED, log 79) -/
def Ctx.putReg (c : Ctx) (o : Nat) (w : Word) : Ctx :=
  match o with
  | 0x018 => { c with lqbase := putHalf c.lqbase false (w &&& 0xFFFFFFC0) }
  | 0x01C => { c with lqbase := putHalf c.lqbase true w }
  | 0x020 => { c with lqcfg := queueCfg c.lqcfg w }
  | 0x028 => { c with eqbase := putHalf c.eqbase false (w &&& 0xFFFFFFE0) }
  | 0x02C => { c with eqbase := putHalf c.eqbase true w }
  | 0x030 => { c with eqcfg := queueCfg c.eqcfg w }
  | 0x038 => { c with eqhead := w }
  | 0x03C => if w = 0 then c else { c with eqlost := 0 }
  | 0x040 => { c with sched := putHalf c.sched false (w &&& 0xFFFFC000) }
  | 0x044 => { c with sched := putHalf c.sched true (w &&& 0x3FFFFFFF) }
  | 0x04C => { c with fade := min 20 (fld w.toNat 0 5) }
  | o =>
    if 0x100 ≤ o ∧ o < 0x190 then
      let k := (o - 0x100) / 4
      let w := w &&& 0x07FFFFFF
      let was := tgetD c.reg k 0
      let depth := 1024 * max 1 (fld w.toNat 0 16)
      let held := if fld was.toNat 16 11 = 0 then depth else min depth (tgetD c.granted k 0)
      { c with reg := tset c.reg k w, granted := tset c.granted k held }
    else c

/-- A word of the mailbox (R290): the request record and CFG. -/
def Srq.putReg (q : Srq) (o : Nat) (w : Word) : Srq :=
  if o < 0x100 then { q with req := setCells q.req o (leBytes 4 w.toNat) }
  else if o = 0x20C then { q with cfg := w &&& 0x07FF0001 }
  else q

/-- The pending bits of 32 vectors from `v` on, and the set of pending vectors once they are written (R286, R287). -/
def State.pendWord (s : State) (v : Nat) : Word :=
  BitVec.ofNat 32 (((List.range 32).filter fun i => s.msixPend.contains (v + i)).map fun i => 2 ^ i).sum

def putPend (l : List Msix) (v : Nat) (w : Word) : List Msix :=
  (l.filter fun x => !(decide (v ≤ x) && decide (x < v + 32))) ++ ((List.range 32).filter fun i => w.getLsbD i).map fun i => v + i

/-- A word of the field MSIX: the table's 32 KiB, then a bit for each of the 2,048 vectors, then bytes that keep what is written
(R286, R287). (DEDUCED, log 79) -/
def State.putMsix (s : State) (off : Nat) (w : Word) : State :=
  if 0x18000 ≤ off ∧ off < 0x18100 then { s with msixPend := putPend s.msixPend (8 * (off - 0x18000)) w }
  else { s with msixTab := setCells s.msixTab off (leBytes 4 w.toNat) }

/-- HOST_REGISTER_WRITE: a write of the word at byte `off` of BAR0. (DEDUCED, log 79) -/
def execHostRegisterWrite (off : Nat) (val : Word) (s : State) : Host.Outcome State Fault Refusal :=
  .next (if !s.linkUp || off % 4 != 0 then s
    else if 0x1000000 ≤ off ∧ off < 0x2000000 then
      s.modCtx ((off - 0x1000000) / 4096) fun c => c.putReg (off % 4096) val
    else if 0x10000 ≤ off ∧ off < 0x1000000 then s.putMsix off val
    else if 0x2000 ≤ off ∧ off < 0x3000 then { s with srq := s.srq.putReg (off - 0x2000) val }
    else if 0x1000 ≤ off ∧ off < 0x2000 then
      let k := (off - 0x1000) / 8
      let e := putHalf (tgetD s.apw k 0) (off % 8 == 4) val
      { s with apw := tset s.apw k (e &&& 0x01FFFFFFC001FFFF) }
    else s)

/-! ## What a host read of BAR0 returns (R4, R287, R288, R290) -/

/-- PSTATE (R288). -/
def CtxSt.code (x : CtxSt) : Nat :=
  match x with
  | .run => 0 | .drain => 1 | .save => 2 | .stopped => 3 | .killed => 4

/-- The low or the high word of a doubleword. -/
def halfOf (d : Dword) (hi : Bool) : Word := if hi then d.extractLsb' 32 32 else d.setWidth 32

/-- A word of a context page: PREQ, which is write-only, and reserved bytes read 0 (R4, R5, R288). -/
def Ctx.getReg (c : Ctx) (o : Nat) : Word :=
  match o with
  | 0x000 => c.tail
  | 0x010 => c.head
  | 0x014 => c.done
  | 0x018 => halfOf c.lqbase false
  | 0x01C => halfOf c.lqbase true
  | 0x020 => c.lqcfg
  | 0x028 => halfOf c.eqbase false
  | 0x02C => halfOf c.eqbase true
  | 0x030 => c.eqcfg
  | 0x034 => c.eqtail
  | 0x038 => c.eqhead
  | 0x03C => c.eqlost
  | 0x040 => halfOf c.sched false
  | 0x044 => halfOf c.sched true
  | 0x04C => BitVec.ofNat 32 c.fade
  | 0x054 => BitVec.ofNat 32 c.st.code
  | 0x058 => c.cset.extractLsb' 0 32
  | 0x05C => c.cset.extractLsb' 32 32
  | 0x060 => c.cset.extractLsb' 64 32
  | 0x064 => c.cset.extractLsb' 96 32
  | o => if 0x100 ≤ o ∧ o < 0x190 then tgetD c.reg ((o - 0x100) / 4) 0 else 0

/-- A word of the mailbox: DOORBELL, which is write-only, and reserved bytes read 0 (R290). -/
def Srq.getReg (q : Srq) (o : Nat) : Word :=
  if o < 0x100 then leWord (cells q.req o 4)
  else if o < 0x200 then leWord (part q.rsp (o - 0x100) 4)
  else if o = 0x204 then if q.busy then 1 else 0
  else if o = 0x208 then q.dseq
  else if o = 0x20C then q.cfg
  else 0

/-- The word at byte `off` of BAR0, as a host read returns it. MGMT's layout is the chip's. (DEDUCED, log 79) -/
def State.bar0 (s : State) (off : Nat) : Word :=
  if off < 0x1000 then Config.mgmtWord off s.chip s.boot s.meas
  else if off < 0x2000 then halfOf (tgetD s.apw ((off - 0x1000) / 8) 0) (off % 8 == 4)
  else if off < 0x3000 then s.srq.getReg (off - 0x2000)
  else if off < 0x10000 then 0
  else if 0x18000 ≤ off ∧ off < 0x18100 then s.pendWord (8 * (off - 0x18000))
  else if off < 0x1000000 then leWord (cells s.msixTab off 4)
  else if off < 0x2000000 then (s.ctx ((off - 0x1000000) / 4096)).getReg (off % 4096)
  else 0

/-! ## Registers with rows of their own -/

/-- CSET_WRITE (R274): a write whose bits 99:0 are all zero is ignored. -/
def execCsetWrite (ctx : Nat) (val : BitVec 128) (s : State) : Host.Outcome State Fault Refusal :=
  let m := val &&& 0xFFFFFFFFFFFFFFFFFFFFFFFFF
  .next (if !s.linkUp || m == 0 then s else s.modCtx ctx fun c => { c with cset := m })

/-- SRQ_DOORBELL (R290): firmware copies REQ and sets BUSY; ignored while BUSY. -/
def execSrqDoorbell (seq : Word) (s : State) : Host.Outcome State Fault Refusal :=
  let q := s.srq
  .next (if !s.linkUp || q.busy || !s.served then s
    else { s with srq := { q with cur := q.req, seq := seq, busy := true } })

end Sys2Proof.Machine
end

