-- ==== Sys2Proof/Machine/Integer.lean ====
section
/-! DEFINITION. The integer families: arithmetic and logic (R75, R76), immediate forms (R77), compares and select (R78,
R79), lane moves and shuffles (R80), reductions, scans and match (R81), scalar arithmetic (R82), 64-bit arithmetic
(R83) and masks (R84). Each meaning is the frame `word` over one function of the operands. -/

namespace Sys2Proof.Machine

/-! ## Functions of the operands -/

/-- Bits 63:32 of the signed product. -/
def mulHigh (a b : Word) : Word := BitVec.ofInt 32 (a.toInt * b.toInt / 4294967296)

/-- Bits 63:32 of the unsigned product. -/
def mulHighN (a b : Word) : Word := BitVec.ofNat 32 (a.toNat * b.toNat / 4294967296)

def minS (a b : Word) : Word := if a.sle b then a else b
def maxS (a b : Word) : Word := if a.sle b then b else a
def minN (a b : Word) : Word := if a.ule b then a else b
def maxN (a b : Word) : Word := if a.ule b then b else a

/-- |a - b| of the signed values. -/
def absDiff (a b : Word) : Word := BitVec.ofNat 32 (a.toInt - b.toInt).natAbs

/-- Shift count (R74). -/
def count5 (b : Word) : Nat := b.toNat % 32

def popCount (w : Word) : Word := BitVec.ofNat 32 ((List.range 32).filter fun i => w.getLsbD i).length

/-- Leading zeros; 32 for 0. -/
def leadZeros (w : Word) : Word := BitVec.ofNat 32 (((List.range 32).find? fun i => w.getLsbD (31 - i)).getD 32)

/-- Bit i moved to bit 31 - i. -/
def reverseBits (w : Word) : Word :=
  BitVec.ofNat 32 ((List.range 32).foldl (fun n i => 2 * n + (w.getLsbD i).toNat) 0)

/-- pos of BFX and BFI (R76). -/
def bfPos (b : Word) : Nat := b.toNat % 32

/-- w of BFX and BFI: min(wf, 32, 32 - pos). -/
def bfWidth (b : Word) : Nat := min (b.toNat / 256 % 64) (32 - bfPos b)

/-- 2^w - 1. -/
def lowOnes (w : Nat) : Word := BitVec.ofNat 32 (2 ^ w - 1)

def bitExtract (a b : Word) : Word := (a >>> bfPos b) &&& lowOnes (bfWidth b)

def bitInsert (d a b : Word) : Word :=
  let m := lowOnes (bfWidth b) <<< bfPos b
  (d &&& ~~~m) ||| ((a <<< bfPos b) &&& m)

/-- Byte `k` of a word. -/
def byteOf (w : Word) (k : Nat) : Byte := BitVec.ofNat 8 (w.toNat / 2 ^ (8 * k))

/-- Result byte of PRMT for one nibble of the control (R76). -/
def permByte (a : Word) (n : Nat) : Byte :=
  let x := byteOf a (n % 4)
  if n / 4 % 2 = 1 then 0 else if n / 8 % 2 = 1 then (if x.msb then 0xFF else 0) else x

def permute (a b : Word) : Word := leWord ((List.range 4).map fun k => permByte a (b.toNat / 2 ^ (4 * k) % 16))

/-! ## Shapes of meanings -/

/-- vD := f(vA, vB) on each active lane (R75). -/
def vecOp (f : Word → Word → Word) (d a b : BitVec 7) (c : Cursor) (s : State) : State :=
  let g := s.grp c.grp
  s.postV c d.toNat (perLane fun i => f (g.v a.toNat i) (g.v b.toNat i))

/-- vD := f(vA) on each active lane. -/
def vecOp1 (f : Word → Word) (d a : BitVec 7) (c : Cursor) (s : State) : State :=
  let g := s.grp c.grp
  s.postV c d.toNat (perLane fun i => f (g.v a.toNat i))

/-- vD := f(vA, imm) on each active lane (R77). -/
def vecImm (f : Word → Word → Word) (d a : BitVec 7) (k : BitVec 8) (c : Cursor) (s : State) : State :=
  let g := s.grp c.grp
  s.postV c d.toNat (perLane fun i => f (g.v a.toNat i) (immOf c.lit k))

/-- sD := f(scA, scB) (R82). -/
def scaOp (f : Word → Word → Word) (d a b : BitVec 7) (c : Cursor) (s : State) : State :=
  let g := s.grp c.grp
  s.postS c d.toNat (f (g.sc c.slotB a.toNat) (g.sc c.slotB b.toNat))

/-- sD := f(scA, imm). -/
def scaImm (f : Word → Word → Word) (d a : BitVec 7) (k : BitVec 8) (c : Cursor) (s : State) : State :=
  s.postS c d.toNat (f ((s.grp c.grp).sc c.slotB a.toNat) (immOf c.lit k))

/-- D := f(A, B) on scalar pairs (R83). -/
def scaOp64 (f : Dword → Dword → Dword) (d a b : BitVec 7) (c : Cursor) (s : State) : State :=
  let g := s.grp c.grp
  s.postSP c d.toNat (f (g.scp c.slotB a.toNat) (g.scp c.slotB b.toNat))

/-- D := f(A, B) on vector pairs (R83). -/
def vecOp64 (f : Dword → Dword → Dword) (d a b : BitVec 7) (c : Cursor) (s : State) : State :=
  let g := s.grp c.grp
  s.postVP c d.toNat fun i => f (g.vp a.toNat i) (g.vp b.toNat i)

/-- A pair from two vector registers (R83). -/
def vecWide (f : Word → Word → Dword) (d a b : BitVec 7) (c : Cursor) (s : State) : State :=
  let g := s.grp c.grp
  s.postVP c d.toNat fun i => f (g.v a.toNat i) (g.v b.toNat i)

/-- qD := f(qA, qB) (R84). -/
def maskOp (f : Mask → Mask → Mask) (d a b : BitVec 7) (c : Cursor) (s : State) : State :=
  let g := s.grp c.grp
  s.postQ c d.toNat (f (g.q c.slotB a.toNat) (g.q c.slotB b.toNat))

/-- A shuffle with source lane `src` for each lane; a source outside the slot's active lanes gives the lane its own
value (R80). -/
def shuffle (d a : BitVec 7) (src : Group → Nat → Int) (c : Cursor) (s : State) : State :=
  let g := s.grp c.grp
  s.postV c d.toNat (perLane fun i =>
    let j := src g i
    if 0 ≤ j ∧ j ≤ 95 ∧ c.lanes.getLsbD j.toNat then g.v a.toNat j.toNat else g.v a.toNat i)

/-- A reduction of the active lanes in ascending order (R81). -/
def reduce (f : Word → Word → Word) (e : Word) (d a : BitVec 7) (c : Cursor) (s : State) : State :=
  let g := s.grp c.grp
  s.postS c d.toNat ((lanesOf c.lanes).foldl (fun x i => f x (g.v a.toNat i)) e)

/-- A value for each lane from the active lanes' values (R81). -/
def scan (f : (Nat → Word) → List Nat → Nat → Word) (d a : BitVec 7) (c : Cursor) (s : State) : State :=
  let g := s.grp c.grp
  s.postV c d.toNat (perLane fun i => f (g.v a.toNat) (lanesOf c.lanes) i)

/-- Sum of the values of some lanes. -/
def sumLanes (v : Nat → Word) (ls : List Nat) : Word := ls.foldl (fun x i => x + v i) 0

/-! ## Meanings -/

/-- IADD (R75). -/
def execIadd (d : BitVec 7) (a : BitVec 7) (b : BitVec 7) (s : State) : Host.Outcome State Fault Refusal :=
  word (.iadd d a b) s (vecOp (· + ·) d a b)

/-- ISUB (R75). -/
def execIsub (d : BitVec 7) (a : BitVec 7) (b : BitVec 7) (s : State) : Host.Outcome State Fault Refusal :=
  word (.isub d a b) s (vecOp (· - ·) d a b)

/-- IMUL (R75). -/
def execImul (d : BitVec 7) (a : BitVec 7) (b : BitVec 7) (s : State) : Host.Outcome State Fault Refusal :=
  word (.imul d a b) s (vecOp (· * ·) d a b)

/-- IMULH (R75). -/
def execImulh (d : BitVec 7) (a : BitVec 7) (b : BitVec 7) (s : State) : Host.Outcome State Fault Refusal :=
  word (.imulh d a b) s (vecOp mulHigh d a b)

/-- IMULHN (R75). -/
def execImulhn (d : BitVec 7) (a : BitVec 7) (b : BitVec 7) (s : State) : Host.Outcome State Fault Refusal :=
  word (.imulhn d a b) s (vecOp mulHighN d a b)

/-- IMIN (R75). -/
def execImin (d : BitVec 7) (a : BitVec 7) (b : BitVec 7) (s : State) : Host.Outcome State Fault Refusal :=
  word (.imin d a b) s (vecOp minS d a b)

/-- IMAX (R75). -/
def execImax (d : BitVec 7) (a : BitVec 7) (b : BitVec 7) (s : State) : Host.Outcome State Fault Refusal :=
  word (.imax d a b) s (vecOp maxS d a b)

/-- IABSD (R75). -/
def execIabsd (d : BitVec 7) (a : BitVec 7) (b : BitVec 7) (s : State) : Host.Outcome State Fault Refusal :=
  word (.iabsd d a b) s (vecOp absDiff d a b)

/-- AND (R75). -/
def execAnd (d : BitVec 7) (a : BitVec 7) (b : BitVec 7) (s : State) : Host.Outcome State Fault Refusal :=
  word (.and d a b) s (vecOp (· &&& ·) d a b)

/-- OR (R75). -/
def execOr (d : BitVec 7) (a : BitVec 7) (b : BitVec 7) (s : State) : Host.Outcome State Fault Refusal :=
  word (.or d a b) s (vecOp (· ||| ·) d a b)

/-- XOR (R75). -/
def execXor (d : BitVec 7) (a : BitVec 7) (b : BitVec 7) (s : State) : Host.Outcome State Fault Refusal :=
  word (.xor d a b) s (vecOp (· ^^^ ·) d a b)

/-- ANDN (R75). -/
def execAndn (d : BitVec 7) (a : BitVec 7) (b : BitVec 7) (s : State) : Host.Outcome State Fault Refusal :=
  word (.andn d a b) s (vecOp (fun a b => a &&& ~~~b) d a b)

/-- SHL (R75). -/
def execShl (d : BitVec 7) (a : BitVec 7) (b : BitVec 7) (s : State) : Host.Outcome State Fault Refusal :=
  word (.shl d a b) s (vecOp (fun a b => a <<< count5 b) d a b)

/-- SHR (R75). -/
def execShr (d : BitVec 7) (a : BitVec 7) (b : BitVec 7) (s : State) : Host.Outcome State Fault Refusal :=
  word (.shr d a b) s (vecOp (fun a b => a >>> count5 b) d a b)

/-- SAR (R75). -/
def execSar (d : BitVec 7) (a : BitVec 7) (b : BitVec 7) (s : State) : Host.Outcome State Fault Refusal :=
  word (.sar d a b) s (vecOp (fun a b => a.sshiftRight (count5 b)) d a b)

/-- ROTL (R75). -/
def execRotl (d : BitVec 7) (a : BitVec 7) (b : BitVec 7) (s : State) : Host.Outcome State Fault Refusal :=
  word (.rotl d a b) s (vecOp (fun a b => a.rotateLeft (count5 b)) d a b)

/-- IMINN (R76). -/
def execIminn (d : BitVec 7) (a : BitVec 7) (b : BitVec 7) (s : State) : Host.Outcome State Fault Refusal :=
  word (.iminn d a b) s (vecOp minN d a b)

/-- IMAXN (R76). -/
def execImaxn (d : BitVec 7) (a : BitVec 7) (b : BitVec 7) (s : State) : Host.Outcome State Fault Refusal :=
  word (.imaxn d a b) s (vecOp maxN d a b)

/-- POPC (R76). -/
def execPopc (d : BitVec 7) (a : BitVec 7) (s : State) : Host.Outcome State Fault Refusal :=
  word (.popc d a) s (vecOp1 popCount d a)

/-- CLZ (R76). -/
def execClz (d : BitVec 7) (a : BitVec 7) (s : State) : Host.Outcome State Fault Refusal :=
  word (.clz d a) s (vecOp1 leadZeros d a)

/-- BREV (R76). -/
def execBrev (d : BitVec 7) (a : BitVec 7) (s : State) : Host.Outcome State Fault Refusal :=
  word (.brev d a) s (vecOp1 reverseBits d a)

/-- BFX (R76). -/
def execBfx (d : BitVec 7) (a : BitVec 7) (b : BitVec 7) (s : State) : Host.Outcome State Fault Refusal :=
  word (.bfx d a b) s (vecOp bitExtract d a b)

/-- BFI reads vD as its base (R76). -/
def execBfi (d : BitVec 7) (a : BitVec 7) (b : BitVec 7) (s : State) : Host.Outcome State Fault Refusal :=
  word (.bfi d a b) s fun c s =>
    let g := s.grp c.grp
    s.postV c d.toNat (perLane fun i => bitInsert (g.v d.toNat i) (g.v a.toNat i) (g.v b.toNat i))

/-- PRMT (R76). -/
def execPrmt (d : BitVec 7) (a : BitVec 7) (b : BitVec 7) (s : State) : Host.Outcome State Fault Refusal :=
  word (.prmt d a b) s (vecOp permute d a b)

/-- IADDI (R77). -/
def execIaddi (d : BitVec 7) (a : BitVec 7) (k : BitVec 8) (s : State) : Host.Outcome State Fault Refusal :=
  word (.iaddi d a k) s (vecImm (· + ·) d a k)

/-- ANDI (R77). -/
def execAndi (d : BitVec 7) (a : BitVec 7) (k : BitVec 8) (s : State) : Host.Outcome State Fault Refusal :=
  word (.andi d a k) s (vecImm (· &&& ·) d a k)

/-- ORI (R77). -/
def execOri (d : BitVec 7) (a : BitVec 7) (k : BitVec 8) (s : State) : Host.Outcome State Fault Refusal :=
  word (.ori d a k) s (vecImm (· ||| ·) d a k)

/-- XORI (R77). -/
def execXori (d : BitVec 7) (a : BitVec 7) (k : BitVec 8) (s : State) : Host.Outcome State Fault Refusal :=
  word (.xori d a k) s (vecImm (· ^^^ ·) d a k)

/-- SHLI (R77). -/
def execShli (d : BitVec 7) (a : BitVec 7) (k : BitVec 8) (s : State) : Host.Outcome State Fault Refusal :=
  word (.shli d a k) s (vecImm (fun a k => a <<< k.toNat) d a k)

/-- SHRI (R77). -/
def execShri (d : BitVec 7) (a : BitVec 7) (k : BitVec 8) (s : State) : Host.Outcome State Fault Refusal :=
  word (.shri d a k) s (vecImm (fun a k => a >>> k.toNat) d a k)

/-- SARI (R77). -/
def execSari (d : BitVec 7) (a : BitVec 7) (k : BitVec 8) (s : State) : Host.Outcome State Fault Refusal :=
  word (.sari d a k) s (vecImm (fun a k => a.sshiftRight k.toNat) d a k)

/-- IMULI (R77). -/
def execImuli (d : BitVec 7) (a : BitVec 7) (k : BitVec 8) (s : State) : Host.Outcome State Fault Refusal :=
  word (.imuli d a k) s (vecImm (· * ·) d a k)

/-- ICMP writes the whole triple (R78). -/
def execIcmp (d : BitVec 7) (a : BitVec 7) (b : BitVec 7) (k : Cond) (s : State) : Host.Outcome State Fault Refusal :=
  word (.icmp d a b k) s fun c s =>
    let g := s.grp c.grp
    s.postQ c d.toNat (mask1 c.lanes fun i => holds k (g.v a.toNat i) (g.v b.toNat i))

/-- SEL (R79). -/
def execSel (d : BitVec 6) (a : BitVec 6) (b : BitVec 6) (q : BitVec 6) (s : State) : Host.Outcome State Fault Refusal :=
  word (.sel d a b q) s fun c s =>
    let g := s.grp c.grp
    let m := g.q c.slotB q.toNat
    s.postV c d.toNat (perLane fun i => if m.getLsbD i then g.v a.toNat i else g.v b.toNat i)

/-- MOV (R80). -/
def execMov (d : BitVec 7) (a : BitVec 7) (s : State) : Host.Outcome State Fault Refusal :=
  word (.mov d a) s (vecOp1 id d a)

/-- VBC (R80). -/
def execVbc (d : BitVec 7) (a : BitVec 7) (s : State) : Host.Outcome State Fault Refusal :=
  word (.vbc d a) s fun c s => s.postV c d.toNat (perLane fun _ => (s.grp c.grp).sc c.slotB a.toNat)

/-- VTOS (R80). -/
def execVtos (d : BitVec 7) (a : BitVec 7) (n : BitVec 7) (s : State) : Host.Outcome State Fault Refusal :=
  word (.vtos d a n) s fun c s =>
    s.postS c d.toNat (if c.lanes.getLsbD n.toNat then (s.grp c.grp).v a.toNat n.toNat else 0)

/-- LANE (R80). -/
def execLane (d : BitVec 7) (s : State) : Host.Outcome State Fault Refusal :=
  word (.lane d) s fun c s => s.postV c d.toNat (perLane fun i => BitVec.ofNat 32 i)

/-- SHFL (R80). -/
def execShfl (d : BitVec 7) (a : BitVec 7) (b : BitVec 7) (s : State) : Host.Outcome State Fault Refusal :=
  word (.shfl d a b) s (shuffle d a fun g i => ((g.v b.toNat i).toNat % 128 : Nat))

/-- SHFLX (R80). -/
def execShflx (d : BitVec 7) (a : BitVec 7) (b : BitVec 7) (s : State) : Host.Outcome State Fault Refusal :=
  word (.shflx d a b) s fun c => shuffle d a (fun g i => (i ^^^ (g.sc c.slotB b.toNat).toNat % 128 : Nat)) c

/-- SHFLUP (R80). -/
def execShflup (d : BitVec 7) (a : BitVec 7) (b : BitVec 7) (s : State) : Host.Outcome State Fault Refusal :=
  word (.shflup d a b) s fun c => shuffle d a (fun g i => (i : Int) - (g.sc c.slotB b.toNat).toInt) c

/-- SHFLDN (R80). -/
def execShfldn (d : BitVec 7) (a : BitVec 7) (b : BitVec 7) (s : State) : Host.Outcome State Fault Refusal :=
  word (.shfldn d a b) s fun c => shuffle d a (fun g i => (i : Int) + (g.sc c.slotB b.toNat).toInt) c

/-- REDADD (R81). -/
def execRedadd (d : BitVec 7) (a : BitVec 7) (s : State) : Host.Outcome State Fault Refusal :=
  word (.redadd d a) s (reduce (· + ·) 0 d a)

/-- REDMIN (R81). -/
def execRedmin (d : BitVec 7) (a : BitVec 7) (s : State) : Host.Outcome State Fault Refusal :=
  word (.redmin d a) s (reduce minS 0x7FFFFFFF d a)

/-- REDMAX (R81). -/
def execRedmax (d : BitVec 7) (a : BitVec 7) (s : State) : Host.Outcome State Fault Refusal :=
  word (.redmax d a) s (reduce maxS 0x80000000 d a)

/-- REDOR (R81). -/
def execRedor (d : BitVec 7) (a : BitVec 7) (s : State) : Host.Outcome State Fault Refusal :=
  word (.redor d a) s (reduce (· ||| ·) 0 d a)

/-- SCANADD (R81). -/
def execScanadd (d : BitVec 7) (a : BitVec 7) (s : State) : Host.Outcome State Fault Refusal :=
  word (.scanadd d a) s (scan (fun v ls i => sumLanes v (ls.filter fun k => k ≤ i)) d a)

/-- SCANADDX (R81). -/
def execScanaddx (d : BitVec 7) (a : BitVec 7) (s : State) : Host.Outcome State Fault Refusal :=
  word (.scanaddx d a) s (scan (fun v ls i => sumLanes v (ls.filter fun k => k < i)) d a)

/-- MATCH (R81). -/
def execMatchLead (d : BitVec 7) (a : BitVec 7) (s : State) : Host.Outcome State Fault Refusal :=
  word (.matchLead d a) s (scan (fun v ls i => BitVec.ofNat 32 ((ls.find? fun k => v k == v i).getD 0)) d a)

/-- MATCHC (R81). -/
def execMatchCount (d : BitVec 7) (a : BitVec 7) (s : State) : Host.Outcome State Fault Refusal :=
  word (.matchCount d a) s (scan (fun v ls i => BitVec.ofNat 32 (ls.filter fun k => v k == v i).length) d a)

/-- SADD (R82). -/
def execSadd (d : BitVec 7) (a : BitVec 7) (b : BitVec 7) (s : State) : Host.Outcome State Fault Refusal :=
  word (.sadd d a b) s (scaOp (· + ·) d a b)

/-- SSUB (R82). -/
def execSsub (d : BitVec 7) (a : BitVec 7) (b : BitVec 7) (s : State) : Host.Outcome State Fault Refusal :=
  word (.ssub d a b) s (scaOp (· - ·) d a b)

/-- SMUL (R82). -/
def execSmul (d : BitVec 7) (a : BitVec 7) (b : BitVec 7) (s : State) : Host.Outcome State Fault Refusal :=
  word (.smul d a b) s (scaOp (· * ·) d a b)

/-- SAND (R82). -/
def execSand (d : BitVec 7) (a : BitVec 7) (b : BitVec 7) (s : State) : Host.Outcome State Fault Refusal :=
  word (.sand d a b) s (scaOp (· &&& ·) d a b)

/-- SOR (R82). -/
def execSor (d : BitVec 7) (a : BitVec 7) (b : BitVec 7) (s : State) : Host.Outcome State Fault Refusal :=
  word (.sor d a b) s (scaOp (· ||| ·) d a b)

/-- SXOR (R82). -/
def execSxor (d : BitVec 7) (a : BitVec 7) (b : BitVec 7) (s : State) : Host.Outcome State Fault Refusal :=
  word (.sxor d a b) s (scaOp (· ^^^ ·) d a b)

/-- SSHL (R82). -/
def execSshl (d : BitVec 7) (a : BitVec 7) (b : BitVec 7) (s : State) : Host.Outcome State Fault Refusal :=
  word (.sshl d a b) s (scaOp (fun a b => a <<< count5 b) d a b)

/-- SSHR (R82). -/
def execSshr (d : BitVec 7) (a : BitVec 7) (b : BitVec 7) (s : State) : Host.Outcome State Fault Refusal :=
  word (.sshr d a b) s (scaOp (fun a b => a >>> count5 b) d a b)

/-- SADDI (R82). -/
def execSaddi (d : BitVec 7) (a : BitVec 7) (k : BitVec 8) (s : State) : Host.Outcome State Fault Refusal :=
  word (.saddi d a k) s (scaImm (· + ·) d a k)

/-- SANDI (R82). -/
def execSandi (d : BitVec 7) (a : BitVec 7) (k : BitVec 8) (s : State) : Host.Outcome State Fault Refusal :=
  word (.sandi d a k) s (scaImm (· &&& ·) d a k)

/-- SORI (R82). -/
def execSori (d : BitVec 7) (a : BitVec 7) (k : BitVec 8) (s : State) : Host.Outcome State Fault Refusal :=
  word (.sori d a k) s (scaImm (· ||| ·) d a k)

/-- SSHLI (R82). -/
def execSshli (d : BitVec 7) (a : BitVec 7) (k : BitVec 8) (s : State) : Host.Outcome State Fault Refusal :=
  word (.sshli d a k) s (scaImm (fun a k => a <<< k.toNat) d a k)

/-- SCMP (R82). -/
def execScmp (d : BitVec 7) (a : BitVec 7) (b : BitVec 7) (k : Cond) (s : State) : Host.Outcome State Fault Refusal :=
  word (.scmp d a b k) s (scaOp (fun x y => if holds k x y then 1 else 0) d a b)

/-- SADD64 (R83). -/
def execSadd64 (d : BitVec 7) (a : BitVec 7) (b : BitVec 7) (s : State) : Host.Outcome State Fault Refusal :=
  word (.sadd64 d a b) s (scaOp64 (· + ·) d a b)

/-- SSUB64 (R83). -/
def execSsub64 (d : BitVec 7) (a : BitVec 7) (b : BitVec 7) (s : State) : Host.Outcome State Fault Refusal :=
  word (.ssub64 d a b) s (scaOp64 (· - ·) d a b)

/-- IADD64 (R83). -/
def execIadd64 (d : BitVec 7) (a : BitVec 7) (b : BitVec 7) (s : State) : Host.Outcome State Fault Refusal :=
  word (.iadd64 d a b) s (vecOp64 (· + ·) d a b)

/-- ISUB64 (R83). -/
def execIsub64 (d : BitVec 7) (a : BitVec 7) (b : BitVec 7) (s : State) : Host.Outcome State Fault Refusal :=
  word (.isub64 d a b) s (vecOp64 (· - ·) d a b)

/-- ISEXT (R83). -/
def execIsext (d : BitVec 7) (a : BitVec 7) (s : State) : Host.Outcome State Fault Refusal :=
  word (.isext d a) s (vecWide (fun x _ => x.signExtend 64) d a a)

/-- IZEXT (R83). -/
def execIzext (d : BitVec 7) (a : BitVec 7) (s : State) : Host.Outcome State Fault Refusal :=
  word (.izext d a) s (vecWide (fun x _ => x.setWidth 64) d a a)

/-- IMULW (R83). -/
def execImulw (d : BitVec 7) (a : BitVec 7) (b : BitVec 7) (s : State) : Host.Outcome State Fault Refusal :=
  word (.imulw d a b) s (vecWide (fun x y => x.signExtend 64 * y.signExtend 64) d a b)

/-- IMULWN (R83). -/
def execImulwn (d : BitVec 7) (a : BitVec 7) (b : BitVec 7) (s : State) : Host.Outcome State Fault Refusal :=
  word (.imulwn d a b) s (vecWide (fun x y => x.setWidth 64 * y.setWidth 64) d a b)

/-- MAND (R84). -/
def execMand (d : BitVec 7) (a : BitVec 7) (b : BitVec 7) (s : State) : Host.Outcome State Fault Refusal :=
  word (.mand d a b) s (maskOp (· &&& ·) d a b)

/-- MOR (R84). -/
def execMor (d : BitVec 7) (a : BitVec 7) (b : BitVec 7) (s : State) : Host.Outcome State Fault Refusal :=
  word (.mor d a b) s (maskOp (· ||| ·) d a b)

/-- MXOR (R84). -/
def execMxor (d : BitVec 7) (a : BitVec 7) (b : BitVec 7) (s : State) : Host.Outcome State Fault Refusal :=
  word (.mxor d a b) s (maskOp (· ^^^ ·) d a b)

/-- MANDN (R84). -/
def execMandn (d : BitVec 7) (a : BitVec 7) (b : BitVec 7) (s : State) : Host.Outcome State Fault Refusal :=
  word (.mandn d a b) s (maskOp (fun x y => x &&& ~~~y) d a b)

/-- MNOT (R84). -/
def execMnot (d : BitVec 7) (a : BitVec 7) (s : State) : Host.Outcome State Fault Refusal :=
  word (.mnot d a) s (maskOp (fun x _ => ~~~x) d a a)

/-- MPOPC (R84). -/
def execMpopc (d : BitVec 7) (a : BitVec 7) (s : State) : Host.Outcome State Fault Refusal :=
  word (.mpopc d a) s fun c s =>
    s.postS c d.toNat (BitVec.ofNat 32 (lanesOf ((s.grp c.grp).q c.slotB a.toNat)).length)

/-- MFFS writes 96 when no bit is set (R84). -/
def execMffs (d : BitVec 7) (a : BitVec 7) (s : State) : Host.Outcome State Fault Refusal :=
  word (.mffs d a) s fun c s =>
    s.postS c d.toNat (BitVec.ofNat 32 (((List.range 96).find? fun i =>
      ((s.grp c.grp).q c.slotB a.toNat).getLsbD i).getD 96))

/-- MSETA (R84). -/
def execMseta (d : BitVec 7) (s : State) : Host.Outcome State Fault Refusal :=
  word (.mseta d) s fun c s => s.postQ c d.toNat ((s.grp c.grp).slot c.slotB).owned

end Sys2Proof.Machine
end

