-- ==== Sys2Proof/Machine/Sketch.lean ====
section
/-! DEFINITION. Words on Colander regions (R255-R263): SKDEF, SKUNDEF, SKMERGE, SKFOLD, SKCLR and SKSNAP enter the issue
queue and park their slot until the step at the region's home is done; SKSTAT and SKQV are accesses. -/

namespace Sys2Proof.Machine

/-- The checks at the word on its address operands, the region base first: NCADDR, SKADDR, ALIGN (R255). -/
def skChecks (base : Nat) (others : List (Nat × Bool)) : Option (Cause × Nat) :=
  match ((base, false) :: others).find? fun a => !canonical a.1 with
  | some a => some (Code.NCADDR, a.1)
  | none =>
    if base % 34359738368 ≠ 0 then some (Code.SKADDR, base)
    else (others.find? fun a => a.2 && a.1 % 64 != 0).map fun a => (Code.ALIGN, a.1)

/-- A word that parks its slot until its step at the home is done. Its bundle has waited as after a marked bundle before it issued. -/
def State.sketchWord (s : State) (c : Cursor) (i : Instr) (op : SkOp) (base arg : Nat) (others : List (Nat × Bool)) : State :=
  match skChecks base others with
  | some k => s.raiseAt c 0x1C false k.1 k.2
  | none =>
    let (id, s) := s.fresh
    (s.enqueue c id 0x1C (.sk op base arg) [] 0).park c .colander i 0 id

/-- SKDEF (R256): the descriptor is read once the earlier accesses are released. -/
def execSkdef (a b : BitVec 7) (s : State) : Host.Outcome State Fault Refusal :=
  word (.skdef a b) s fun c s =>
    let g := s.grp c.grp
    let d := (g.sp c.slotB b.toNat).toNat
    s.sketchWord c (.skdef a b) .skdef (g.sp c.slotB a.toNat).toNat d [(d, true)]

/-- SKUNDEF (R257). -/
def execSkundef (a : BitVec 7) (s : State) : Host.Outcome State Fault Refusal :=
  word (.skundef a) s fun c s =>
    s.sketchWord c (.skundef a) .undef ((s.grp c.grp).sp c.slotB a.toNat).toNat 0 []

/-- SKMERGE (R258): an image must be 64-byte aligned, a region base is. -/
def execSkmerge (a b : BitVec 7) (s : State) : Host.Outcome State Fault Refusal :=
  word (.skmerge a b) s fun c s =>
    let g := s.grp c.grp
    let src := (g.sp c.slotB b.toNat).toNat
    s.sketchWord c (.skmerge a b) .merge (g.sp c.slotB a.toNat).toNat src [(src, true)]

/-- SKFOLD (R259). -/
def execSkfold (a b : BitVec 7) (s : State) : Host.Outcome State Fault Refusal :=
  word (.skfold a b) s fun c s =>
    let g := s.grp c.grp
    s.sketchWord c (.skfold a b) .fold (g.sp c.slotB a.toNat).toNat (g.sc c.slotB b.toNat).toNat []

/-- SKCLR (R260). -/
def execSkclr (a : BitVec 7) (s : State) : Host.Outcome State Fault Refusal :=
  word (.skclr a) s fun c s =>
    s.sketchWord c (.skclr a) .clr ((s.grp c.grp).sp c.slotB a.toNat).toNat 0 []

/-- SKSNAP (R262). -/
def execSksnap (a b : BitVec 7) (s : State) : Host.Outcome State Fault Refusal :=
  word (.sksnap a b) s fun c s =>
    let g := s.grp c.grp
    let img := (g.sp c.slotB b.toNat).toNat
    s.sketchWord c (.sksnap a b) .snap (g.sp c.slotB a.toNat).toNat img [(img, true)]

/-- SKSTAT (R261). -/
def execSkstat (d a : BitVec 7) (s : State) : Host.Outcome State Fault Refusal :=
  word (.skstat d a) s fun c s =>
    let base := ((s.grp c.grp).sp c.slotB a.toNat).toNat
    match skChecks base [] with
    | some k => s.raiseAt c 0x1C false k.1 k.2
    | none =>
      let p : Piece := { lane := 96, addr := base, len := 8, win := some base }
      s.access c 0x1C .skstat false [(96, .ok (false, [p]))] 8 d.toNat 2

/-- SKQV (R263). -/
def execSkqv (d a b : BitVec 7) (s : State) : Host.Outcome State Fault Refusal :=
  word (.skqv d a b) s fun c s =>
    let g := s.grp c.grp
    let base := (g.sp c.slotB a.toNat).toNat
    match skChecks base [] with
    | some k => s.raiseAt c 0x1C false k.1 k.2
    | none =>
      let lane (i : Nat) : Nat × Checked :=
        if (s.window (s.ctxOf c.grp) base).isNone then (i, .error (Code.SKADDR, base))
        else (i, .ok (false, [{ lane := i, addr := base, len := 8, ops := [g.v b.toNat i], win := some base }]))
      s.access c 0x1C .skqv false ((lanesOf c.lanes).map lane) 8 d.toNat 2

/-! ## Leaving the issue queue -/

/-- A step of a word on a region is sent to the region's home. -/
def State.sendSk (s : State) (g : Nat) (e : Entry) (op : SkOp) (base arg : Nat) : State :=
  let f : Flight := { entry := e, left := 1 }
  let s := s.modGrp g fun x => { x with flights := x.flights ++ [f] }
  s.pushReq { core := coreOf g, home := .llc (sliceOf base), ctx := s.ctxOf g, grp := g, fid := e.id
              body := .sk op base arg e.row none e.sat }

/-- A word of major 0x1C leaves the issue queue: SKDEF reads and checks its descriptor first (R256). None: it waits for fault service. -/
def State.leaveSk (s : State) (g : Nat) (e : Entry) (op : SkOp) (base arg : Nat) : Option State :=
  match op with
  | .skdef =>
    match s.readAt g arg 64 64 with
    | .error k =>
      if k.1 = Code.PFNP && s.hostMapped (s.ctxOf g) k.2 then none
      else some ((s.readEcc (s.granules (s.ctxOf g) k.2 1)).report g e [(96, k.1, k.2)] true false 0)
    | .ok bs =>
      let s := s.seenAt g arg 64
      some (if descOk bs then s.sendSk g e op base (leNat bs) else s.report g e [(96, Code.SKTYPE, arg)] true false 0)
  | _ => some (s.sendSk g e op base arg)

/-- A slot parked in a word on a region goes on once the word's step is done. -/
def State.wakeSketch (s : State) (g : Nat) (b : Bool) : State :=
  let x := s.grp g
  match (x.slot b).park with
  | none => s
  | some p =>
    let waiting := x.queue.any (fun e => e.id == p.id) || x.flights.any fun f => f.entry.id == p.id
    if p.why == ParkWhy.colander && !waiting then s.unpark g b else s

end Sys2Proof.Machine
end

