-- ==== Sys2Proof/Machine/Leave.lean ====
section
/-! DEFINITION. ISSUE_QUEUE_LEAVE: an entry of a group's issue queue leaves it once nothing holds it back (R162, R168). -/

namespace Sys2Proof.Machine

/-- The scope of the release part that an entry waits for (R139, R168, R182, R206, R276, R321). (DEDUCED, log 33) -/
def State.leaveScope (s : State) (b : EntryBody) : Scope :=
  match b with
  | .card cl ch id =>
    match (s.chan cl ch).queue.find? fun c => c.id == id with
    | some c => s.cardScope c
    | none => .grp
  | .arrive .. => .core
  | .publish .. => .core
  | .trig .. => .sys
  | .xcnt .. => .sys
  | .coll .. => .sys
  | .mat .. => .clu
  | .spawn _ => .pkg
  | .jdec .. => .pkg
  | .sk .. => .pkg
  | _ => .grp

/-- What an entry that waits for a release does when it leaves; none where it still has to wait. -/
def State.act (s : State) (g : Nat) (e : Entry) : Option State :=
  match e.body with
  | .card cl ch id => some (s.leaveCard cl ch id)
  | .arrive cl b wait => some (s.leaveArrive g e cl b wait)
  | .publish cl r rel k n => some (s.leavePublish g e cl r rel k n)
  | .trig cl ch c cnt t => some (s.leaveTrig (s.ctxOf g) cl ch c cnt t)
  | .xcnt cnt isAdd b _ => some (s.leaveXcnt g e cnt isAdd b)
  | .coll va blk compl ticket ttask => s.leaveColl g e va blk compl ticket ttask
  | .mat core id => some (s.leaveMat core id)
  | .spawn r => s.leaveSpawn g r
  | .jdec va lv => s.leaveJdec g e va lv
  | .sk op base arg => s.leaveSk g e op base arg
  | _ => none

/-- The queue without its entry `k`. -/
def State.unqueue (s : State) (g k : Nat) : State := s.modGrp g fun x => { x with queue := dropAt x.queue k }

/-- An access leaves: it becomes a flight, which ends at once where it needs no response. -/
def State.depart (s : State) (g k : Nat) (e : Entry) (go : State → Flight → State × Flight) : State :=
  if s.mayLeave g k then
    let r := go (s.unqueue g k) { entry := e, left := 0 }
    (r.1.modGrp g fun x => { x with flights := x.flights ++ [r.2] }).finishIf g r.2
  else s

/-- An entry with an implicit release: the first of the queue that it may have to wait for, once the release is complete. The context's dirty bytes
leave the L1 where the scope asks for it (R165). -/
def State.release (s : State) (g k : Nat) (e : Entry) : State :=
  let p := s.leaveScope e.body
  if !((s.grp g).earlier k e).isEmpty || !s.landed g e then s
  else if s.releasedFor g p e then
    match (s.unqueue g k).act g e with
    | some t => t
    | none => s
  else s.startRelease g p e

/-- Entry `k` of a group's queue leaves, if it may. A fence of group scope leaves at the head, once the maintenance words
before it are complete; FENCE_COMPLETE takes the others. (DEDUCED, log 33) -/
def State.leave (s : State) (g k : Nat) : State :=
  match (s.grp g).queue[k]? with
  | none => s
  | some e =>
    match e.body with
    | .mem kind bank ps =>
      s.depart g k e fun s f =>
        match (s.grp g).region? e with
        | some r => s.leaveRegion g r f kind bank ps
        | none => s.leaveMem g f kind bank ps
    | .maint x lvl va n => s.depart g k e fun s f => s.leaveMaint g f x lvl va n
    | .fence d .grp _ =>
      if ((s.grp g).earlier k e).isEmpty ∧ ((s.grp g).flights.any fun f => f.entry.isMaint) = false then s.endFence g k e d .grp else s
    | .fence .. => s
    | _ => s.release g k e

/-- ISSUE_QUEUE_LEAVE (R162). -/
def execIssueQueueLeave (grp k : Nat) (s : State) : Host.Outcome State Fault Refusal := .next (s.leave grp k)

end Sys2Proof.Machine
end

