-- ==== Sys2Proof/Machine/Try.lean ====
section
/-! DEFINITION. Try regions (R141-R158): TRY, COMMIT, ABORT, TSTAT, TDEPTH, the commit point, and the abort by a conflict.
The store buffer stands in Region.lean, the rollback in Ops.lean. -/

namespace Sys2Proof.Machine

/-! ## TRY (R141, R142) -/

/-- A store, atomic or RED of the group has not returned its completion. -/
def Group.storesOut (g : Group) : Bool :=
  let st (e : Entry) : Bool := e.storing && !e.isMaint
  g.queue.any st || g.flights.any (fun f => st f.entry) || !g.deferred.isEmpty

/-- The waits of an outermost TRY are over. (DEDUCED, log 54) -/
def State.tryReady (s : State) (g : Nat) (b : Bool) : Bool :=
  let x := s.grp g
  x.out.isEmpty && !s.repLeft g b && x.spec.isNone && !x.storesOut && x.trap.isNone && (x.slot (!b)).st != SlotSt.run &&
    decide (s.trySlotsUsed (coreOf g) < 4)

/-- Opens a region: takes a try slot with its checkpoint. -/
def State.openTry (s : State) (g : Nat) (b : Bool) (l : BitVec 1) (target : Dword) : State :=
  let x := s.grp g
  let y := x.slot b
  let r : TryRegion :=
    { depth := 1, startId := s.nextId, laneMode := l == 1, slotB := b, target := target, savedPoint := y.point
      ckpt := { regs := x.regs, trapRegs := x.trapRegs, a := x.a, b := x.b }, otherFree := (x.slot (!b)).st == SlotSt.free }
  s.setGrp g ({ x with tryR := some r }.setSlot b { y with point := none, park := none, seq := y.seq + 1 })

/-- The abort target of a TRY at a word index. -/
def tryTarget (pos : Dword) (o : BitVec 23) : Dword := BitVec.ofInt 64 (3 * (pos.toNat / 3 + o.toInt))

/-- TRY (R141). -/
def execTryBegin (l : BitVec 1) (o : BitVec 23) (s : State) : Host.Outcome State Fault Refusal :=
  word (.tryBegin l o) s fun c s =>
    match (s.grp c.grp).tryR with
    | some r =>
      if 4 ≤ r.depth then s.trapE c Code.TRYNEST
      else s.modGrp c.grp fun x => { x with tryR := some { r with depth := r.depth + 1 } }
    | none =>
      if s.tryReady c.grp c.slotB then s.openTry c.grp c.slotB l (tryTarget c.pos o)
      else s.park c .tryWait (.tryBegin l o) 0 0

/-! ## COMMIT (R156, R157) -/

/-- Rollback lanes after the closure over forwarding, once per lane at most (R153). (DEDUCED, log 56) -/
def closeLanes (fwd : List (Nat × Nat)) : Nat → Mask → Mask
  | 0, m => m
  | n + 1, m => closeLanes fwd n (fwd.foldl (fun m e => if m.getLsbD e.2 then m ||| maskOf [e.1] else m) m)

/-- The rollback lanes of a lane-mode region at its outermost COMMIT (R153). (DEDUCED, log 56) -/
def TryRegion.rollLanes (r : TryRegion) (active : Mask) : Mask :=
  if !r.laneMode || r.roll == 0 then 0
  else
    let m := closeLanes r.fwd 96 r.roll
    if r.combined then m ||| active else m

/-- Distinct lines of the bytes that the commit writes, in buffer order. (DEDUCED, log 55) -/
def commitLines (bs : List BufByte) : List (Bool × Nat) := (bs.map fun b => (b.bank, b.addr / 128)).eraseDups

/-- The bytes of one line: mask and data, the last write of a byte standing. -/
def commitLine (bs : List BufByte) (l : Bool × Nat) : BitVec 128 × List Byte :=
  let mine := bs.filter fun b => b.bank == l.1 && b.addr / 128 == l.2
  let m := mine.foldl (fun m b => m ||| lineMask (b.addr % 128) 1) 0
  (m, (List.range 128).map fun i =>
    match mine.reverse.find? fun b => b.addr % 128 == i with
    | some b => b.val
    | none => 0)

/-- The line lies in the group's private area (R129). -/
def State.privLine (s : State) (g line : Nat) : Bool :=
  let base := s.privBase g
  decide (base ≤ 128 * line) && decide (128 * line < base + (s.wg (s.grp g).wg).hdr.area)

/-- Answers of the lock (R156): the fault of a home, or a page that is frozen now. -/
def State.lockCause (s : State) (g : Nat) (bs : List BufByte) : Option Cause :=
  let ctx := s.ctxOf g
  (commitLines bs).findSome? fun l =>
    let x := commitLine bs l
    if l.1 then
      let owner := ownerOf g (128 * l.2)
      let held (i : Nat) : Bool := s.spadRange ctx owner (128 * l.2 % 262144 + i) 1
      if (List.range 128).all fun i => !x.1.getLsbD i || held i then none else some Code.CSPBND
    else
      match s.translate ctx (128 * l.2) .write with
      | .error c => some c
      | .ok _ =>
        if s.privLine g l.2 then none
        else if (s.eccCheck (s.splitGranules ctx (128 * l.2) x.1).2).isSome then some Code.RMWU
        else none

/-- The reads of partly written granules that the lock makes find those that have failed (R240, R241). -/
def State.lockEcc (s : State) (g : Nat) (bs : List BufByte) : State :=
  s.readEcc ((commitLines bs).flatMap fun l =>
    if l.1 then [] else (s.splitGranules (s.ctxOf g) (128 * l.2) (commitLine bs l).1).2)

/-- One line of the write set at the commit point: to the L1 for private bytes, to its bank or to its LLC home. -/
def State.commitOne (s : State) (g : Nat) (bs : List BufByte) (l : Bool × Nat) : State :=
  let x := commitLine bs l
  let core := coreOf g
  let ctx := s.ctxOf g
  if l.1 then
    let owner := ownerOf g (128 * l.2)
    let p := 128 * l.2 % 262144
    let c := s.core owner
    let spad := (List.range 128).foldl (fun m i => if x.1.getLsbD i then setCell m (p + i) (x.2.getD i 0) else m) c.spad
    (s.setCore owner { c with spad := spad }).written true 0 (2048 * owner + p / 128) (some g)
  else if s.privLine g l.2 then (s.setCore core ((s.core core).storeMasked ctx l.2 x.1 x.2 (g % 32))).fitL1 core
  else (s.homeWrite ctx l.2 x.1 x.2 (some g)).2.dropClean core ctx l.2

/-- The commit point, and what follows it (R156). (DEDUCED, log 55) -/
def State.commitPoint (s : State) (g : Nat) (b : Bool) (r : TryRegion) : State :=
  let x := s.grp g
  let roll := r.rollLanes (x.slot b).active
  let bs := r.buf.filter fun y => !roll.getLsbD y.lane
  let s := (commitLines bs).foldl (fun s l => s.commitOne g bs l) s
  let s := s.unwatch g .region
  if roll = 0 then
    s.modGrp g fun y =>
      { y with tryR := none, tstat := 0, troll := 0 }.setSlot b { y.slot b with point := r.savedPoint, park := none }
  else s.modGrp g fun y => y.rollback r roll (tryStatus abLANE 0 r.depth 0) roll

/-- Accesses of the region are still on their way. (DEDUCED, log 54) -/
def Group.regionBusy (g : Group) (r : TryRegion) : Bool :=
  let mine (e : Entry) : Bool := decide (r.startId ≤ e.id)
  g.queue.any mine || g.flights.any fun f => mine f.entry

/-- COMMIT at depth 1 once the slots have met: none while it must wait; dirty bytes leave the L1 meanwhile (R157). (DEDUCED, log 54) -/
def State.commitStep (s : State) (g : Nat) (b : Bool) (r : TryRegion) : Option State :=
  let x := s.grp g
  let ctx := s.ctxOf g
  if !x.out.isEmpty || s.repLeft g b || x.regionBusy r then none
  else if s.wbDone (coreOf g) ctx r.moved = false then
    if r.moved ≠ 0 then none
    else
      let s := s.pushDirty (coreOf g) ctx
      some (s.modGrp g fun y => { y with tryR := some { r with moved := s.nextId } })
  else
    match s.lockCause g r.buf with
    | some c => some ((s.lockEcc g r.buf).abortTry g abTRAP c 0)
    | none =>
      if (commitLines r.buf).any fun l => !l.1 && s.frz ctx (128 * l.2) then none
      else if !r.laneMode && r.conflict then some (s.abortTry g abCONFLICT 0 0)
      else some (s.commitPoint g b r)

/-- COMMIT has ended: its region is gone or the slot has been rolled back. -/
def State.commitDone (s : State) (g : Nat) : Bool := (s.grp g).tryR.isNone

/-- COMMIT (R156). -/
def execCommitTry (s : State) : Host.Outcome State Fault Refusal :=
  word .commitTry s fun c s =>
    let x := s.grp c.grp
    match x.tryR with
    | none => s.trapE c Code.COMMITNT
    | some r =>
      if 1 < r.depth then s.modGrp c.grp fun y => { y with tryR := some { r with depth := r.depth - 1 } }
      else if r.otherFree && (x.slot (!c.slotB)).st != SlotSt.free then
        let p := c.target 0
        ((s.modSlot c.grp c.slotB fun y => { y with st := .wait, point := some p, pc := p }).fixed).r14 c.grp c.slotB
      else
        match s.commitStep c.grp c.slotB r with
        | some t =>
          if t.commitDone c.grp then
            if ((t.grp c.grp).slot c.slotB).pc == r.target && (t.grp c.grp).tstat != 0 then t.fixed else t
          else t.park c .commitWait .commitTry 0 0
        | none => s.park c .commitWait .commitTry 0 0

/-! ## ABORT, TSTAT, TDEPTH (R154, R155) -/

/-- ABORT (R155). -/
def execAbortTry (a : BitVec 7) (s : State) : Host.Outcome State Fault Refusal :=
  word (.abortTry a) s fun c s =>
    let x := s.grp c.grp
    match x.tryR with
    | none => s.trapE c Code.COMMITNT
    | some _ => s.abortTry c.grp abEXPLICIT 0 ((x.sc c.slotB a.toNat).toNat % 256)

/-- TSTAT (R154): the status word goes to s(4D + 3), the rollback mask to qD. -/
def execTstat (d : BitVec 7) (s : State) : Host.Outcome State Fault Refusal :=
  word (.tstat d) s fun c s =>
    let x := s.grp c.grp
    (s.postQ c d.toNat x.troll).postS c (4 * d.toNat + 3) x.tstat

/-- TDEPTH (R154). -/
def execTdepth (d : BitVec 7) (s : State) : Host.Outcome State Fault Refusal :=
  word (.tdepth d) s fun c s =>
    let n := match (s.grp c.grp).tryR with | some r => r.depth | none => 0
    s.postS c d.toNat (BitVec.ofNat 32 n)

/-! ## TRY_CONFLICT_ABORT (R152) -/

/-- A group-mode region with a pending conflict is rolled back once nothing of the group is outstanding. -/
def State.conflictAbort (s : State) (g : Nat) : State :=
  let x := s.grp g
  match x.tryR with
  | none => s
  | some r => if !r.laneMode && r.conflict && x.out.isEmpty then s.abortTry g abCONFLICT 0 0 else s

/-- TRY_CONFLICT_ABORT (R152). (DEDUCED, log 55) -/
def execTryConflictAbort (grp : Nat) (s : State) : Host.Outcome State Fault Refusal := .next (s.conflictAbort grp)

end Sys2Proof.Machine
end

