-- ==== Sys2Proof/Machine/Issue.lean ====
section
/-! DEFINITION. ISSUE_CYCLE and HANG_LIMIT_EXPIRY: parks and the hang clock (R123), firmware's refusals (R229), the selection of what issues (R122),
the packet's start (R13, R18). The bundles chosen stand in `State.issued`; Run.lean executes their words. -/

namespace Sys2Proof.Machine

/-! ## Parks (R123) -/

/-- Work-group `no` is served as latency class while firmware works on a fault (R229). -/
def State.latencyWg (s : State) (no : Nat) : Bool := (s.wg no).hdr.latency || !s.saveOk no

/-- Groups of a core. -/
def State.groupsOn (s : State) (core : Nat) : List Nat := (s.groups.map Prod.fst).filter fun g => coreOf g == core

/-- Every group of the core waits for a fault service (R229). -/
def State.stalled (s : State) (core : Nat) : Bool :=
  (s.groupsOn core).any fun g => s.latencyWg (s.grp g).wg && s.asks g

/-- A strict fence parks its group (R138); one from before the trap whose handler runs does not park the handler while a replay that the
fence waits for is the handler's to decide (R172). (DESIGN CHOICE, log 92) -/
def Group.fencePark (x : Group) : Bool :=
  x.queue.any fun e => e.strictFence && !(x.priv && !e.handler && !x.replays.isEmpty)

/-- The group is parked for a counted reason of R123 that both slots share. -/
def State.groupHeld (s : State) (g : Nat) : Bool :=
  let x := s.grp g
  let full (y : Slot) : Bool := match y.park with
    | some p => (match p.why with | .queueFull _ => true | _ => false)
    | none => false
  s.asks g || s.stalled (coreOf g) || s.frozenPark g || x.fencePark || full x.a || full x.b

/-- The slot's hang clock runs: it is parked for a counted reason, be it for a sync marker or a trap as well (R123). (DEDUCED, log 14) -/
def State.hangRuns (s : State) (g : Nat) (b : Bool) : Bool :=
  let x := s.grp g
  let y := x.slot b
  let own := match y.park with
    | some p => p.why != .commitWait && p.why != .returnWait
    | none => false
  !x.dead && y.st == .run && (own || s.groupHeld g)

/-- Hang limit of a context in ns, none for 0 (R278). (DEDUCED, log 14) -/
def Ctx.hangLimit (c : Ctx) : Option Nat :=
  let h := fld c.sched.toNat 50 6
  if h = 0 then none else some (1000 * 2 ^ min 30 (max 10 h))

/-- HANG_LIMIT_EXPIRY (R123): the slot's hang clock has passed the limit. (DEDUCED, log 14) -/
def execHangLimitExpiry (grp : Nat) (slotB : Bool) (s : State) : Host.Outcome State Fault Refusal :=
  let y := (s.grp grp).slot slotB
  .next (match (s.ctx (s.ctxOf grp)).hangLimit with
    | none => s
    | some n =>
      if n < y.hang then
        let pos := match y.park with | some p => p.pos | none => y.pc
        s.raise grp { cause := Code.HANG, cls := .a, slotB := slotB, pos := pos }
      else s)

/-- A word that waits as after a marked bundle, or for the region before it, lets the REP of its bundle go on. -/
def ParkWhy.afterRep (p : ParkWhy) : Bool := [ParkWhy.tryWait, .commitWait, .returnWait].contains p

/-- The group or the slot may not issue now: parks, a trap to be taken, another slot's handler, deferred faults (R103), a
conflict in a group-mode region (R152), a save (R281), iterations left of a REP whose bundle has given the slot's lanes away (R30). The
waits for a trap and for a save include the iterations left of a REP (R32, R102). -/
def State.slotHeld (s : State) (g : Nat) (b : Bool) : Bool :=
  let x := s.grp g
  let y := x.slot b
  let going := !y.repDone
  x.dead || y.st != .run || x.sync || (x.trap.isSome && !going) || (x.priv && b != x.privB) ||
    (y.park.any fun p => !(going && p.why.afterRep)) || (x.deferred.any fun r => r.slotB == b) ||
    (x.slot (!b)).repBank.isSome || (match x.tryR with | some r => !r.laneMode && r.conflict | none => false) ||
    ((s.wg x.wg).saving && !x.priv && !going) ||
    s.groupHeld g

/-! ## Before the selection -/

/-- A word whose page firmware has looked at issues again, before the iterations of a REP that are left (R229); `declined` is the page that
firmware has refused to map. -/
def State.reissueWord (s : State) (g : Nat) (b : Bool) (p : Park) (declined : Option Nat) : State :=
  let y := (s.grp g).slot b
  let left := match y.rep with | some n => n.words ++ n.later | none => []
  let i : Issue :=
    { grp := g, slotB := b, pos := p.pos, words := [{ c := p.arg2.getLsbD 31, s := p.arg2.getLsbD 30, instr := p.word, raw := p.arg2 }]
      next := y.pc, marked := p.arg == 1
      serial := p.serial, lanes := p.lanes, repi := p.repi, later := left
      repPos := match y.rep with | some n => n.repPos | none => p.pos, gone := true, declined := declined }
  s.modSlot g b fun y => { y with park := none, rep := some i }

/-- A park that may end while a speculative fence is pending: its word only waits, and posts nothing when it goes on. -/
def ParkWhy.pure (p : ParkWhy) : Bool :=
  match p with
  | .ring _ | .copyWait _ | .matrixWait => true
  | _ => false

/-- A slot parked inside a word goes on if the word can (R123). -/
def State.tryWake (s : State) (g : Nat) (b : Bool) : State :=
  let x := s.grp g
  match (x.slot b).park with
  | none => s
  | some p =>
    if x.spec.isSome && !p.why.pure then s
    else
      match p.why with
      | .ring _ => s.wakeRing g b
      | .queueFull _ => s.wakePost g b
      | .allowance => s.wakePost g b
      | .copyWait _ => s.wakeCopy g b
      | .matrixRoom => s.wakeRoom g b
      | .matrixWait => s.wakeMat g b
      | .colander => s.wakeSketch g b
      | .service va => if (s.leaf (s.ctxOf g) va).isSome then s.reissueWord g b p none else s
      | .tryWait =>
        match p.word with
        | .tryBegin l o => if s.tryReady g b then s.openTry g b l (tryTarget p.pos o) else s
        | _ => s
      | .commitWait =>
        match x.tryR with
        | some r => (s.commitStep g b r).getD s
        | none => s
      | .returnWait => if s.returnReady g then (s.unpark g b).doReturn g b p.word else s
      | .barrier _ => s
      | .counter _ => s

/-- The packet's start: q14's bank governs from here on (R18); it must have landed. (DEDUCED, log 12) -/
def Group.atPacket (x : Group) (b : Bool) : Option Group :=
  let y := x.slot b
  let act (r : Result) : Bool := r.slotB == b && (match r.reg with | .act _ => true | _ => false)
  if y.pc.toNat % 3 ≠ 0 then some x
  else if x.out.any act then none
  else some (x.setSlot b { y with active := y.bank })

/-- A slot that has reached its reconvergence point waits there, once its outstanding writes of q14 have landed (R13, R18). -/
def State.cross (s : State) (g : Nat) (b : Bool) : State :=
  let y := (s.grp g).slot b
  if !s.slotHeld g b && (s.grp g).spec.isNone && y.rep.isNone && y.point == some y.pc then
    match (s.grp g).atPacket b with
    | none => s
    | some x => ((s.setGrp g x).modSlot g b fun y => { y with st := .wait }).r14 g b
  else s

/-- Both slots of every group of a core. -/
def State.eachSlot (s : State) (core : Nat) (f : State → Nat → Bool → State) : State :=
  (s.groupsOn core).foldl (fun s g => f (f s g false) g true) s

/-- An issue cycle of a core: the first one of a core in a package cycle belongs to that cycle, a second one begins the next (R21). The
cycles of 1 ns since the core's last one pass on its pipes, its contexts' residency (R279), its slots' hang clocks. (DEDUCED, log 11;
DESIGN CHOICE, log 91) -/
def State.tick (s : State) (core : Nat) : State :=
  let last := (s.core core).cycles
  let now := if last < s.cycles then s.cycles else s.cycles + 1
  let n := now - last
  let s := { s with cycles := now }
  let ctxs := ((s.resident core).map fun w => w.2.ctx).eraseDups
  let s := s.eachSlot core fun s g b => if s.hangRuns g b then s.modSlot g b fun y => { y with hang := y.hang + n } else s
  s.modCore core fun c => { c with
    cycles := now, busyA := c.busyA - n, busyB := c.busyB - n, resid := ctxs.foldl (fun t k => tset t k (tgetD t k 0 + n)) c.resid }

/-! ## Selection (R122) -/

/-- Words that may issue past a pending speculative fence (R138): those that change registers only or only wait, branches, calls and
returns, and accesses, which wait in the queue. (DEDUCED, log 16) -/
def Group.pastFence (x : Group) (b : Bool) (d : DWord) : Bool :=
  match pipeOf d.raw.toNat with
  | .s => true
  | .v => true
  | .vb => (match d.instr with | .tmld .. => false | _ => true)
  | .m => true
  | .none => true
  | .x => match d.instr with
    | .bra .. | .bz .. | .bnz .. | .bany .. | .ball .. | .balw .. | .bnone .. => true
    | .call .. | .calls .. | .jmpi .. | .ret | .reconv .. | .mfs .. | .mts .. | .widf .. | .yield => true
    | .tstat .. | .tdepth .. | .qstat .. | .frame .. | .pstat .. | .xwait .. | .rgstat .. => true
    | .barst .. | .barwt .. | .cpywp .. | .cpywt .. | .alwr .. | .mwait .. => true
    | .cpyst _ _ r | .xstat _ _ r => x.sc b r.toNat == 0
    | _ => false

/-- An access of the slot whose fault would be of class D is on its way (R103). (DEDUCED, log 17) -/
def Group.deferring (x : Group) (b : Bool) : Bool :=
  let st (e : Entry) : Bool := e.slotB == b && (match e.body with | .mem k _ _ => !k.returns && k.writes | _ => false)
  x.queue.any st || x.flights.any fun f => st f.entry

end Sys2Proof.Machine

namespace Sys2Proof

/-- Words on Colander regions that first wait as after a marked bundle (R255). -/
def Instr.sketchWait (i : Instr) : Bool :=
  match i with
  | .skdef .. | .skundef .. | .skmerge .. | .skfold .. | .skclr .. | .sksnap .. => true
  | _ => false

end Sys2Proof

namespace Sys2Proof.Machine

/-- What holds back a bundle for its words: a pending speculative fence, a fault of class D that may still come, the earlier
iteration of an access under REP, a shared scalar whose value is still to come, the wait of a word on a Colander region, which comes
before all it does. (DEDUCED, log 16; DESIGN CHOICE, log 40) -/
def Group.bundleHeld (x : Group) (b : Bool) (i : Issue) : Bool :=
  let fence := i.words.any fun d => match d.instr with | .fence .. => true | _ => false
  let mem := i.words.any fun d => [Pipe.m, Pipe.x].contains (pipeOf d.raw.toNat)
  (x.spec.isSome && (i.marked || !i.words.all (x.pastFence b))) || ((i.marked || fence) && x.deferring b) ||
    (!x.out.isEmpty && i.words.any fun d => d.instr.sketchWait) || (i.words.any fun d => x.reads b d.instr (x.unsettled b)) ||
    (0 < i.repi && i.serial != 0 && mem &&
      (x.queue.any (fun e => e.serial == i.serial) || x.flights.any fun f => f.entry.serial == i.serial))

/-- What becomes of a slot in the walk over the candidates. -/
inductive Pick where
  | skip
  | blocked (ps : List Nat)
  | raised (s : State)
  | issue (i : Issue) (ps : List Nat)

/-- The priority level of a group slot of a core. -/
def State.slotLevel (s : State) (core k : Nat) : Nat := (s.wg (s.grp (32 * core + k)).wg).prio

/-- The claims of group slot `j` come before what group slot `k` needs: `j` is of a higher level, or of the same one with the older claim, so
that no two groups wait for one another's claims (R122). (DEDUCED, log 11) -/
def State.claimsBefore (s : State) (core j k : Nat) : Bool :=
  let c := s.core core
  let age (g : Nat) : Nat := c.claims.findIdx fun x => x.2 == g
  j != k && (decide (s.slotLevel core k < s.slotLevel core j) || s.slotLevel core k == s.slotLevel core j && decide (age j < age k))

/-- Pipe `p` is taken in this cycle, still occupied, or claimed for a group that comes before. -/
def State.taken (s : State) (core : Nat) (used : List Nat) (k p : Nat) : Bool :=
  let c := s.core core
  used.contains p || (p == 1 && c.busyA != 0) || (p == 2 && c.busyB != 0) ||
    c.claims.any fun x => x.1 == p && s.claimsBefore core x.2 k

/-- The pipes of a bundle, or those that hold it back. (DEDUCED, log 11) -/
def State.place (s : State) (core : Nat) (used : List Nat) (k : Nat) (i : Issue) : Pick :=
  let c := s.core core
  let t := s.taken core used k
  let ps := pipesOf (i.words.map fun d => pipeOf d.raw.toNat) (!t 1) (!t 2) (decide (c.busyA ≤ c.busyB))
  if ps.any t then .blocked (ps.filter t) else .issue i ps

/-- A cause of class I that the bundle at a slot's counter raises. -/
def State.raiseBundle (s : State) (g : Nat) (b : Bool) (j : Nat) (c : Cause) (info : Word) (va : Option Nat) (repi : Nat) :
    State :=
  let y := (s.grp g).slot b
  let adr := match va with
    | some a => (List.range 96).map fun i => if y.active.getLsbD i then BitVec.ofNat 64 a else 0
    | none => []
  let s := match va with
    | some a => { s.readEcc (s.granules (s.ctxOf g) a 1) with free := s.free + 1 }
    | none => s
  let s := s.touchRead (s.ctxOf g) (4 * y.pc.toNat) (4 * (j + 1))
  (s.raise g { cause := c, cls := .i, slotB := b, pos := y.pc + BitVec.ofNat 64 j, mask := y.active, info := info, faddr := adr
               repi := repi, resume := y.pc }).settle g

/-- The bundle's check reads the control word of an MMA that has no value yet (R19). -/
def State.handleUnsettled (s : State) (g : Nat) (x : Group) (b : Bool) : Bool :=
  let pc := (x.slot b).pc.toNat
  ((s.rawBundle (s.ctxOf g) (3 - pc % 3) pc).1.filterMap rawWord).any fun d => match d.instr with
    | .mma .. => x.reads b d.instr (x.unsettled b)
    | _ => false

/-- What a slot would issue now. (DEDUCED, log 12) -/
def State.pickSlot (s : State) (used : List Nat) (g : Nat) (b : Bool) : Pick :=
  if s.slotHeld g b then .skip
  else
    let try_ (x : Group) (i : Issue) : Pick := if x.bundleHeld b i then .skip else s.place (coreOf g) used (g % 32) i
    let x := s.grp g
    match (x.slot b).rep with
    | some i => try_ x i
    | none =>
      match (if (x.slot b).point == some (x.slot b).pc then none else x.atPacket b) with
      | none => .skip
      | some x =>
        let y := x.slot b
        match (s.setGrp g x).bundle g b y.pc with
        | .wait .. => .skip
        | .bad j k info va r => if s.handleUnsettled g x b then .skip else .raised ((s.setGrp g x).raiseBundle g b j k info va r)
        | .ok ws =>
          try_ x { grp := g, slotB := b, pos := y.pc, words := ws, next := y.pc + BitVec.ofNat 64 ws.length
                   marked := ws.any fun d => d.s, serial := 0, lanes := y.active }

/-! ## Firmware's refusals (R229) -/

/-- Firmware declines the lane: it was refused PFWP, or its page is one that the host has not mapped. (DEDUCED, log 36) -/
def State.laneDeclined (s : State) (ctx : Nat) (b : Bad) : Bool :=
  !s.nowMapped ctx b && (b.2.1 == Code.PFWP || !s.hostMapped ctx b.2.2)

/-- Firmware declines lanes of an access: those raise their cause; the others, whose pages the host has mapped, are replayed and end the
access. -/
def State.declineLanes (s : State) (g : Nat) (f : Flight) : State :=
  let no := s.laneDeclined (s.ctxOf g)
  let go := ((serviceable f.bad).filter fun b => !no b).map fun b => b.1
  if !f.serviced || !(serviceable f.bad).any no then s
  else if go.isEmpty then s.finish g f true
  else s.replayLanes g f go

/-- Firmware declines the page that a slot waits for, in a word that reads it at its issue or in the fetch of its next bundle. -/
def State.declineSlot (s : State) (g : Nat) (b : Bool) : State :=
  let ctx := s.ctxOf g
  let no (va : Nat) : Bool := (s.leaf ctx va).isNone && !s.hostMapped ctx va
  match ((s.grp g).slot b).park with
  | some p => match p.why with
    | .service va => if no va then s.reissueWord g b p (some (va / 262144)) else s
    | _ => s
  | none =>
    match s.fetchAsk g b with
    | some (j, va) => if no va then s.raiseBundle g b j Code.PFNP (s.fetchInfo ctx va Code.PFNP) (some va) 0 else s
    | none => s

/-- FAULT_SERVICE_DECLINE (R229): `k` names an access of the group, or past its accesses a slot, A and then B. (DEDUCED, log 36) -/
def execFaultServiceDecline (grp k : Nat) (s : State) : Host.Outcome State Fault Refusal :=
  let fs := (s.grp grp).flights
  .next (if !s.served then s
    else match fs[k]? with
      | some f => s.declineLanes grp f
      | none => if k ≤ fs.length + 1 then s.declineSlot grp (k != fs.length) else s)

/-- The slot issues: its number, its hang clock, the pipes it occupies; a vector word occupies its pipe for three beats. The fetch of its
bundle touches the windows of its lines (R233). -/
def State.issue (s : State) (g : Nat) (b : Bool) (i : Issue) (ps : List Nat) : State :=
  let (n, s) := (if i.serial = 0 then s.touchRead (s.ctxOf g) (4 * i.pos.toNat) (4 * i.words.length) else s).fresh
  let x := ((s.grp g).atPacket b).getD (s.grp g)
  let x := if (x.slot b).rep.isSome then s.grp g else x
  let i := { i with serial := if i.serial = 0 then n else i.serial }
  let s := s.setGrp g (x.setSlot b { x.slot b with last := n, hang := 0, rep := none })
  let s := s.modCore (coreOf g) fun c => { c with
    busyA := if ps.contains 1 then 3 else c.busyA
    busyB := if ps.contains 2 then 3 else c.busyB
    claims := c.claims.filter fun x => x.2 != g % 32 }
  { s with issued := s.issued ++ [i] }

/-- The walk over the candidates of a cycle: pipes used so far, the first group that issued at the level, and whether no candidate of the
level has come yet. -/
structure Walk where
  s : State
  used : List Nat := []
  first : Option Nat := none
  lead : Bool := true

/-- Claims for the group at its level's pointer, the first candidate from there on, the pipes that its bundle lacks. (DEDUCED, log 11) -/
def State.claim (s : State) (g : Nat) (ps : List Nat) : State :=
  s.modCore (coreOf g) fun c => { c with
    claims := c.claims ++ (ps.filter fun p => !c.claims.contains (p, g % 32)).map fun p => (p, g % 32) }

/-- A group that may not issue now, because it has ended, parks or takes a trap, keeps no claim: claims are for eligible groups (R122).
(DEDUCED, log 11) -/
def State.dropClaims (s : State) (core : Nat) : State :=
  let eligible (b : Bool) (k : Nat) : Bool := match s.pickSlot [] (32 * core + k) b with
    | .blocked _ => true
    | .issue _ _ => true
    | _ => false
  s.modCore core fun c => { c with
    claims := c.claims.filter fun x => (tget s.groups (32 * core + x.2)).isSome && (eligible false x.2 || eligible true x.2) }

/-- One slot of a group in the walk; true once the group has had its turn. -/
def Walk.slot (w : Walk) (g : Nat) (b pointer : Bool) : Walk × Bool :=
  match w.s.pickSlot w.used g b with
  | .skip => (w, false)
  | .blocked ps => ({ w with s := if pointer then w.s.claim g ps else w.s, lead := false }, false)
  | .raised s => ({ w with s := s, lead := false }, true)
  | .issue i ps =>
    ({ s := w.s.issue g b i ps, used := w.used ++ ps, first := if w.first.isNone then some (g % 32) else w.first, lead := false }, true)

/-- One group in the walk: the slot that issued less recently first. -/
def Walk.group (w : Walk) (g : Nat) : Walk :=
  let x := w.s.grp g
  let b := decide (x.b.last < x.a.last)
  let r := w.slot g b w.lead
  if r.2 then r.1 else (r.1.slot g (!b) w.lead).1

/-- A list turned so that it begins behind element `k`. -/
def turnBehind (k : Nat) (l : List Nat) : List Nat :=
  (l.dropWhile fun x => x != k).drop 1 ++ (l.takeWhile fun x => x != k) ++ [k]

/-- The groups of one level, from its pointer on; the pointer then moves behind the first that issued. -/
def Walk.level (w : Walk) (core lv : Nat) : Walk :=
  let order := (w.s.core core).order lv
  let here := order.filter fun k => (tget w.s.groups (32 * core + k)).isSome && (w.s.wg (w.s.grp (32 * core + k)).wg).prio == lv
  let w := here.foldl (fun (w : Walk) k => w.group (32 * core + k)) { w with first := none, lead := true }
  match w.first with
  | none => w
  | some k => { w with s := w.s.modCore core fun c => { c with rr := tset c.rr lv (turnBehind k order) } }

/-- A cycle in which the core may issue. (DEDUCED, log 11) -/
def State.selectAll (s : State) (core : Nat) : State :=
  let s := ((s.eachSlot core State.tryWake).eachSlot core State.cross).dropClaims core
  ([3, 2, 1, 0].foldl (fun (w : Walk) lv => w.level core lv) { s := s }).s

/-- ISSUE_CYCLE (R122): a core whose clock stands or whose cycle is withheld issues nothing (R296). (DEDUCED, log 10) -/
def execIssueCycle (core : Nat) (s : State) : Host.Outcome State Fault Refusal :=
  let s := s.tick core
  .next (if 3200 ≤ core ∨ s.clocked core = false then s
    else if (s.core core).withheld then s.modCore core fun c => { c with withheld := false, rested := true }
    else (s.modCore core fun c => { c with rested := false }).selectAll core)

end Sys2Proof.Machine
end

