-- ==== Sys2Proof/Machine/Pinning.lean ====
section
/-! DEFINITION. Pinned windows (R232-R235): PIN, UNPIN, PTOUCH, PSTAT, the background load and the fade period; the token
buckets of regulated agents (R236). -/

namespace Sys2Proof.Machine

/-- 384 MiB. -/
def pinMax : Nat := 402653184

/-- Bytes that a context has pinned. -/
def Ctx.pinned (c : Ctx) : Nat := (c.pins.map fun p => p.2.len).sum

/-- Bytes pinned in the package. -/
def State.pinnedAll (s : State) : Nat := (s.ctxs.map fun c => c.2.pinned).sum

/-- The lowest free number of a window. -/
def Ctx.freePin (c : Ctx) : Option Nat := (List.range 64).find? fun k => (tget c.pins k).isNone

/-- A window status word (R235). -/
def PinWin.status (w : PinWin) : Word :=
  BitVec.ofNat 32 (2147483648 + w.touched.toNat * 1073741824 + w.fade % 256 * 4194304 + w.len / 262144)

/-- PIN's window, or the cause that refuses it (R234). -/
def State.pinWindow (s : State) (ctx start len : Nat) : Except Cause Nat :=
  let c := s.ctx ctx
  let clash (p : Nat × PinWin) : Bool := decide (p.2.start < start + len) && decide (start < p.2.start + p.2.len)
  if !canonical start then .error Code.NCADDR
  else if start % 262144 ≠ 0 ∨ len % 262144 ≠ 0 ∨ len = 0 ∨ pinMax < len then .error Code.CMAINT
  else
    match c.freePin with
    | none => .error Code.PINFULL
    | some k => if c.pins.any clash || decide (pinMax < s.pinnedAll + len) then .error Code.PINFULL else .ok k

/-- Changes a window of a context. -/
def State.modPin (s : State) (ctx k : Nat) (f : PinWin → PinWin) : State :=
  let c := s.ctx ctx
  match tget c.pins k with
  | some w => s.setCtx ctx { c with pins := tset c.pins k (f w) }
  | none => s

/-- A class E cause of PIN; only NCADDR has an address. -/
def State.pinFault (s : State) (c : Cursor) (k : Cause) (va : Nat) : State :=
  if k = Code.NCADDR then s.raiseAt c 0x1D false k va else s.raiseE c k 0 0 (memInfo 0x1D false) []

/-- PIN (R234). (DEDUCED, log 38) -/
def execPin (d a b : BitVec 7) (s : State) : Host.Outcome State Fault Refusal :=
  word (.pin d a b) s fun c s =>
    let g := s.grp c.grp
    let ctx := s.ctxOf c.grp
    let start := (g.sp c.slotB a.toNat).toNat
    let len := (g.sc c.slotB b.toNat).toNat
    match s.pinWindow ctx start len with
    | .error k => s.pinFault c k start
    | .ok k =>
      let x := s.ctx ctx
      let x := { x with pins := tset x.pins k { start := start, len := len } }
      (s.setCtx ctx x).postSP c d.toNat (BitVec.ofNat 32 (x.pinned / 262144) ++ BitVec.ofNat 32 k : BitVec 64)

/-- UNPIN (R234). -/
def execUnpin (a : BitVec 7) (s : State) : Host.Outcome State Fault Refusal :=
  word (.unpin a) s fun c s =>
    let ctx := s.ctxOf c.grp
    let x := s.ctx ctx
    s.setCtx ctx { x with pins := tdel x.pins ((s.grp c.grp).sc c.slotB a.toNat).toNat }

/-- A window just touched. -/
def PinWin.touch (w : PinWin) : PinWin := { w with fade := 255, touched := true }

/-- PTOUCH (R234). (DEDUCED, log 38) -/
def execPtouch (a : BitVec 7) (s : State) : Host.Outcome State Fault Refusal :=
  word (.ptouch a) s fun c s =>
    s.modPin (s.ctxOf c.grp) ((s.grp c.grp).sc c.slotB a.toNat).toNat PinWin.touch

/-- PSTAT (R234). -/
def execPstat (d a : BitVec 7) (s : State) : Host.Outcome State Fault Refusal :=
  word (.pstat d a) s fun c s =>
    let x := s.ctx (s.ctxOf c.grp)
    let w := match tget x.pins ((s.grp c.grp).sc c.slotB a.toNat).toNat with | some w => w.status | none => 0
    s.postSP c d.toNat (BitVec.ofNat 32 (x.pinned / 262144) ++ w : BitVec 64)

/-- A line of a window is loaded and pinned where its page is present (R232). -/
def State.pinLoad (s : State) (ctx w line : Nat) : State :=
  let load (x : PinWin) : PinWin :=
    if x.start ≤ 128 * line ∧ 128 * line < x.start + x.len ∧ x.loaded.contains line = false then
      { x with loaded := line :: x.loaded }
    else x
  if (s.leaf ctx (128 * line)).isSome then s.modPin ctx w load else s

/-- PIN_BACKGROUND_LOAD (R232). (DEDUCED, log 38) -/
def execPinBackgroundLoad (ctx w line : Nat) (s : State) : Host.Outcome State Fault Refusal := .next (s.pinLoad ctx w line)

/-- The end of a fade period: a window not touched in it loses 1, one at 0 is released (R233). -/
def fadePeriod (t : Table PinWin) : Table PinWin :=
  t.filterMap fun p =>
    if p.2.touched then some (p.1, { p.2 with touched := false })
    else if p.2.fade ≤ 1 then none else some (p.1, { p.2 with fade := p.2.fade - 1 })

/-- FADE_PERIOD_EXPIRY (R233). (DESIGN CHOICE, log 91) -/
def execFadePeriodExpiry (ctx : Nat) (s : State) : Host.Outcome State Fault Refusal :=
  .next (match tget s.ctxs ctx with
    | some c => s.setCtx ctx { c with pins := fadePeriod c.pins }
    | none => s)

/-! ## Token buckets (R236) -/

/-- Bytes that a bucket may hold. (DEDUCED, log 39) -/
def depthOf (w : Word) : Nat := 1024 * max 1 (fld w.toNat 0 16)

/-- TOKEN_BUCKET_GRANT (R236): tokens of a bucket of a context reach the agents of class `cls` on resource `res`; the bucket
never holds more than DEPTH. (DEDUCED, log 39) -/
def execTokenBucketGrant (ctx cls res bytes : Nat) (s : State) : Host.Outcome State Fault Refusal :=
  .next (match tget s.ctxs ctx with
    | none => s
    | some c =>
      let k := 12 * cls + res
      let w := tgetD c.reg k 0
      if fld w.toNat 16 11 = 0 then s
      else s.setCtx ctx { c with granted := tset c.granted k (min (depthOf w) (tgetD c.granted k 0 + bytes)) })

end Sys2Proof.Machine
end

