-- ==== Sys2Proof/Machine/Requests.lean ====
section
/-! DEFINITION. The service requests that firmware performs for the host (R290, R291): each event is the completion of the
request in progress, whose record is `srq.cur`. What firmware picks freely (an identifier, frames, a virtual range) comes as
operands; too few or unusable frames stand for a firmware that finds none. -/

namespace Sys2Proof.Machine

/-- `n` bytes of the request in progress, from byte `o` on. -/
def State.req (s : State) (o n : Nat) : Nat := leNat (cells s.srq.cur o n)

/-- The request completes: RSP, then DSEQ, then BUSY, then the vector (R290). (DEDUCED, log 77) -/
def State.srqDone (s : State) (status : Nat) (results : List Byte) : State :=
  let q := s.srq
  let rsp := takePad 256 (leBytes 4 status ++ leBytes 4 q.seq.toNat ++ results)
  let s := { s with srq := { q with rsp := rsp, dseq := q.seq, busy := false } }
  if q.cfg.getLsbD 0 then s.msix (vectorOf q.cfg) else s

/-- What a request does to a context: the state with it performed and the results, or the STATUS that refuses it. -/
abbrev Served := Except Nat (State × List Byte)

/-- Bytes of a request record that R290 demands to be zero. -/
def State.reqZero (s : State) (names : Bool) : Bool :=
  s.req 2 2 == 0 && s.req 8 8 == 0 && (names || s.req 4 4 == 0)

/-- Request `code`, if it is the one in progress; `names`: it names a context, which must exist. (DEDUCED, log 77) -/
def State.serve (s : State) (code : Nat) (names : Bool) (f : Nat → Served) : State :=
  if !s.srq.busy || !s.served || s.req 0 2 != code then s
  else if s.alarm then s.srqDone 5 []
  else if !s.reqZero names then s.srqDone 2 []
  else if names && (tget s.ctxs (s.req 4 4)).isNone then s.srqDone 4 []
  else
    match f (s.req 4 4) with
    | .error n => s.srqDone n []
    | .ok (t, r) => t.srqDone 0 r

/-- A range of whole pages of `unit` bytes that stays in canonical addresses. -/
def rangeOk (va len unit : Nat) : Bool :=
  va % unit == 0 && len % unit == 0 && len != 0 && canonical va && canonical (va + len - 1) &&
    va / 72057594037927936 == (va + len - 1) / 72057594037927936

/-- A frozen page of a range holds a request back until it is thawed (R242). -/
def State.frozenIn (s : State) (ctx va len : Nat) : Bool := (s.presentPages ctx va len).any fun a => s.frz ctx a

/-! ## Contexts -/

/-- No channel keeps an absence record of a context (R342). -/
def State.clearAbsent (s : State) (ctx : Nat) : State :=
  let clear (h : Nat × Channel) : Nat × Channel := (h.1, { h.2 with absent := h.2.absent.filter fun e => e.1 != ctx })
  { s with clusters := s.clusters.map fun (c : Nat × Cluster) => (c.1, { c.2 with chans := c.2.chans.map clear }) }

/-- CTX_CREATE: `frames` are those of the private pool, then those of the save pool. (DEDUCED, log 44) -/
def State.createCtx (s : State) (id root : Nat) (poolVa : Nat) (frames tables : List Nat) : Served :=
  let want := s.req 16 4
  let pool := s.req 24 8
  let save := s.req 32 8
  if (4095 < want ∧ want ≠ 0xFFFFFFFF) ∨ pool % 262144 ≠ 0 ∨ save % 262144 ≠ 0 then .error 2
  else if (want ≠ 0xFFFFFFFF ∧ want ≠ id) ∨ 4095 < id ∨ (tget s.ctxs id).isSome = true ∨ 786431 < root ∨
      s.framesFree (tableFrames root) = false ∨ frames.length ≠ pool / 262144 + save / 262144 ∨
      (pool ≠ 0 ∧ rangeOk poolVa pool 262144 = false) then .error 3
  else
    let s := (s.zeroFrames (tableFrames root)).takeFrames (tableFrames root)
    let saves := frames.drop (pool / 262144)
    let s := s.setCtx id { root := root, privVa := BitVec.ofNat 64 poolVa, privLen := pool, savePool := save, saveFrames := saves }
    match (if s.framesFree saves then (s.takeFrames saves).mapRange root poolVa 2 false (frames.take (pool / 262144)) tables
      else none) with
    | none => .error 3
    | some s => .ok (s.clearAbsent id, leBytes 4 id ++ leBytes 4 0 ++ leBytes 8 poolVa)

/-- DEDUCED, log 78. -/
def execCtxCreate (id root : Nat) (poolVa : Dword) (frames tables : List Nat) (s : State) :
    Host.Outcome State Fault Refusal :=
  .next (s.serve 1 false fun _ => s.createCtx id root poolVa.toNat frames tables)

/-- The cards of a context leave the channels; what they were charged and had still to send is given back. -/
def State.dropCards (s : State) (ctx : Nat) : State :=
  let mine := s.clusters.flatMap fun (c : Nat × Cluster) => c.2.chans.flatMap fun h => h.2.queue.filter fun k => k.ctx == ctx
  let s := mine.foldl (fun s c => if c.kind.remote && c.admitted then s.unspent c else s) s
  let clear (h : Nat × Channel) : Nat × Channel :=
    (h.1, { h.2 with queue := h.2.queue.filter (fun k => k.ctx != ctx), fired := h.2.fired.filter fun k => k.ctx != ctx })
  { s with clusters := s.clusters.map fun (c : Nat × Cluster) => (c.1, { c.2 with chans := c.2.chans.map clear }) }

/-- Nothing of a context is left anywhere; its frames are free (R225, R291). -/
def State.destroyCtx (s : State) (ctx : Nat) : State :=
  let fs := s.framesOf ctx (s.presentPages ctx 0 (2 ^ 64)) ++ (s.ctxTables ctx).flatMap tableFrames ++ (s.ctx ctx).saveFrames
  let s := (((s.flushRange ctx 0 (2 ^ 64)).dropCards ctx).clearAbsent ctx).dropFrames fs
  let drop (c : Nat × Core) : Nat × Core :=
    let k := c.2.dropCtx ctx
    (c.1, { k with l1 := k.l1.filter (fun l => l.ctx != ctx), wbq := k.wbq.filter (fun w => w.ctx != ctx), resid := tdel k.resid ctx })
  { s with
    ctxs := tdel s.ctxs ctx
    llc := s.llc.filter fun l => l.ctx != ctx
    cores := s.cores.map drop
    reqs := s.reqs.filter fun r => r.ctx != ctx
    arrived := s.arrived.filter fun r => r.ctx != ctx
    resps := s.resps.filter fun r => r.ctx != ctx }

/-- CTX_DESTROY. -/
def execCtxDestroy (s : State) : Host.Outcome State Fault Refusal :=
  .next (if s.frozenIn (s.req 4 4) 0 (2 ^ 64) then s
    else s.serve 2 true fun ctx =>
      let st := (s.ctx ctx).st
      if st == CtxSt.stopped || st == CtxSt.killed then .ok (s.destroyCtx ctx, []) else .error 4)

/-! ## Page tables -/

/-- MAP. (DEDUCED, log 77) -/
def State.mapRequest (s : State) (ctx : Nat) (frames tables : List Nat) : Served :=
  let va := s.req 16 8
  let len := s.req 24 8
  let flags := s.req 32 4
  let large := flags.testBit 4
  let unit := if large then 16777216 else 262144
  if flags % 2 ≠ 0 ∨ 32 ≤ flags ∨ rangeOk va len unit = false then .error 2
  else if (s.presentPages ctx va len).isEmpty = false then .error 2
  else if frames.length ≠ len / unit ∨ (large ∧ frames.any (fun f => f % 64 != 0)) then .error 3
  else
    match s.mapRange (s.ctx ctx).root va flags large frames tables with
    | none => .error 3
    | some t =>
      let t := t.modCtx ctx fun c => { c with maps := c.maps ++ [{ va := va, len := len, flags := flags }] }
      let pa := if flags.testBit 3 then (match t.leaf ctx va with | some e => leafPa e va | none => 0) else 0
      .ok (t.releaseHeld ctx, leBytes 8 pa)

/-- DEDUCED, log 78. -/
def execMapPages (frames tables : List Nat) (s : State) : Host.Outcome State Fault Refusal :=
  .next (s.serve 3 true fun ctx => s.mapRequest ctx frames tables)

/-- A large page that a range holds in part. (DEDUCED, log 35) -/
def State.splitsLarge (s : State) (ctx va len : Nat) (pages : List Nat) : Bool :=
  pages.any fun a => match s.leaf ctx a with
    | some e => (pageGroup e a).any fun b => decide (b < va) || decide (va + len ≤ b)
    | none => false

/-- A range meets storage of a defined region or a pinned window (R291). (DEDUCED, log 44) -/
def Ctx.keeps (c : Ctx) (va len : Nat) : Bool :=
  (c.regions.any fun r => overlap va len r.1 r.2.size) || c.pins.any fun p => overlap va len p.2.start p.2.len

/-- UNMAP. (DEDUCED, log 35) -/
def State.unmapRequest (s : State) (ctx : Nat) : Served :=
  let va := s.req 16 8
  let len := s.req 24 8
  let pages := s.presentPages ctx va len
  if rangeOk va len 262144 = false ∨ s.splitsLarge ctx va len pages = true then .error 2
  else if (s.ctx ctx).keeps va len then .error 4
  else
    let t := (s.flushRange ctx va len).unmapList ctx pages
    .ok ((t.modCtx ctx fun c => { c with maps := c.maps.flatMap fun m => m.cut va len }).releaseHeld ctx, [])

def execUnmapPages (s : State) : Host.Outcome State Fault Refusal :=
  .next (if s.frozenIn (s.req 4 4) (s.req 16 8) (s.req 24 8) then s else s.serve 4 true s.unmapRequest)

/-- A leaf entry with W and X of the flags. -/
def protectEntry (e flags : Nat) : Nat := e - 2 * (e / 2 % 4) + flags

/-- PROTECT. (DEDUCED, log 35) -/
def State.protectRequest (s : State) (ctx : Nat) : Served :=
  let va := s.req 16 8
  let len := s.req 24 8
  let flags := s.req 32 4
  let pages := s.presentPages ctx va len
  let set (t : State) (a : Nat) : State :=
    match t.leaf ctx a with
    | some e => t.setLeaf ctx a (protectEntry e flags)
    | none => t
  if flags % 2 ≠ 0 ∨ 8 ≤ flags ∨ rangeOk va len 262144 = false ∨ s.splitsLarge ctx va len pages = true then .error 2
  else .ok (pages.foldl set s, [])

def execProtectPages (s : State) : Host.Outcome State Fault Refusal := .next (s.serve 5 true s.protectRequest)

/-! ## Fabric tables -/

/-- PEERWIN: reserved bits of the entry read as zero (R5, R304). (DEDUCED, log 77) -/
def State.peerRequest (s : State) (ctx : Nat) : Served :=
  let w := s.req 16 4
  let e := BitVec.ofNat 128 (s.req 32 16) &&& 0x07FFFFFF7FFFFFFFFFFFFC000000000F
  if 255 < w ∨ (e.getLsbD 0 = true ∧ (winLen e = 0 ∨ 575 < winDev e)) then .error 2
  else .ok (s.modCtx ctx fun c => { c with peer := tset c.peer w e }, [])

def execPeerwin (s : State) : Host.Outcome State Fault Refusal := .next (s.serve 6 true s.peerRequest)

/-- TRANGE (R305). -/
def execTrange (s : State) : Host.Outcome State Fault Refusal :=
  .next (s.serve 7 false fun _ =>
    let dev := s.req 16 4
    let i := s.req 20 4
    if 575 < dev ∨ 15 < i then .error 2
    else .ok ({ s with ranges := tset s.ranges (16 * dev + i) (BitVec.ofNat 64 (s.req 24 8) &&& 0xFFFFFFFFFFFFFC0F) }, []))

/-- MCRGROUP (R324): bits 623:0 of the entry. -/
def execMcrgroup (s : State) : Host.Outcome State Fault Refusal :=
  .next (s.serve 8 false fun _ =>
    let g := s.req 16 4
    let e := s.req 32 80
    if 255 < g then .error 2
    else .ok ({ s with mcr := tset s.mcr g (BitVec.ofNat 1024 (e % 2 ^ 621 + 2 ^ 623 * (e / 2 ^ 623 % 2))) }, []))

/-- MCRMEMBER (R325): the record names the context of the request. (DEDUCED, log 77) -/
def execMcrmember (s : State) : Host.Outcome State Fault Refusal :=
  .next (s.serve 9 true fun ctx =>
    let g := s.req 16 4
    let r := BitVec.ofNat 128 (s.req 32 16) &&& 0x01FFFFFFFFFFFFFFFFFF000000000001
    if 255 < g ∨ memBase r % 4096 ≠ 0 ∨ memCtx r ≠ ctx then .error 2
    else .ok ({ s with members := tset s.members g r }, []))

/-- EXPORTPA (R303). -/
def execExportpa (s : State) : Host.Outcome State Fault Refusal :=
  .next (s.serve 10 true fun ctx =>
    let va := s.req 16 8
    match s.leaf ctx va with
    | some e => if leafExport e && canonical va then .ok (s, leBytes 8 (leafPa e va)) else .error 2
    | none => .error 2)

/-- An unassigned CODE completes with STATUS 1 (R291). -/
def execSrqUnknownCode (s : State) : Host.Outcome State Fault Refusal :=
  .next (if s.srq.busy && s.served && (s.req 0 2 == 0 || decide (10 < s.req 0 2)) then s.srqDone 1 [] else s)

end Sys2Proof.Machine
end

