-- ==== Sys2Proof/Machine/Services.lean ====
section
/-! DEFINITION. Package services: boot and measurement (R292, R293), SPDM (R294), the security alarm's sources (R295),
islands (R296), failing parts (R285, R297), eviction (R298), the management bus and the identity EEPROM (R299). -/

namespace Sys2Proof.Machine

/-! ## Boot and measurement (R292, R293) -/

def digestBytes (d : BitVec 512) : List Byte := leBytes 64 d.toNat

/-- Measurement register `r` is extended with a digest. -/
def State.extend (s : State) (r : Nat) (d : BitVec 512) : State :=
  { s with meas := setAt s.meas r (Config.shake256 (digestBytes (s.meas.getD r 0) ++ digestBytes d)) }

/-- A measurement differs from the policy of the configuration block, among registers 1 to `n` (R295). (DEDUCED, log 81) -/
def State.offPolicy (s : State) (n : Nat) : Bool :=
  (List.range n).any fun i => match s.policy[i]? with
    | some d => s.meas.getD (i + 1) 0 != d
    | none => false

/-- Keyed entries written one after another. -/
def tsetAll {α : Type} (t : Table α) (xs : List (Nat × α)) : Table α := xs.foldl (fun t x => tset t x.1 x.2) t

/-- What firmware writes from the switch and fabric tables of stage 4: the planes' routes, target ranges, MCR groups, and the peer windows of
contexts that exist, of which there is none yet (R292, R304, R305, R324). (DEDUCED, log 81) -/
def State.loadTables (s : State) (t : FabricTables) : State :=
  let s := { s with routes := t.routes, ranges := tsetAll s.ranges t.ranges, mcr := tsetAll s.mcr t.mcr }
  t.peer.foldl (fun s p => s.modCtx p.1 fun c => { c with peer := tset c.peer p.2.1 p.2.2 }) s

/-- A service core as the firmware of boot stage 2 finds it: one group, in privileged mode (R285). (DESIGN CHOICE, log 102) -/
def serviceStart (k : Nat) : ServiceCore :=
  { groups := [(0, { priv := true, a := { st := .run, pc := Config.firmwareEntry k } })] }

/-- The service cores begin. -/
def State.startServices (s : State) : State := { s with services := (List.range 8).map fun k => (k, serviceStart k) }

/-- One stage after stage 0: verified, measured, run; a failed signature halts boot in it, a measurement that differs from
the policy raises the alarm, which halts it too. (DEDUCED, log 81) -/
def State.stage (s : State) (b : BootInput) (i : Nat) : State :=
  if s.bootHalted then s
  else
    let s := { s with boot := i }
    if !b.sigOk.getD (i - 1) false then { s with bootHalted := true }
    else
      let s := s.extend i (b.digest.getD (i - 1) 0)
      let s := if i = 2 then s.startServices
        else if i = 3 then
          { s with
            spare := b.block.spare, hbmSpared := b.block.remap, memEncrypt := b.block.memEncrypt, policy := b.block.policy }
        else if i = 4 then s.loadTables b.fabric else s
      if 3 ≤ i ∧ s.offPolicy i = true then s.raiseAlarm else s

/-- The package just powered up: what flash, the EEPROM and the model's own fields keep stays (R294, R299). (DEDUCED, log 81) -/
def State.powered (s : State) (b : BootInput) : State :=
  { State.reset with
    agenda := s.agenda
    free := s.free
    nextId := s.nextId
    signIndex := s.signIndex
    chip := b.device
    secrets := true
    unrouted := s.unrouted
    eeprom := setCells (setCells s.eeprom 0 (List.replicate 32 0)) 0 (b.serial.take 32) }

/-- POWER_UP_BOOT: the package is powered up; the boot ROM is measured into register 0, then stages 1 to 4 run; the host
link comes up at the end. (DEDUCED, log 81) -/
def execPowerUpBoot (b : BootInput) (s : State) : Host.Outcome State Fault Refusal :=
  let s := ((s.powered b).extend 0 b.reg0)
  let s := [1, 2, 3, 4].foldl (fun (s : State) i => s.stage b i) s
  .next (if s.bootHalted then s else { s with boot := 5, linkUp := true })

/-- MEASUREMENT_EXTEND: registers 5 to 15, at run time; a measurement that differs from the policy raises the alarm. -/
def execMeasurementExtend (r : Nat) (d : BitVec 512) (s : State) : Host.Outcome State Fault Refusal :=
  .next (if r < 5 ∨ 15 < r ∨ s.boot ≠ 5 ∨ s.served = false then s
    else
      let t := s.extend r d
      match t.policy[r - 1]? with
      | some p => if t.meas.getD r 0 != p then t.raiseAlarm else t
      | none => t)

/-! ## SPDM (R294) -/

/-- Firmware answers: stage 2 has run, and a service core is left. (DEDUCED, log 82) -/
def State.answers (s : State) : Bool := decide (3 ≤ s.boot) && s.served

/-- DEDUCED, log 82. -/
def State.spdmAnswer (s : State) (r : SpdmResp) : State := if s.answers then { s with spdm := r } else s

def execGetVersion (s : State) : Host.Outcome State Fault Refusal := .next (s.spdmAnswer .version)
def execGetCapabilities (s : State) : Host.Outcome State Fault Refusal := .next (s.spdmAnswer .capabilities)
def execNegotiateAlgorithms (s : State) : Host.Outcome State Fault Refusal := .next (s.spdmAnswer .algorithms)
def execGetDigests (s : State) : Host.Outcome State Fault Refusal := .next (s.spdmAnswer (.digests Config.certDigest))
def execGetCertificate (s : State) : Host.Outcome State Fault Refusal := .next (s.spdmAnswer .certificate)

/-- One-time signing indices of the identity key. -/
def signMax : Nat := 2 ^ 40

/-- A signed answer over the nonce and the registers: the index is committed first, and never used again. -/
def State.signed (s : State) (nonce : BitVec 256) : State :=
  let sig := Config.sign s.signIndex (leBytes 32 nonce.toNat ++ s.meas.flatMap digestBytes)
  { s with signIndex := s.signIndex + 1, spdm := .signed s.signIndex nonce s.meas sig }

/-- CHALLENGE: an error once the indices have run out. (DEDUCED, log 82) -/
def execChallenge (nonce : BitVec 256) (s : State) : Host.Outcome State Fault Refusal :=
  .next (if !s.answers then s else if s.signIndex < signMax then s.signed nonce else { s with spdm := .error })

/-- GET_MEASUREMENTS: the report goes unsigned once the indices have run out. (DEDUCED, log 82) -/
def execGetMeasurements (nonce : BitVec 256) (s : State) : Host.Outcome State Fault Refusal :=
  .next (if !s.answers then s else if s.signIndex < signMax then s.signed nonce else { s with spdm := .unsigned s.meas })

def execSpdmUnsupportedRequest (s : State) : Host.Outcome State Fault Refusal := .next (s.spdmAnswer .unsupported)

/-! ## Sources of the alarm (R295) -/

def execTamperMeshBreach (s : State) : Host.Outcome State Fault Refusal := .next s.raiseAlarm
def execVoltageClockGlitch (s : State) : Host.Outcome State Fault Refusal := .next s.raiseAlarm

/-! ## Islands (R296) -/

/-- Core islands: two clusters each, thirteen a die. -/
def coreIslands : Nat := 52

/-- No resident work-group, no engine work and no pantry record is in the island. -/
def State.islandIdle (s : State) (i : Nat) : Bool :=
  !(s.wgs.any fun w => islandOf w.2.core == i) &&
    !(s.cores.any fun (c : Nat × Core) => islandOf c.1 == i && !(c.2.mq.isEmpty && c.2.idle)) &&
    !(s.clusters.any fun (c : Nat × Cluster) => islandOf (32 * c.1) == i &&
        c.2.chans.any fun h => !(h.2.queue.isEmpty && h.2.fired.isEmpty))

/-- DEDUCED, log 86. -/
def execIslandClockStop (island : Nat) (s : State) : Host.Outcome State Fault Refusal :=
  .next (if island < coreIslands ∧ s.islandIdle island = true ∧ s.stopped.contains island = false then
      { s with stopped := island :: s.stopped }
    else s)

/-- DEDUCED, log 86. -/
def execIslandClockStart (island : Nat) (s : State) : Host.Outcome State Fault Refusal :=
  .next { s with stopped := s.stopped.filter fun i => i != island }

/-- One of the 64 islands gets a supply voltage; timing alone could change. -/
def execIslandVoltageSet (island mv : Nat) (s : State) : Host.Outcome State Fault Refusal :=
  .next (if island < 64 then { s with volts := tset s.volts island mv } else s)

/-- The active cores of a core island: the die's spare holds its 26th cluster. -/
def islandCores (i : Nat) : List Nat := (List.range 64).map (fun k => 800 * (i / 13) + 64 * (i % 13) + k) |>.filter fun c =>
  c < 800 * (i / 13 + 1)

/-- The next issue cycle of a core is withheld, at most one in two. (DEDUCED, log 86) -/
def Core.withhold (c : Core) : Core := if c.rested then c else { c with withheld := true }

def execIssueCycleWithhold (island : Nat) (s : State) : Host.Outcome State Fault Refusal :=
  .next (if island < coreIslands then (islandCores island).foldl (fun s c => s.modCore c Core.withhold) s else s)

/-! ## Failing parts (R285, R297) -/

/-- A resident work-group ends with LOSTWG; the record names its first group. (DEDUCED, log 84) -/
def State.loseWg (s : State) (no : Nat) : State :=
  match tget s.wgs no with
  | none => s
  | some w =>
    if w.killed then s
    else
      let g := w.groups.headD 0
      let b := (s.grp g).a.st == SlotSt.free
      (s.errRecord w.ctx (s.endKind w g) Code.LOSTWG w.base (((s.grp g).slot b).pc.setWidth 32) (s.ttask g b) 0).endWg no

/-- Work-groups on the cores that `on` names end. -/
def State.loseOn (s : State) (on : Nat → Bool) : State :=
  (s.wgs.filter fun w => on w.2.core).foldl (fun s w => s.loseWg w.1) s

/-- CLUSTER_FAILURE: the die's spare takes the cluster's %clus, so that its number goes on; without a spare left it stands
still. (DEDUCED, log 84) -/
def execClusterFailure (die clus : Nat) (s : State) : Host.Outcome State Fault Refusal :=
  .next (if 4 ≤ die ∨ 25 ≤ clus then s
    else
      let t := s.loseOn fun c => clusterOf c == 25 * die + clus
      if s.replaced.contains die then { t with lost := (25 * die + clus) :: t.lost } else { t with replaced := die :: t.replaced })

/-- HBM_FAILURE: a spare row, or another channel, stands for the failed one; no work-group is resident on it. (DEDUCED, log 84) -/
def execHbmFailure (stack chan row : Nat) (s : State) : Host.Outcome State Fault Refusal :=
  .next (if 8 ≤ stack ∨ 32 ≤ chan then s else { s with hbmSpared := (stack, chan, row) :: s.hbmSpared })

/-- SERDES_LANE_FAILURE: a spare lane stands for the failed one. -/
def execSerdesLaneFailure (port lane : Nat) (s : State) : Host.Outcome State Fault Refusal :=
  .next { s with lanesSpared := (port, lane) :: s.lanesSpared }

/-- PACKAGE_FAILURE: packets to the device are refused until a standby has taken its identifier (R305); work-groups of this
package, if it is the one that failed, end. -/
def execPackageFailure (dev standby : Nat) (s : State) : Host.Outcome State Fault Refusal :=
  .next (if standby ≠ 0 then { s with unrouted := s.unrouted.filter fun d => d != dev }
    else
      let s := { s with unrouted := dev :: s.unrouted.filter fun d => d != dev }
      if dev = s.chip then s.loseOn fun _ => true else s)

/-- SERVICE_CORE_FAILURE: the others take its duties; reported to the management controller. (DEDUCED, log 84) -/
def execServiceCoreFailure (cl core : Nat) (s : State) : Host.Outcome State Fault Refusal :=
  let k := 4 * cl + core
  .next (if 2 ≤ cl ∨ 4 ≤ core ∨ s.svcDown.contains k = true then s
    else { s with services := tset s.services k {}, svcDown := k :: s.svcDown, mgmt := s.mgmt ++ [k] })

/-! ## Eviction (R298) -/

/-- EVREC: time, neighbour, standby, failed step or 0 (R299). (DESIGN CHOICE, log 83) -/
def evRecord (time : Dword) (neighbour standby step : Nat) : List Byte :=
  takePad 96 (leBytes 8 time.toNat ++ leBytes 4 neighbour ++ leBytes 4 standby ++ leBytes 4 step)

/-- The record is written and the handshake is over. (DESIGN CHOICE, log 83) -/
def State.endEviction (s : State) (time : Dword) (step : Nat) : State :=
  { s with
    eeprom := setCells s.eeprom 160 (evRecord time s.evNeighbour s.evStandby step)
    evict := .idle
    latchOk := step == 0 }

/-- EVICTION_PREPARE: EVICT is posted to every context, and each one is to be saved. -/
def execEvictionPrepare (neighbour standby : Nat) (s : State) : Host.Outcome State Fault Refusal :=
  .next (if s.evict != .idle || !s.served then s
    else
      let s := { s with evict := .prepare, evNeighbour := neighbour, evStandby := standby, latchOk := false }
      s.ctxs.foldl (fun s c => s.saveCtx c.1) (s.toAll Code.EVICT 0))

/-- Every context has stopped (R298). -/
def State.allStopped (s : State) : Bool := s.ctxs.all fun c => c.2.st == CtxSt.stopped

/-- EVICTION_COPY: the contexts' state has been streamed to the neighbour, which has acknowledged it. -/
def execEvictionCopy (s : State) : Host.Outcome State Fault Refusal :=
  .next (if s.evict == .prepare && s.allStopped then { s with evict := .copy } else s)

/-- EVICTION_DRAIN: every switch plane has removed this package, and the standby has its identifier. -/
def execEvictionDrain (s : State) : Host.Outcome State Fault Refusal :=
  .next (if s.evict == .copy then { s.planes.foldl State.losePlane s with evict := .drain } else s)

/-- EVICTION_RELEASE: LATCH_OK rises. -/
def execEvictionRelease (time : Dword) (s : State) : Host.Outcome State Fault Refusal :=
  .next (if s.evict == .drain then s.endEviction time 0 else s)

/-- EVICTION_TIMEOUT: 30 s have passed, or an alarm has ended the handshake: the record states the failed step. -/
def execEvictionTimeout (time : Dword) (s : State) : Host.Outcome State Fault Refusal :=
  .next (match s.evict with
    | .idle => s
    | .failed k => s.endEviction time k
    | e => s.endEviction time e.step)

/-! ## Management bus (R299) -/

/-- MGMT_REQUEST. -/
def execMgmtRequest (ctx : Nat) (s : State) : Host.Outcome State Fault Refusal := .next (s.ctxEvent ctx Code.MGMT 0)

/-- "GRV-S9". -/
def partName : List Byte := [0x47, 0x52, 0x56, 0x2D, 0x53, 0x39]

/-- Byte `a` of the identity EEPROM. (DESIGN CHOICE, log 83) -/
def State.eepromByte (s : State) (a : Nat) : Byte :=
  if 32 ≤ a ∧ a < 64 then partName.getD (a - 32) 0
  else if 64 ≤ a ∧ a < 96 then 0
  else if 96 ≤ a ∧ a < 160 then (digestBytes Config.certDigest).getD (a - 96) 0
  else cell s.eeprom a

/-- IDENTITY_EEPROM_READ: the EEPROM answers even when the board is unpowered. -/
def execIdentityEepromRead (addr : BitVec 8) (s : State) : Host.Outcome State Fault Refusal :=
  .next { s with eepromOut := some (s.eepromByte addr.toNat) }

end Sys2Proof.Machine
end

