-- ==== Sys2Proof/Machine/Dispatch.lean ====
section
/-! DEFINITION. One arm for each constructor of Instr, each a direct call of its meaning. -/

namespace Sys2Proof.Machine

def exec (i : Instr) (s : State) : Host.Outcome State Fault Refusal :=
  match i with
  | .iadd d a b => Sys2Proof.Machine.execIadd d a b s
  | .isub d a b => Sys2Proof.Machine.execIsub d a b s
  | .imul d a b => Sys2Proof.Machine.execImul d a b s
  | .imulh d a b => Sys2Proof.Machine.execImulh d a b s
  | .imulhn d a b => Sys2Proof.Machine.execImulhn d a b s
  | .imin d a b => Sys2Proof.Machine.execImin d a b s
  | .imax d a b => Sys2Proof.Machine.execImax d a b s
  | .iabsd d a b => Sys2Proof.Machine.execIabsd d a b s
  | .and d a b => Sys2Proof.Machine.execAnd d a b s
  | .or d a b => Sys2Proof.Machine.execOr d a b s
  | .xor d a b => Sys2Proof.Machine.execXor d a b s
  | .andn d a b => Sys2Proof.Machine.execAndn d a b s
  | .shl d a b => Sys2Proof.Machine.execShl d a b s
  | .shr d a b => Sys2Proof.Machine.execShr d a b s
  | .sar d a b => Sys2Proof.Machine.execSar d a b s
  | .rotl d a b => Sys2Proof.Machine.execRotl d a b s
  | .iminn d a b => Sys2Proof.Machine.execIminn d a b s
  | .imaxn d a b => Sys2Proof.Machine.execImaxn d a b s
  | .popc d a => Sys2Proof.Machine.execPopc d a s
  | .clz d a => Sys2Proof.Machine.execClz d a s
  | .brev d a => Sys2Proof.Machine.execBrev d a s
  | .bfx d a b => Sys2Proof.Machine.execBfx d a b s
  | .bfi d a b => Sys2Proof.Machine.execBfi d a b s
  | .prmt d a b => Sys2Proof.Machine.execPrmt d a b s
  | .iaddi d a k => Sys2Proof.Machine.execIaddi d a k s
  | .andi d a k => Sys2Proof.Machine.execAndi d a k s
  | .ori d a k => Sys2Proof.Machine.execOri d a k s
  | .xori d a k => Sys2Proof.Machine.execXori d a k s
  | .shli d a k => Sys2Proof.Machine.execShli d a k s
  | .shri d a k => Sys2Proof.Machine.execShri d a k s
  | .sari d a k => Sys2Proof.Machine.execSari d a k s
  | .imuli d a k => Sys2Proof.Machine.execImuli d a k s
  | .icmp d a b k => Sys2Proof.Machine.execIcmp d a b k s
  | .sel d a b q => Sys2Proof.Machine.execSel d a b q s
  | .mov d a => Sys2Proof.Machine.execMov d a s
  | .vbc d a => Sys2Proof.Machine.execVbc d a s
  | .vtos d a n => Sys2Proof.Machine.execVtos d a n s
  | .lane d => Sys2Proof.Machine.execLane d s
  | .shfl d a b => Sys2Proof.Machine.execShfl d a b s
  | .shflx d a b => Sys2Proof.Machine.execShflx d a b s
  | .shflup d a b => Sys2Proof.Machine.execShflup d a b s
  | .shfldn d a b => Sys2Proof.Machine.execShfldn d a b s
  | .redadd d a => Sys2Proof.Machine.execRedadd d a s
  | .redmin d a => Sys2Proof.Machine.execRedmin d a s
  | .redmax d a => Sys2Proof.Machine.execRedmax d a s
  | .redor d a => Sys2Proof.Machine.execRedor d a s
  | .scanadd d a => Sys2Proof.Machine.execScanadd d a s
  | .scanaddx d a => Sys2Proof.Machine.execScanaddx d a s
  | .matchLead d a => Sys2Proof.Machine.execMatchLead d a s
  | .matchCount d a => Sys2Proof.Machine.execMatchCount d a s
  | .sadd d a b => Sys2Proof.Machine.execSadd d a b s
  | .ssub d a b => Sys2Proof.Machine.execSsub d a b s
  | .smul d a b => Sys2Proof.Machine.execSmul d a b s
  | .sand d a b => Sys2Proof.Machine.execSand d a b s
  | .sor d a b => Sys2Proof.Machine.execSor d a b s
  | .sxor d a b => Sys2Proof.Machine.execSxor d a b s
  | .sshl d a b => Sys2Proof.Machine.execSshl d a b s
  | .sshr d a b => Sys2Proof.Machine.execSshr d a b s
  | .saddi d a k => Sys2Proof.Machine.execSaddi d a k s
  | .sandi d a k => Sys2Proof.Machine.execSandi d a k s
  | .sori d a k => Sys2Proof.Machine.execSori d a k s
  | .sshli d a k => Sys2Proof.Machine.execSshli d a k s
  | .scmp d a b k => Sys2Proof.Machine.execScmp d a b k s
  | .sadd64 d a b => Sys2Proof.Machine.execSadd64 d a b s
  | .ssub64 d a b => Sys2Proof.Machine.execSsub64 d a b s
  | .iadd64 d a b => Sys2Proof.Machine.execIadd64 d a b s
  | .isub64 d a b => Sys2Proof.Machine.execIsub64 d a b s
  | .isext d a => Sys2Proof.Machine.execIsext d a s
  | .izext d a => Sys2Proof.Machine.execIzext d a s
  | .imulw d a b => Sys2Proof.Machine.execImulw d a b s
  | .imulwn d a b => Sys2Proof.Machine.execImulwn d a b s
  | .mand d a b => Sys2Proof.Machine.execMand d a b s
  | .mor d a b => Sys2Proof.Machine.execMor d a b s
  | .mxor d a b => Sys2Proof.Machine.execMxor d a b s
  | .mandn d a b => Sys2Proof.Machine.execMandn d a b s
  | .mnot d a => Sys2Proof.Machine.execMnot d a s
  | .mpopc d a => Sys2Proof.Machine.execMpopc d a s
  | .mffs d a => Sys2Proof.Machine.execMffs d a s
  | .mseta d => Sys2Proof.Machine.execMseta d s
  | .fadd d a b r => Sys2Proof.Machine.execFadd d a b r s
  | .fsub d a b r => Sys2Proof.Machine.execFsub d a b r s
  | .fmul d a b r => Sys2Proof.Machine.execFmul d a b r s
  | .fmac d a b r => Sys2Proof.Machine.execFmac d a b r s
  | .fma d a b e => Sys2Proof.Machine.execFma d a b e s
  | .fmin d a b => Sys2Proof.Machine.execFmin d a b s
  | .fmax d a b => Sys2Proof.Machine.execFmax d a b s
  | .fminm d a b => Sys2Proof.Machine.execFminm d a b s
  | .fmaxm d a b => Sys2Proof.Machine.execFmaxm d a b s
  | .fabs d a => Sys2Proof.Machine.execFabs d a s
  | .fneg d a => Sys2Proof.Machine.execFneg d a s
  | .fcpsgn d a b => Sys2Proof.Machine.execFcpsgn d a b s
  | .fclass d a => Sys2Proof.Machine.execFclass d a s
  | .fcmp d a b k => Sys2Proof.Machine.execFcmp d a b k s
  | .fcvt d a t u r => Sys2Proof.Machine.execFcvt d a t u r s
  | .ex2 d a => Sys2Proof.Machine.execEx2 d a s
  | .lg2 d a => Sys2Proof.Machine.execLg2 d a s
  | .rcp d a => Sys2Proof.Machine.execRcp d a s
  | .rsq d a => Sys2Proof.Machine.execRsq d a s
  | .sqrt d a => Sys2Proof.Machine.execSqrt d a s
  | .sin d a => Sys2Proof.Machine.execSin d a s
  | .cos d a => Sys2Proof.Machine.execCos d a s
  | .tanh d a => Sys2Proof.Machine.execTanh d a s
  | .hadd2Bf16 d a b => Sys2Proof.Machine.execHadd2Bf16 d a b s
  | .hmul2Bf16 d a b => Sys2Proof.Machine.execHmul2Bf16 d a b s
  | .hmac2Bf16 d a b => Sys2Proof.Machine.execHmac2Bf16 d a b s
  | .hadd2F16 d a b => Sys2Proof.Machine.execHadd2F16 d a b s
  | .hmul2F16 d a b => Sys2Proof.Machine.execHmul2F16 d a b s
  | .hmac2F16 d a b => Sys2Proof.Machine.execHmac2F16 d a b s
  | .hpack d a b => Sys2Proof.Machine.execHpack d a b s
  | .fdiv d a b r => Sys2Proof.Machine.execFdiv d a b r s
  | .tment d a => Sys2Proof.Machine.execTment d a s
  | .tmmrg d a b => Sys2Proof.Machine.execTmmrg d a b s
  | .tmext d a => Sys2Proof.Machine.execTmext d a s
  | .tmld a k => Sys2Proof.Machine.execTmld a k s
  | .tmred d a => Sys2Proof.Machine.execTmred d a s
  | .skdef a b => Sys2Proof.Machine.execSkdef a b s
  | .skundef a => Sys2Proof.Machine.execSkundef a s
  | .skmerge a b => Sys2Proof.Machine.execSkmerge a b s
  | .skfold a b => Sys2Proof.Machine.execSkfold a b s
  | .skclr a => Sys2Proof.Machine.execSkclr a s
  | .skstat d a => Sys2Proof.Machine.execSkstat d a s
  | .sksnap a b => Sys2Proof.Machine.execSksnap a b s
  | .skqv d a b => Sys2Proof.Machine.execSkqv d a b s
  | .pin d a b => Sys2Proof.Machine.execPin d a b s
  | .unpin a => Sys2Proof.Machine.execUnpin a s
  | .ptouch a => Sys2Proof.Machine.execPtouch a s
  | .pstat d a => Sys2Proof.Machine.execPstat d a s
  | .spawn a => Sys2Proof.Machine.execSpawn a s
  | .spawnr a => Sys2Proof.Machine.execSpawnr a s
  | .jdec a => Sys2Proof.Machine.execJdec a s
  | .qstat d a => Sys2Proof.Machine.execQstat d a s
  | .frame d a => Sys2Proof.Machine.execFrame d a s
  | .bra f => Sys2Proof.Machine.execBra f s
  | .bz q f => Sys2Proof.Machine.execBz q f s
  | .bnz q f => Sys2Proof.Machine.execBnz q f s
  | .brm q f => Sys2Proof.Machine.execBrm q f s
  | .bany q f => Sys2Proof.Machine.execBany q f s
  | .ball q f => Sys2Proof.Machine.execBall q f s
  | .balw q f => Sys2Proof.Machine.execBalw q f s
  | .bnone q f => Sys2Proof.Machine.execBnone q f s
  | .call o => Sys2Proof.Machine.execCall o s
  | .ret => Sys2Proof.Machine.execRet s
  | .calli a => Sys2Proof.Machine.execCalli a s
  | .jmpi a => Sys2Proof.Machine.execJmpi a s
  | .calls a => Sys2Proof.Machine.execCalls a s
  | .reconv o => Sys2Proof.Machine.execReconv o s
  | .rep n d a b t => Sys2Proof.Machine.execRep n d a b t s
  | .lit v => Sys2Proof.Machine.execLit v s
  | .xwr d a b => Sys2Proof.Machine.execXwr d a b s
  | .xrd d a b => Sys2Proof.Machine.execXrd d a b s
  | .xred d a b => Sys2Proof.Machine.execXred d a b s
  | .xatom d a b => Sys2Proof.Machine.execXatom d a b s
  | .xmlr d a b => Sys2Proof.Machine.execXmlr d a b s
  | .xmst d a b => Sys2Proof.Machine.execXmst d a b s
  | .xtrig a b => Sys2Proof.Machine.execXtrig a b s
  | .xcnt d a b => Sys2Proof.Machine.execXcnt d a b s
  | .alwr d a => Sys2Proof.Machine.execAlwr d a s
  | .coll d a => Sys2Proof.Machine.execColl d a s
  | .xwait d a b => Sys2Proof.Machine.execXwait d a b s
  | .xstat d a b => Sys2Proof.Machine.execXstat d a b s
  | .ld d a p z o => Sys2Proof.Machine.execLd d a p z o s
  | .st d a p z o => Sys2Proof.Machine.execSt d a p z o s
  | .lds d a p z o => Sys2Proof.Machine.execLds d a p z o s
  | .sts d a p z o => Sys2Proof.Machine.execSts d a p z o s
  | .atom d a b o => Sys2Proof.Machine.execAtom d a b o s
  | .atomc d a b o => Sys2Proof.Machine.execAtomc d a b o s
  | .atomg d a b o => Sys2Proof.Machine.execAtomg d a b o s
  | .atomx d a b o => Sys2Proof.Machine.execAtomx d a b o s
  | .red p a b o => Sys2Proof.Machine.execRed p a b o s
  | .cclean l a b => Sys2Proof.Machine.execCclean l a b s
  | .cinv l a b => Sys2Proof.Machine.execCinv l a b s
  | .cflush l a b => Sys2Proof.Machine.execCflush l a b s
  | .pref l a b => Sys2Proof.Machine.execPref l a b s
  | .fence k t p => Sys2Proof.Machine.execFence k t p s
  | .tryBegin l o => Sys2Proof.Machine.execTryBegin l o s
  | .commitTry => Sys2Proof.Machine.execCommitTry s
  | .abortTry a => Sys2Proof.Machine.execAbortTry a s
  | .tstat d => Sys2Proof.Machine.execTstat d s
  | .tdepth d => Sys2Proof.Machine.execTdepth d s
  | .bararv d a => Sys2Proof.Machine.execBararv d a s
  | .barwt d a b => Sys2Proof.Machine.execBarwt d a b s
  | .baraw d a => Sys2Proof.Machine.execBaraw d a s
  | .barinit a b => Sys2Proof.Machine.execBarinit a b s
  | .barst d a => Sys2Proof.Machine.execBarst d a s
  | .barexp a b => Sys2Proof.Machine.execBarexp a b s
  | .rginit a b => Sys2Proof.Machine.execRginit a b s
  | .rgacq d a b => Sys2Proof.Machine.execRgacq d a b s
  | .rgpub d a b => Sys2Proof.Machine.execRgpub d a b s
  | .rgwait d a b => Sys2Proof.Machine.execRgwait d a b s
  | .rgrel d a b => Sys2Proof.Machine.execRgrel d a b s
  | .rgstat d a => Sys2Proof.Machine.execRgstat d a s
  | .cpy d a b => Sys2Proof.Machine.execCpy d a b s
  | .cpy2 d a b => Sys2Proof.Machine.execCpy2 d a b s
  | .cpyt d a b => Sys2Proof.Machine.execCpyt d a b s
  | .cpyg d a b => Sys2Proof.Machine.execCpyg d a b s
  | .cpys d a b => Sys2Proof.Machine.execCpys d a b s
  | .cpywp d a => Sys2Proof.Machine.execCpywp d a s
  | .cpywt d a b => Sys2Proof.Machine.execCpywt d a b s
  | .cpyst d a b => Sys2Proof.Machine.execCpyst d a b s
  | .mma d a b n => Sys2Proof.Machine.execMma d a b n s
  | .mloop d n => Sys2Proof.Machine.execMloop d n s
  | .mzero d a => Sys2Proof.Machine.execMzero d a s
  | .mzeroRel d a => Sys2Proof.Machine.execMzeroRel d a s
  | .mlda d a b => Sys2Proof.Machine.execMlda d a b s
  | .msta d a b => Sys2Proof.Machine.execMsta d a b s
  | .mav d a b => Sys2Proof.Machine.execMav d a b s
  | .mva d a b => Sys2Proof.Machine.execMva d a b s
  | .mwait a => Sys2Proof.Machine.execMwait a s
  | .msync a => Sys2Proof.Machine.execMsync a s
  | .spfen => Sys2Proof.Machine.execSpfen s
  | .mcfg a => Sys2Proof.Machine.execMcfg a s
  | .maud d a => Sys2Proof.Machine.execMaud d a s
  | .mjoin a => Sys2Proof.Machine.execMjoin a s
  | .mleave => Sys2Proof.Machine.execMleave s
  | .nop => Sys2Proof.Machine.execNop s
  | .exit => Sys2Proof.Machine.execExit s
  | .trap n => Sys2Proof.Machine.execTrap n s
  | .rtt t => Sys2Proof.Machine.execRtt t s
  | .mfs d a => Sys2Proof.Machine.execMfs d a s
  | .mts d a => Sys2Proof.Machine.execMts d a s
  | .yield => Sys2Proof.Machine.execYield s
  | .bkpt n => Sys2Proof.Machine.execBkpt n s
  | .widf d k => Sys2Proof.Machine.execWidf d k s
  | .replay => Sys2Proof.Machine.execReplay s
  | .endg r => Sys2Proof.Machine.execEndg r s
  | .emret => Sys2Proof.Machine.execEmret s
  | .issueCycle core => Sys2Proof.Machine.execIssueCycle core s
  | .resultWrite grp k lanes => Sys2Proof.Machine.execResultWrite grp k lanes s
  | .trapDeliver grp => Sys2Proof.Machine.execTrapDeliver grp s
  | .hangLimitExpiry grp slotB => Sys2Proof.Machine.execHangLimitExpiry grp slotB s
  | .deferredFaultReturn grp => Sys2Proof.Machine.execDeferredFaultReturn grp s
  | .issueQueueLeave grp k => Sys2Proof.Machine.execIssueQueueLeave grp k s
  | .requestDeliver k => Sys2Proof.Machine.execRequestDeliver k s
  | .homePerform k ecc evict => Sys2Proof.Machine.execHomePerform k ecc evict s
  | .responseArrive k => Sys2Proof.Machine.execResponseArrive k s
  | .l1WriteBack core k bytes => Sys2Proof.Machine.execL1WriteBack core k bytes s
  | .l1Drop core k => Sys2Proof.Machine.execL1Drop core k s
  | .fenceComplete grp => Sys2Proof.Machine.execFenceComplete grp s
  | .tryConflictAbort grp => Sys2Proof.Machine.execTryConflictAbort grp s
  | .faultServiceMap grp m => Sys2Proof.Machine.execFaultServiceMap grp m s
  | .faultServiceDecline grp k => Sys2Proof.Machine.execFaultServiceDecline grp k s
  | .throughputFaultTimeout grp image => Sys2Proof.Machine.execThroughputFaultTimeout grp image s
  | .workgroupSave wg image => Sys2Proof.Machine.execWorkgroupSave wg image s
  | .workgroupEnd wg => Sys2Proof.Machine.execWorkgroupEnd wg s
  | .launchQueueTailWrite ctx tail => Sys2Proof.Machine.execLaunchQueueTailWrite ctx tail s
  | .launchTake ctx => Sys2Proof.Machine.execLaunchTake ctx s
  | .pantryTake core place => Sys2Proof.Machine.execPantryTake core place s
  | .stealRequest core => Sys2Proof.Machine.execStealRequest core s
  | .stealAnswer core place => Sys2Proof.Machine.execStealAnswer core place s
  | .stealRetryTimer core => Sys2Proof.Machine.execStealRetryTimer core s
  | .timeSliceExpiry core ctx => Sys2Proof.Machine.execTimeSliceExpiry core ctx s
  | .agingPeriodExpiry core level k => Sys2Proof.Machine.execAgingPeriodExpiry core level k s
  | .preemptDrainRequest ctx => Sys2Proof.Machine.execPreemptDrainRequest ctx s
  | .preemptSaveRequest ctx => Sys2Proof.Machine.execPreemptSaveRequest ctx s
  | .preemptResumeRequest ctx => Sys2Proof.Machine.execPreemptResumeRequest ctx s
  | .preemptDeadlineExpiry ctx => Sys2Proof.Machine.execPreemptDeadlineExpiry ctx s
  | .copyCardAdmit cl ch => Sys2Proof.Machine.execCopyCardAdmit cl ch s
  | .copyDeliveryWrite cl m => Sys2Proof.Machine.execCopyDeliveryWrite cl m s
  | .copyCardComplete cl ch => Sys2Proof.Machine.execCopyCardComplete cl ch s
  | .copyCardFault cl ch => Sys2Proof.Machine.execCopyCardFault cl ch s
  | .copyQueueRoom grp slotB => Sys2Proof.Machine.execCopyQueueRoom grp slotB s
  | .cardQuotaResume cl ch => Sys2Proof.Machine.execCardQuotaResume cl ch s
  | .ringParkResume grp slotB => Sys2Proof.Machine.execRingParkResume grp slotB s
  | .matrixStep core k cached => Sys2Proof.Machine.execMatrixStep core k cached s
  | .matrixQueueRoom grp slotB => Sys2Proof.Machine.execMatrixQueueRoom grp slotB s
  | .hbmRefreshRetry k hint => Sys2Proof.Machine.execHbmRefreshRetry k hint s
  | .refreshRequeueTimer k => Sys2Proof.Machine.execRefreshRequeueTimer k s
  | .pageFreeze ctx va => Sys2Proof.Machine.execPageFreeze ctx va s
  | .pageThaw ctx va frame => Sys2Proof.Machine.execPageThaw ctx va frame s
  | .frozenWriteRetry k => Sys2Proof.Machine.execFrozenWriteRetry k s
  | .frozenLimit k => Sys2Proof.Machine.execFrozenLimit k s
  | .pinBackgroundLoad ctx w line => Sys2Proof.Machine.execPinBackgroundLoad ctx w line s
  | .fadePeriodExpiry ctx => Sys2Proof.Machine.execFadePeriodExpiry ctx s
  | .tokenBucketGrant ctx cls res bytes => Sys2Proof.Machine.execTokenBucketGrant ctx cls res bytes s
  | .hostBar2Access off len wr ecc => Sys2Proof.Machine.execHostBar2Access off len wr ecc s
  | .hostRegisterWrite off val => Sys2Proof.Machine.execHostRegisterWrite off val s
  | .csetWrite ctx val => Sys2Proof.Machine.execCsetWrite ctx val s
  | .srqDoorbell seq => Sys2Proof.Machine.execSrqDoorbell seq s
  | .ctxCreate id root poolVa frames tables => Sys2Proof.Machine.execCtxCreate id root poolVa frames tables s
  | .ctxDestroy => Sys2Proof.Machine.execCtxDestroy s
  | .mapPages frames tables => Sys2Proof.Machine.execMapPages frames tables s
  | .unmapPages => Sys2Proof.Machine.execUnmapPages s
  | .protectPages => Sys2Proof.Machine.execProtectPages s
  | .peerwin => Sys2Proof.Machine.execPeerwin s
  | .trange => Sys2Proof.Machine.execTrange s
  | .mcrgroup => Sys2Proof.Machine.execMcrgroup s
  | .mcrmember => Sys2Proof.Machine.execMcrmember s
  | .exportpa => Sys2Proof.Machine.execExportpa s
  | .srqUnknownCode => Sys2Proof.Machine.execSrqUnknownCode s
  | .pcieLinkError => Sys2Proof.Machine.execPcieLinkError s
  | .pcieLinkRetrain => Sys2Proof.Machine.execPcieLinkRetrain s
  | .powerUpBoot b => Sys2Proof.Machine.execPowerUpBoot b s
  | .measurementExtend r d => Sys2Proof.Machine.execMeasurementExtend r d s
  | .getVersion => Sys2Proof.Machine.execGetVersion s
  | .getCapabilities => Sys2Proof.Machine.execGetCapabilities s
  | .negotiateAlgorithms => Sys2Proof.Machine.execNegotiateAlgorithms s
  | .getDigests => Sys2Proof.Machine.execGetDigests s
  | .getCertificate => Sys2Proof.Machine.execGetCertificate s
  | .challenge nonce => Sys2Proof.Machine.execChallenge nonce s
  | .getMeasurements nonce => Sys2Proof.Machine.execGetMeasurements nonce s
  | .spdmUnsupportedRequest => Sys2Proof.Machine.execSpdmUnsupportedRequest s
  | .tamperMeshBreach => Sys2Proof.Machine.execTamperMeshBreach s
  | .voltageClockGlitch => Sys2Proof.Machine.execVoltageClockGlitch s
  | .islandClockStop island => Sys2Proof.Machine.execIslandClockStop island s
  | .islandClockStart island => Sys2Proof.Machine.execIslandClockStart island s
  | .islandVoltageSet island mv => Sys2Proof.Machine.execIslandVoltageSet island mv s
  | .issueCycleWithhold island => Sys2Proof.Machine.execIssueCycleWithhold island s
  | .clusterFailure die clus => Sys2Proof.Machine.execClusterFailure die clus s
  | .hbmFailure stack chan row => Sys2Proof.Machine.execHbmFailure stack chan row s
  | .serdesLaneFailure port lane => Sys2Proof.Machine.execSerdesLaneFailure port lane s
  | .packageFailure dev standby => Sys2Proof.Machine.execPackageFailure dev standby s
  | .serviceCoreFailure cl core => Sys2Proof.Machine.execServiceCoreFailure cl core s
  | .evictionPrepare neighbour standby => Sys2Proof.Machine.execEvictionPrepare neighbour standby s
  | .evictionCopy => Sys2Proof.Machine.execEvictionCopy s
  | .evictionDrain => Sys2Proof.Machine.execEvictionDrain s
  | .evictionRelease time => Sys2Proof.Machine.execEvictionRelease time s
  | .evictionTimeout time => Sys2Proof.Machine.execEvictionTimeout time s
  | .mgmtRequest ctx => Sys2Proof.Machine.execMgmtRequest ctx s
  | .identityEepromRead addr => Sys2Proof.Machine.execIdentityEepromRead addr s
  | .planeLoss plane => Sys2Proof.Machine.execPlaneLoss plane s
  | .planeReturn plane => Sys2Proof.Machine.execPlaneReturn plane s
  | .linkKeyExchange plane key authOk => Sys2Proof.Machine.execLinkKeyExchange plane key authOk s
  | .linkRekey plane key => Sys2Proof.Machine.execLinkRekey plane key s
  | .linkFrameReceive plane f => Sys2Proof.Machine.execLinkFrameReceive plane f s
  | .requestPacketArrive p => Sys2Proof.Machine.execRequestPacketArrive p s
  | .cardFireQueueRoom cl ch => Sys2Proof.Machine.execCardFireQueueRoom cl ch s
  | .switchRouteRefusal k => Sys2Proof.Machine.execSwitchRouteRefusal k s
  | .switchMcrPacket t => Sys2Proof.Machine.execSwitchMcrPacket t s
  | .replyArrive k r => Sys2Proof.Machine.execReplyArrive k r s
  | .switchQueueTimeout k => Sys2Proof.Machine.execSwitchQueueTimeout k s
  | .dropNoticeArrive k => Sys2Proof.Machine.execDropNoticeArrive k s
  | .dropResendTimer k => Sys2Proof.Machine.execDropResendTimer k s
  | .channelAllowanceCharge cl ch => Sys2Proof.Machine.execChannelAllowanceCharge cl ch s
  | .allowanceWaitEnd grp slotB => Sys2Proof.Machine.execAllowanceWaitEnd grp slotB s
  | .alwdlTimeout grp slotB => Sys2Proof.Machine.execAlwdlTimeout grp slotB s
  | .collEntryStep ctx k => Sys2Proof.Machine.execCollEntryStep ctx k s
  | .openingRendezvous ctx k others => Sys2Proof.Machine.execOpeningRendezvous ctx k others s
  | .collCardStep ctx k turns => Sys2Proof.Machine.execCollCardStep ctx k turns s
  | .closingRendezvous ctx k gone => Sys2Proof.Machine.execClosingRendezvous ctx k gone s
  | .engineLost e => Sys2Proof.Machine.execEngineLost e s

end Sys2Proof.Machine
end

