-- ==== Sys2Proof/Machine/Default.lean ====
section
/-! DEFINITION. What happens next while the agenda is empty (log 1): the first of the machine's own events, in a fixed
order, that changes the state; where none does, one issue cycle of the core that has had fewest. The events of the
surroundings (host, firmware, fabric, other packages, failures) happen on the agenda only. -/

namespace Sys2Proof.Machine

/-- The event happens now: it leaves another state. -/
def State.happens (s : State) (e : Instr) : Bool :=
  match exec e s with
  | .next t => t != s
  | _ => false

/-! ## A place for a work-group: the first that is free (log 1) -/

/-- Multiples of 128 at or above the ends of the allocations, and 0. -/
def State.spadPlaces (s : State) (core : Nat) : List Nat :=
  0 :: (s.resident core).map fun w => (w.2.spb + w.2.hdr.spadSize + 127) / 128 * 128

/-- Ends of the private areas in use, and the pool's start. -/
def State.privPlaces (s : State) (ctx : Nat) : List Nat :=
  (s.ctx ctx).privVa.toNat :: (s.privUsed ctx).map fun u => (u.1 + u.2 + 127) / 128 * 128

/-- The first placement that fits, slot by slot and range by range. (DESIGN CHOICE, log 1) -/
def State.firstPlace (s : State) (core ctx : Nat) (h : Header) : Placement :=
  let ws := s.resident core
  let used := ws.flatMap fun w => w.2.slots
  let bars := (s.cluster (clusterOf core)).bars
  let spadOk (a : Nat) : Bool := !(ws.any fun w => overlap a h.spadSize w.2.spb w.2.hdr.spadSize)
  let barOk (b : Nat) : Bool := (List.range h.bars).all fun i => (tgetD bars (b + i) {}).holder.isNone
  { slots := ((List.range 32).filter fun k => !used.contains k).take h.groups
    spb := ((s.spadPlaces core).find? spadOk).getD 0
    bb := ((List.range 16).find? barOk).getD 0
    privb := BitVec.ofNat 64 (((s.privPlaces ctx).find? fun a => s.privFree ctx h a).getD 0) }

/-- The record that a core would take, in the first place that fits. -/
def State.takeEvent (s : State) (core : Nat) : List Instr :=
  match s.candidate core with
  | none => []
  | some (lv, i) =>
    let r := ((s.core core).deque lv).getD i {}
    let h := match s.vet r with | .ok h _ => h | _ => {}
    let h := match tget (s.ctx r.ctx).images r.save.toNat with | some i => if r.kind = 1 then i.wg.hdr else h | none => h
    [.pantryTake core (s.firstPlace core r.ctx h)]

/-- The first address of a context's images that is free for another: 0, or the end of one. (DESIGN CHOICE, log 1) -/
def State.imagePlace (s : State) (no : Nat) : Dword :=
  let c := s.ctx (s.wg no).ctx
  let n := (s.imageOf no).size
  BitVec.ofNat 64 ((c.imageStarts.find? fun a => c.imageFree a n).getD 0)

/-! ## The order -/

/-- Results, responses, homes, write-back queues and requests. -/
def State.memoryEvents (s : State) : List Instr :=
  (s.groups.flatMap fun g => (List.range g.2.out.length).map fun k => .resultWrite g.1 k (BitVec.allOnes 96)) ++
    (List.range s.resps.length).map Instr.responseArrive ++
    (List.range s.arrived.length).map (fun k => .homePerform k [] []) ++
    (List.range s.arrived.length).map Instr.refreshRequeueTimer ++
    s.cores.flatMap (fun c => (List.range c.2.wbq.length).map fun k => .l1WriteBack c.1 (c.2.l1.length + k) 0) ++
    (List.range s.reqs.length).map Instr.requestDeliver

/-- The issue queues, fault service, traps and try regions of the groups. -/
def State.groupEvents (s : State) : List Instr :=
  s.groups.flatMap fun g =>
    (List.range g.2.queue.length).map (fun k => Instr.issueQueueLeave g.1 k) ++ [.fenceComplete g.1] ++
      (List.range g.2.flights.length).flatMap (fun k =>
        [.faultServiceMap g.1 { ctx := s.ctxOf g.1, access := k, pages := [], tables := [] }, .faultServiceDecline g.1 k]) ++
      [.faultServiceDecline g.1 g.2.flights.length, .faultServiceDecline g.1 (g.2.flights.length + 1)] ++
      [.deferredFaultReturn g.1, .trapDeliver g.1, .tryConflictAbort g.1] ++
      [false, true].flatMap fun b =>
        [.hangLimitExpiry g.1 b]

/-- The matrix and copy engines. -/
def State.engineEvents (s : State) : List Instr :=
  (s.cores.flatMap fun c => (List.range c.2.mq.length).map fun k => Instr.matrixStep c.1 k true) ++
    s.clusters.flatMap fun c => c.2.chans.flatMap fun ch =>
      [.copyCardAdmit c.1 ch.1, .channelAllowanceCharge c.1 ch.1, .copyCardFault c.1 ch.1, .copyDeliveryWrite c.1 (.write ch.1),
        .copyDeliveryWrite c.1 (.read ch.1 0 0), .copyCardComplete c.1 ch.1, .cardQuotaResume c.1 ch.1]

/-- Launches, takes, the ends and saves of work-groups, time slices. -/
def State.scheduleEvents (s : State) : List Instr :=
  s.wgs.map (fun w => Instr.workgroupEnd w.1) ++
    (s.wgs.filter fun w => w.2.saving).map (fun w => .workgroupSave w.1 (s.imagePlace w.1)) ++
    s.ctxs.map (fun c => .launchTake c.1) ++ s.cores.flatMap (fun c => s.takeEvent c.1) ++
    s.cores.flatMap fun c => c.2.resid.map fun r => .timeSliceExpiry c.1 r.1

/-- The core with resident groups that has had fewest issue cycles; core 0 where there is none. -/
def State.nextCore (s : State) : Nat :=
  let busy := (s.groups.map fun g => coreOf g.1).eraseDups
  busy.foldl (fun m c => if (s.core c).cycles < (s.core m).cycles then c else m) (busy.headD 0)

/-- The event that happens next while the agenda is empty. (DESIGN CHOICE, log 1) -/
def State.defaultEvent (s : State) : Instr :=
  match (s.memoryEvents ++ s.groupEvents ++ s.engineEvents ++ s.scheduleEvents).find? s.happens with
  | some e => e
  | none => .issueCycle s.nextCore

end Sys2Proof.Machine
end

