-- ==== Sys2Proof/Machine/Run.lean ====
section
/-! DEFINITION. The execution of the bundles that ISSUE_CYCLE has chosen: their words (R30), then what follows a bundle:
the slot's next word (R28, R30), the iterations left of a REP (R44), the park of a marked bundle (R32), the checkpoint of a
speculative fence (R138), STEP (R114) and a trap whose wait is over (R102). -/

namespace Sys2Proof.Machine

/-- Words that wait as after a marked bundle, or end lanes: they take effect after the other words of their bundle. (DEDUCED, log 13) -/
def takesLast (i : Instr) : Bool :=
  match i with
  | .tryBegin .. | .commitTry | .abortTry .. | .exit | .brm .. | .calli .. => true
  | .rtt .. | .replay | .emret | .endg .. => true
  | _ => false

/-- The words of a bundle with their places, in the order they take effect. (DEDUCED, log 13) -/
def Issue.order (i : Issue) : List (Nat × DWord) :=
  let ws := (List.range i.words.length).zip i.words
  (ws.filter fun w => !takesLast w.2.instr) ++ ws.filter fun w => takesLast w.2.instr

/-- The cursor at the start of a bundle. -/
def Issue.cursor (i : Issue) : Cursor :=
  { grp := i.grp, slotB := i.slotB, pos := i.pos, raw := 0, lanes := i.lanes, done := i.done, repi := i.repi
    serial := i.serial, next := i.next, gone := i.gone, declined := i.declined }

/-- One word of a bundle: `lit` is kept for the word after a LIT only. (DEDUCED, log 9) -/
def State.runWord (s : State) (i : Issue) (k : Nat) (d : DWord) : Host.Outcome State Fault Refusal :=
  if (s.grp i.grp).dead then .next s
  else
    let s := s.modCursor fun c => { c with pos := i.pos + BitVec.ofNat 64 k, raw := d.raw }
    match exec d.instr s with
    | .next t =>
      let n := (t.grp i.grp).out.length - (s.grp i.grp).out.length
      let lit (c : Cursor) : Option (BitVec 24) := match d.instr with
        | .lit _ => c.lit
        | _ => none
      .next ((t.modGrp i.grp fun x => { x with hid := x.hid + n }).modCursor fun c =>
        { c with lit := lit c, posts := c.posts ++ [(c.pos, n)] })
    | r => r

/-- The words of a bundle. -/
def State.runWords (i : Issue) : List (Nat × DWord) → State → Host.Outcome State Fault Refusal
  | [], s => .next s
  | (k, d) :: ws, s =>
    match s.runWord i k d with
    | .next t => t.runWords i ws
    | r => r

/-! ## After a bundle -/

/-- The resume point of what a bundle has raised or sent on its way is the target of a word that moved control (R103). -/
def Group.resumeAt (x : Group) (serial : Nat) (t : Dword) : Group :=
  let r (y : Raised) : Raised := if y.serial = serial then { y with resume := t } else y
  let e (y : Entry) : Entry := if y.serial = serial then { y with resume := t } else y
  let f (y : Flight) : Flight := { y with entry := e y.entry }
  let z (y : Slot) : Slot := { y with pend := y.pend.map r }
  { x with
    trap := x.trap.map r, a := z x.a, b := z x.b, deferred := x.deferred.map r
    queue := x.queue.map e, flights := x.flights.map f }

/-- The same for its matrix operations, in the engine's queue or parked. -/
def State.opsResumeAt (s : State) (g serial : Nat) (t : Dword) : State :=
  let f (o : MatOp) : MatOp := if o.grp = g ∧ o.serial = serial then { o with resume := t } else o
  let p (y : Park) : Park := { y with mat := y.mat.map f }
  let z (y : Slot) : Slot := { y with park := y.park.map p }
  (s.modGrp g fun x => { x with a := z x.a, b := z x.b }).modCore (coreOf g) fun k => { k with mq := k.mq.map f }

/-- A cause of the bundle stands against the group. -/
def Group.raisedBy (x : Group) (serial : Nat) : Bool :=
  (x.trap.toList ++ x.a.pend.toList ++ x.b.pend.toList ++ x.deferred).any fun r => r.serial == serial

/-- The first issue of a bundle moves the slot on (R28, R30). -/
def State.moveOn (s : State) (i : Issue) (c : Cursor) : State :=
  if c.gone || i.replay then s
  else
    let t := c.xfer.getD i.next
    let s := s.modSlot i.grp i.slotB fun y => { y with pc := t }
    if c.xfer.isSome then (s.modGrp i.grp fun x => x.resumeAt i.serial t).opsResumeAt i.grp i.serial t else s

/-- The next iteration of the REP in a bundle; none once it is over, or once EXIT has ended the slot's last lane. After an EXIT that leaves
the slot RUN, the iterations left act on no lane (R118). (DEDUCED, log 21) -/
def Issue.iteration (i : Issue) (c : Cursor) (x : Group) : Option Issue :=
  let y := x.slot i.slotB
  let exit := i.words.any fun d => d.instr == .exit
  if x.raisedBy i.serial || exit && c.gone then none
  else
    match i.later with
    | [] => none
    | w :: ws =>
      some { i with
        words := [w], later := ws, pos := i.repPos, repi := i.repi + 1, next := c.xfer.getD i.next, gone := true, done := 0
        lanes := if exit then 0 else if i.replay then y.active else i.lanes }

/-- A reissued word has issued: of the access that it replaces nothing is left to wait for (R172). -/
def Group.endReplay (x : Group) (i : Issue) : Group :=
  if i.replay then { x with replays := x.replays.filter fun y => !(y.stage == .due && y.slotB == i.slotB) } else x

/-- What follows the last issue of a bundle. -/
def State.closeBundle (s : State) (i : Issue) : State :=
  let mark (x : Group) : Group := if x.out.isEmpty then { x with sync := true }.endSync else { x with sync := true }
  let s := if i.marked then s.modGrp i.grp mark else s
  let x := s.grp i.grp
  let y := x.slot i.slotB
  let rtt := i.words.any fun d => match d.instr with | .rtt _ => true | _ => false
  if y.step && !x.priv && !rtt then
    (s.modSlot i.grp i.slotB fun y => { y with step := false }).raise i.grp
      { cause := Code.STEP, cls := .a, slotB := i.slotB, pos := y.pc, serial := i.serial }
  else s

/-- A speculative fence of the bundle checkpoints the group at the bundle's end (R138). (DEDUCED, log 16) -/
def State.checkFence (s : State) (i : Issue) : State :=
  let f (x : Group) (y : SpecFence) : SpecFence :=
    if y.serial = i.serial && i.repi = 0 then { y with ckpt := { regs := x.regs, trapRegs := x.trapRegs, a := x.a, b := x.b, out := x.out } } else y
  s.modGrp i.grp fun x => { x with spec := x.spec.map (f x) }

/-- The end of a bundle's issue: the cursor goes, and the head of the bundles chosen. (DEDUCED, log 10; DEDUCED, log 20) -/
def State.finishBundle (s : State) : State :=
  match s.issued, s.cursor with
  | i :: rest, some c =>
    let s := { s with issued := rest, cursor := none }.modGrp i.grp fun x => { x with hid := 0 }
    if (s.grp i.grp).dead then s
    else if c.void then s.settle i.grp
    else
      let s := s.moveOn i c
      match i.iteration c (s.grp i.grp) with
      | some n => ((s.modSlot i.grp i.slotB fun y => { y with rep := some n }).checkFence i).settle i.grp
      | none =>
        let s := (s.modGrp i.grp fun x => x.endReplay i).modSlot i.grp i.slotB fun y => { y with repBank := none }
        ((s.checkFence i).closeBundle i).settle i.grp
  | _, _ => { s with issued := s.issued.drop 1, cursor := none }

/-- One bundle. -/
def State.runIssue (s : State) (i : Issue) : Host.Outcome State Fault Refusal :=
  match { s with cursor := some i.cursor }.runWords i i.order with
  | .next t => .next t.finishBundle
  | r => r

/-- The bundles chosen, in their order. (DEDUCED, log 10) -/
def State.runAll : List Issue → State → Host.Outcome State Fault Refusal
  | [], s => .next s
  | i :: rest, s =>
    match s.runIssue i with
    | .next t => t.runAll rest
    | r => r

end Sys2Proof.Machine
end

