-- ==== Sys2Proof/Machine/Step.lean ====
section
/-! DEFINITION. One step: what the agenda names next, or the machine's own next event (log 1), and then the bundles that an
issue cycle has chosen. -/

namespace Sys2Proof.Machine

/-- The event at the head of the agenda, or the machine's own next one. An instruction word has no place of its own on the
agenda: it runs in the bundle of a slot that ISSUE_CYCLE has chosen (R122), so one that stands there is passed over. (DESIGN CHOICE, log 1) -/
def State.nextEvent (s : State) : Host.Outcome State Fault Refusal :=
  match s.agenda with
  | [] => exec s.defaultEvent s
  | e :: rest => if e.isWord then .next { s with agenda := rest } else exec e { s with agenda := rest }

/-- One step of the machine. -/
def step (s : State) : Host.Outcome State Fault Refusal :=
  match s.nextEvent with
  | .next t => t.runAll t.issued
  | r => r

/-! ## A machine about to run one instruction (log 6) -/

/-- The header of the work-group in which the instruction runs. (DESIGN CHOICE, log 6) -/
def probeHeader : Header := { vregs := 128, spad := 1024, dstack := 256 }

/-- Context 0 with its page at virtual address 0, at channel-local frame 64, readable, writable and executable (R227); its
tables are at the stack-local frames 0, 1 and 2. (DESIGN CHOICE, log 6) -/
def State.probePage (s : State) : State :=
  let c : Ctx := { s.ctx 0 with st := .run, root := 0, regions := [] }
  (((s.setCtx 0 c).setEntry 0 0 (1 + 2048 * 1)).setEntry 1 0 (1 + 2048 * 2)).setEntry 2 0 (7 + 2048 * 64)

/-- The instruction's bytes at virtual address 0. (DESIGN CHOICE, log 6) -/
def State.probeWord (s : State) (w : Nat) : State :=
  let s := s.dropLlc 0 0
  { s with mem := setCells s.mem (leafPa (7 + 2048 * 64) 0) (leBytes 4 w), poison := [], failed := [] }

/-- Group slot 0 of core 0 is about to issue from virtual address 0, every lane active, and nothing else is on the core. (DESIGN CHOICE, log 6) -/
def State.probeGroup (s : State) : State :=
  let x : Wg := { hdr := probeHeader, groups := [0], slots := [0] }
  let c : Core := { s.core 0 with busyA := 0, busyB := 0, claims := [], withheld := false }
  let s := ((s.setWg 1 x).setCore 0 c).setGrp 0 (startGroup 1 x 0 (BitVec.allOnes 96))
  { s with groups := s.groups.filter fun (g : Nat × Group) => g.1 == 0 || 32 ≤ g.1
           arrived := [], stopped := [], lost := [], issued := [], cursor := none, agenda := [.issueCycle 0] }

/-- The state whose next step fetches and runs the instruction word `w`. (DESIGN CHOICE, log 6) -/
def State.withFetchWord (s : State) (_nbits w : Nat) : State := (s.probePage.probeWord w).probeGroup

end Sys2Proof.Machine
end

