-- ==== Sys2Proof/Safety.lean ====
section
/-! DEFINITION. The terms in which claims are stated: a safe step, the canonical form of every memory of the machine, when
an instruction word runs with its own effect, and what a word leaves unchanged. -/

namespace Sys2Proof.Machine

/-- A step is safe when it answers a next state: the machine neither stops with a fault nor refuses. -/
def Safe (r : Host.Outcome State Fault Refusal) : Prop := ∃ t, r = .next t

/-! ## The form of the memories -/

/-- The package memory keeps its canonical form: addresses strictly rising, no entry equal to what an unlisted address
reads as. -/
def State.MemOk (s : State) : Prop := Memory.wf s.mem = true

/-- The same for every memory of the machine: package memory, scratchpads, the MSI-X table, the request mailbox and the
EEPROM. -/
def State.CellsOk (s : State) : Prop :=
  Memory.wf s.mem = true ∧ (∀ c ∈ s.cores, Memory.wf c.2.spad = true) ∧ Memory.wf s.msixTab = true ∧
    Memory.wf s.srq.req = true ∧ Memory.wf s.srq.cur = true ∧ Memory.wf s.eeprom = true

/-! ## When an instruction word runs with its own effect -/

/-- The word `i` runs at the cursor `c` with its own effect: a slot has issued it, no earlier word of the bundle has ended
the bundle, no check of R43 refuses it, and an open try region does not forbid it (R143, R150). -/
structure Ready (s : State) (c : Cursor) (i : Instr) : Prop where
  cursor : s.cursor = some c
  going : c.void = false
  legal : s.issueCause c.grp c.slotB c.lit c.raw i = none
  allowed : ∀ r, (s.grp c.grp).tryR = some r → r.stops i = none

/-- The state in which the word's own effect begins: an open region has noted a word that combines lanes (R153). -/
def State.noted (s : State) (c : Cursor) (i : Instr) : State :=
  if (s.grp c.grp).tryR.isSome then s.noteCombine c.grp i else s

/-- No exception that the instruction's lanes raise is enabled in %mode (R56). -/
def Unmasked (s : State) (c : Cursor) (fl : Nat → Word) : Prop :=
  enabledTrap (s.grp c.grp).regs.mode c.lanes fl = none

/-! ## Results -/

/-- A result for vector register `n` on the lanes the word acts on. -/
def vecRes (c : Cursor) (n : Nat) (f : Nat → Word) : Result :=
  { slotB := c.slotB, reg := .v n, mask := c.lanes, vals := (List.range 96).map f, how := .set, src := 0 }

/-- A result for one register of the group. -/
def oneRes (c : Cursor) (r : Reg) (w : Word) : Result :=
  { slotB := c.slotB, reg := r, mask := 1, vals := [w], how := .set, src := 0 }

/-- A result for scalar register `n`; s56 to s58 are the slot's q14 bank (R18). -/
def scaRes (c : Cursor) (n : Nat) (w : Word) : Result := oneRes c (sreg n) w

/-- Results for a vector pair. -/
def vecPairRes (c : Cursor) (n : Nat) (f : Nat → Dword) : List Result :=
  [vecRes c n fun i => (f i).setWidth 32, vecRes c (n + 1) fun i => (f i >>> 32).setWidth 32]

/-- Results for a scalar pair. -/
def scaPairRes (c : Cursor) (n : Nat) (d : Dword) : List Result :=
  [scaRes c n (d.setWidth 32), scaRes c (n + 1) ((d >>> 32).setWidth 32)]

/-- Results for the three members of a lane-mask triple. -/
def tripleRes (c : Cursor) (k : Nat) (m : Mask) : List Result :=
  [scaRes c (4 * k) (m.extractLsb' 0 32), scaRes c (4 * k + 1) (m.extractLsb' 32 32),
   scaRes c (4 * k + 2) (m.extractLsb' 64 32)]

/-- Flags to be ORed into %fflags (R55); no result where there are none. -/
def flagRes (c : Cursor) (fl : Word) : List Result :=
  if fl = 0 then []
  else [{ slotB := c.slotB, reg := .spr 0x01, mask := 1, vals := [fl], how := .or, src := 0 }]

/-- The results of a floating-point word that gives each lane a value and flags: in mode RSTO (6) the seeds of the active
lanes, each advanced `n` times (R59), then the destination, then the flags of the active lanes. -/
def floatRes (s : State) (c : Cursor) (d n rm : Nat) (f : Nat → Word × Word) : List Result :=
  (if rm = 6 then
    [{ slotB := c.slotB, reg := .seed, mask := c.lanes, vals := (s.grp c.grp).seedsAfter c.lanes n, how := .set, src := 0 }]
  else []) ++
    vecRes c d (fun i => if c.lanes.getLsbD i then (f i).1 else 0) :: flagRes c (orFlags c.lanes fun i => (f i).2)

/-- The results join the outstanding ones of the group, in this order; one of no lane posts nothing (R18). -/
def State.posting (s : State) (g : Nat) (rs : List Result) : State := rs.foldl (fun t r => t.postR g r) s

/-- The word completes with its own effect: `exec` answers a next state, in which the results `rs` are outstanding, and
which is otherwise the state in which the word began. -/
def Gives (i : Instr) (s : State) (c : Cursor) (rs : List Result) : Prop :=
  exec i s = .next ((s.noted c i).posting c.grp rs)

/-! ## Entries of the issue queue and parks -/

/-- The number that the word's access draws. -/
def State.drawn (s : State) : State := { s with nextId := s.nextId + 1 }

/-- A result whose value the access or wait of number `id` will supply. -/
def waitRes (c : Cursor) (r : Reg) (mask : Mask) (id : Nat) : Result :=
  { slotB := c.slotB, reg := r, mask := mask, vals := [], how := .set, src := id }

/-- What a word at the cursor puts into the issue queue of its group `x`; an entry of the handler's slot is marked as such. -/
def entryOf (x : Group) (c : Cursor) (id : Nat) (opc : BitVec 6) (body : EntryBody) (bad : List Bad) (dst : Nat) : Entry :=
  { id := id, serial := c.serial, slotB := c.slotB, pos := c.pos, resume := c.next, repi := c.repi, opc := opc, body := body
    done := c.done, bad := bad, dst := dst, handler := x.priv && c.slotB == x.privB }

/-- The word's entry takes the place of number `id` in its group's issue queue, which holds its entries in the order of their numbers. -/
def State.queueingAs (s : State) (c : Cursor) (id : Nat) (opc : BitVec 6) (body : EntryBody) (bad : List Bad) (dst : Nat) : State :=
  s.modGrp c.grp fun x => { x with queue := insertEntry (entryOf x c id opc body bad dst) x.queue }

/-- The word draws a number and its entry joins the issue queue of its group. -/
def State.queueing (s : State) (c : Cursor) (opc : BitVec 6) (body : EntryBody) (bad : List Bad) (dst : Nat) : State :=
  s.drawn.queueingAs c s.nextId opc body bad dst

/-- The slot is parked in the word `i`. -/
def State.parking (s : State) (c : Cursor) (why : ParkWhy) (i : Instr) (arg : Word) (id : Nat) : State :=
  let p : Park :=
    { why := why, word := i, pos := c.pos, lanes := c.lanes, arg := arg, id := id, serial := c.serial, repi := c.repi }
  s.modSlot c.grp c.slotB fun x => { x with park := some p }

/-- The bytes of registers, each four bytes with the lowest first, as far as a datum of `n` bytes reaches. -/
def datumBytes (ws : List Word) (n : Nat) : List Byte := (ws.flatMap fun w => leBytes 4 w.toNat).take n

/-! ## Frames -/

/-- Nothing but the group `g` differs. -/
def OnlyGroup (g : Nat) (s t : State) : Prop :=
  t = { s with groups := t.groups } ∧ ∀ h, h ≠ g → t.grp h = s.grp h

/-- Nothing of the group `g` differs but its outstanding results, the notes of R19 on the scalars that they write and an open region's
notes on them. -/
def OnlyResults (g : Nat) (s t : State) : Prop :=
  OnlyGroup g s t ∧ t.grp g =
    { s.grp g with out := (t.grp g).out, tryR := (t.grp g).tryR, wroteA := (t.grp g).wroteA, wroteB := (t.grp g).wroteB }

/-- Nothing but the touches of pinned windows differs (R233). -/
def OnlyPins (s t : State) : Prop :=
  t = { s with ctxs := t.ctxs } ∧ ∀ k, t.ctx k = { s.ctx k with pins := (t.ctx k).pins }

/-- Every byte of memory reads as before, by whichever group: of global memory as a core sees it, and of the scratchpads. -/
def SameBytes (s t : State) : Prop :=
  (∀ core ctx va, t.seenByte core ctx va = s.seenByte core ctx va) ∧
    ∀ core a, cell (t.core core).spad a = cell (s.core core).spad a

end Sys2Proof.Machine
end

