-- ==== Sys2Proof/Certificates/Slice0/Obligations.lean ====
section
/-! DEFINITION. The statements for the provers. Each docstring names the rules of spec/ it formalises; a value or behaviour that the model
chose names its log entry. -/

open Sys2Proof Sys2Proof.Machine

/-! ## Integer words (R75-R84) -/

/-- R75: the sixteen words of majors 0x01 and 0x02 complete, and vD[L] := f(vA[L], vB[L]) is their one result, for every register and every
value; a source that is also the destination is read before it is written. R76: IMINN, IMAXN, POPC, CLZ, BREV, BFX, BFI and PRMT complete
with the value of their pseudocode; CLZ counts the shifts that leave nothing, which is 32 for 0. -/
def Obligations.VectorIntegerResults : Prop :=
  (∀ (s : State) (c : Cursor) (d a b : BitVec 7),
      let A (i : Nat) : Word := (s.grp c.grp).v a.toNat i
      let B (i : Nat) : Word := (s.grp c.grp).v b.toNat i
      let gives (i : Instr) (f : Nat → Word) : Prop := Ready s c i → Gives i s c [vecRes c d.toNat f]
      gives (.iadd d a b) (fun i => A i + B i) ∧
      gives (.isub d a b) (fun i => A i - B i) ∧
      gives (.imul d a b) (fun i => A i * B i) ∧
      gives (.imulh d a b) (fun i => ((A i).signExtend 64 * (B i).signExtend 64).extractLsb' 32 32) ∧
      gives (.imulhn d a b) (fun i => ((A i).setWidth 64 * (B i).setWidth 64).extractLsb' 32 32) ∧
      gives (.imin d a b) (fun i => if (A i).toInt ≤ (B i).toInt then A i else B i) ∧
      gives (.imax d a b) (fun i => if (A i).toInt ≤ (B i).toInt then B i else A i) ∧
      gives (.iabsd d a b) (fun i => BitVec.ofNat 32 ((A i).toInt - (B i).toInt).natAbs) ∧
      gives (.and d a b) (fun i => A i &&& B i) ∧
      gives (.or d a b) (fun i => A i ||| B i) ∧
      gives (.xor d a b) (fun i => A i ^^^ B i) ∧
      gives (.andn d a b) (fun i => A i &&& ~~~(B i)) ∧
      gives (.shl d a b) (fun i => A i <<< (B i &&& 31)) ∧
      gives (.shr d a b) (fun i => A i >>> (B i &&& 31)) ∧
      gives (.sar d a b) (fun i => (A i).sshiftRight (B i &&& 31).toNat) ∧
      gives (.rotl d a b) (fun i => (A i).rotateLeft (B i &&& 31).toNat)) ∧
  (∀ (s : State) (c : Cursor) (d a b : BitVec 7),
      let A (i : Nat) : Word := (s.grp c.grp).v a.toNat i
      let B (i : Nat) : Word := (s.grp c.grp).v b.toNat i
      let D (i : Nat) : Word := (s.grp c.grp).v d.toNat i
      let pos (i : Nat) : Nat := ((B i).extractLsb' 0 5).toNat
      let w (i : Nat) : Nat := min ((B i).extractLsb' 8 6).toNat (min 32 (32 - pos i))
      let ones (i : Nat) : Word := BitVec.ofNat 32 (2 ^ w i - 1)
      let byte (i k : Nat) : BitVec 8 :=
        let n : BitVec 4 := (B i).extractLsb' (4 * k) 4
        let x : BitVec 8 := (A i).extractLsb' (8 * (n.toNat % 4)) 8
        if n.getLsbD 2 then 0 else if n.getLsbD 3 then (if x.msb then 0xFF else 0) else x
      let gives (i : Instr) (f : Nat → Word) : Prop := Ready s c i → Gives i s c [vecRes c d.toNat f]
      gives (.iminn d a b) (fun i => if (A i).toNat ≤ (B i).toNat then A i else B i) ∧
      gives (.imaxn d a b) (fun i => if (A i).toNat ≤ (B i).toNat then B i else A i) ∧
      gives (.popc d a) (fun i => BitVec.ofNat 32 ((List.range 32).countP fun k => (A i).getLsbD k)) ∧
      gives (.clz d a) (fun i => BitVec.ofNat 32 ((List.range 32).countP fun k => A i >>> k == 0)) ∧
      gives (.brev d a) (fun i => (A i).reverse) ∧
      gives (.bfx d a b) (fun i => A i >>> pos i &&& ones i) ∧
      gives (.bfi d a b) (fun i => D i &&& ~~~(ones i <<< pos i) ||| A i <<< pos i &&& ones i <<< pos i) ∧
      gives (.prmt d a b) (fun i => byte i 3 ++ byte i 2 ++ byte i 1 ++ byte i 0))

/-- R77, R36, R45: the immediate forms complete with vD[L] := f(vA[L], imm), where imm is the sign-extended field, or V24 of a LIT before it
and the field as its low byte. R77, R82: an immediate shift whose immediate is not 0 to 31 does not execute: the check of R43 names ILLOP,
cause 0. -/
def Obligations.VectorImmediateResults : Prop :=
  (∀ (s : State) (c : Cursor) (d a : BitVec 7) (k : BitVec 8),
      let A (i : Nat) : Word := (s.grp c.grp).v a.toNat i
      let imm : Word := match c.lit with | none => k.signExtend 32 | some v => v ++ k
      let gives (i : Instr) (f : Nat → Word) : Prop := Ready s c i → Gives i s c [vecRes c d.toNat f]
      gives (.iaddi d a k) (fun i => A i + imm) ∧
      gives (.andi d a k) (fun i => A i &&& imm) ∧
      gives (.ori d a k) (fun i => A i ||| imm) ∧
      gives (.xori d a k) (fun i => A i ^^^ imm) ∧
      gives (.shli d a k) (fun i => A i <<< imm) ∧
      gives (.shri d a k) (fun i => A i >>> imm) ∧
      gives (.sari d a k) (fun i => (A i).sshiftRight imm.toNat) ∧
      gives (.imuli d a k) (fun i => A i * imm)) ∧
  (∀ (s : State) (g : Nat) (b : Bool) (lit : Option (BitVec 24)) (raw : Word) (d a : BitVec 7) (k : BitVec 8),
      let imm : Word := match lit with | none => k.signExtend 32 | some v => v ++ k
      31 < imm.toNat →
        s.issueCause g b lit raw (.shli d a k) = some (0, raw) ∧ s.issueCause g b lit raw (.shri d a k) = some (0, raw) ∧
        s.issueCause g b lit raw (.sari d a k) = some (0, raw) ∧ s.issueCause g b lit raw (.sshli d a k) = some (0, raw))

/-- R78, R79: ICMP completes with the triple whose bit L, for each active lane L, is the condition, and whose other bits are 0; SEL takes
vA[L] where bit L of qC is 1, else vB[L]; SCMP (R82) writes 1 or 0. -/
def Obligations.CompareAndSelectResults : Prop :=
  ∀ (s : State) (c : Cursor),
    let test (k : Cond) (x y : Word) : Bool :=
      match k with
      | .eq => decide (x = y) | .ne => decide (x ≠ y) | .lt => decide (x.toInt < y.toInt) | .le => decide (x.toInt ≤ y.toInt)
      | .ltn => decide (x.toNat < y.toNat) | .len => decide (x.toNat ≤ y.toNat)
      | .tstz => decide (x &&& y = 0) | .tstnz => decide (x &&& y ≠ 0)
    let V (n : BitVec 7) (i : Nat) : Word := (s.grp c.grp).v n.toNat i
    (∀ (d : BitVec 7) (a b : BitVec 7) (k : Cond), Ready s c (.icmp d a b k) →
      ∃ m : Mask, (∀ i < 96, m.getLsbD i = (c.lanes.getLsbD i && test k (V a i) (V b i))) ∧
        Gives (.icmp d a b k) s c (tripleRes c d.toNat m)) ∧
    (∀ (d a b q : BitVec 6), Ready s c (.sel d a b q) →
      Gives (.sel d a b q) s c [vecRes c d.toNat fun i =>
        if ((s.grp c.grp).q c.slotB q.toNat).getLsbD i then (s.grp c.grp).v a.toNat i else (s.grp c.grp).v b.toNat i]) ∧
    (∀ (d a b : BitVec 7) (k : Cond), Ready s c (.scmp d a b k) →
      Gives (.scmp d a b k) s c [scaRes c d.toNat
        (if test k ((s.grp c.grp).sc c.slotB a.toNat) ((s.grp c.grp).sc c.slotB b.toNat) then 1 else 0)])

/-- R80: MOV, VBC, VTOS, LANE and the four shuffles complete; a shuffle's source lane that lies outside 0 to 95 or outside the slot's active
lanes gives the lane its own value. R84, R17: mask words complete on triples read as one 96-bit value; MFFS answers 96 when no bit is set. -/
def Obligations.LaneMoveAndMaskResults : Prop :=
  (∀ (s : State) (c : Cursor) (d a b : BitVec 7),
      let g := s.grp c.grp
      let A (i : Nat) : Word := g.v a.toNat i
      let sc : Word := g.sc c.slotB b.toNat
      let from_ (j : Int) (i : Nat) : Word := if 0 ≤ j ∧ j ≤ 95 ∧ c.lanes.getLsbD j.toNat = true then A j.toNat else A i
      let gives (i : Instr) (f : Nat → Word) : Prop := Ready s c i → Gives i s c [vecRes c d.toNat f]
      gives (.mov d a) A ∧
      gives (.vbc d a) (fun _ => g.sc c.slotB a.toNat) ∧
      (Ready s c (.vtos d a b) →
        Gives (.vtos d a b) s c [scaRes c d.toNat (if c.lanes.getLsbD b.toNat then A b.toNat else 0)]) ∧
      gives (.lane d) (fun i => BitVec.ofNat 32 i) ∧
      gives (.shfl d a b) (fun i => from_ (g.v b.toNat i &&& 0x7F).toNat i) ∧
      gives (.shflx d a b) (fun i => from_ (i ^^^ (sc &&& 0x7F).toNat : Nat) i) ∧
      gives (.shflup d a b) (fun i => from_ (i - sc.toInt) i) ∧
      gives (.shfldn d a b) (fun i => from_ (i + sc.toInt) i)) ∧
  (∀ (s : State) (c : Cursor) (d a b : BitVec 7),
      let g := s.grp c.grp
      let q (n : BitVec 7) : Mask :=
        g.s c.slotB (4 * n.toNat + 2) ++ g.s c.slotB (4 * n.toNat + 1) ++ g.s c.slotB (4 * n.toNat)
      let gives (i : Instr) (m : Mask) : Prop := Ready s c i → Gives i s c (tripleRes c d.toNat m)
      let bits (m : Mask) : List Nat := (List.range 96).filter fun i => m.getLsbD i
      gives (.mand d a b) (q a &&& q b) ∧
      gives (.mor d a b) (q a ||| q b) ∧
      gives (.mxor d a b) (q a ^^^ q b) ∧
      gives (.mandn d a b) (q a &&& ~~~(q b)) ∧
      gives (.mnot d a) (~~~(q a)) ∧
      gives (.mseta d) ((s.grp c.grp).slot c.slotB).owned ∧
      (Ready s c (.mpopc d a) → Gives (.mpopc d a) s c [scaRes c d.toNat (BitVec.ofNat 32 (bits (q a)).length)]) ∧
      (Ready s c (.mffs d a) → Gives (.mffs d a) s c [scaRes c d.toNat (BitVec.ofNat 32 ((bits (q a)).headD 96))]))

/-- R81: reductions, scans and matches of the slot's active lanes in ascending order complete; with no active lane a reduction writes its
neutral value. -/
def Obligations.ReductionAndScanResults : Prop :=
  ∀ (s : State) (c : Cursor) (d a : BitVec 7),
    let A (i : Nat) : Word := (s.grp c.grp).v a.toNat i
    let act : List Nat := (List.range 96).filter fun i => c.lanes.getLsbD i
    let sum (ls : List Nat) : Word := (ls.map A).sum
    let givesS (i : Instr) (w : Word) : Prop := Ready s c i → Gives i s c [scaRes c d.toNat w]
    let givesV (i : Instr) (f : Nat → Word) : Prop :=
      Ready s c i → ∃ h, (∀ i < 96, c.lanes.getLsbD i = true → h i = f i) ∧ Gives i s c [vecRes c d.toNat h]
    givesS (.redadd d a) (sum act) ∧
    givesS (.redmin d a) (act.foldr (fun i m => if (A i).toInt ≤ m.toInt then A i else m) 0x7FFFFFFF) ∧
    givesS (.redmax d a) (act.foldr (fun i m => if m.toInt ≤ (A i).toInt then A i else m) 0x80000000) ∧
    givesS (.redor d a) (act.foldr (fun i m => A i ||| m) 0) ∧
    givesV (.scanadd d a) (fun i => sum (act.filter fun k => k ≤ i)) ∧
    givesV (.scanaddx d a) (fun i => sum (act.filter fun k => k < i)) ∧
    givesV (.matchLead d a) (fun i => BitVec.ofNat 32 ((act.filter fun k => A k == A i).headD 0)) ∧
    givesV (.matchCount d a) (fun i => BitVec.ofNat 32 (act.countP fun k => A k == A i))

/-- R82: scalar words complete with sD := f(scA, scB), an sc field of 64 and above being the constant field - 96 (R34). R83, R34: 64-bit words
complete on pairs; a constant in a pair position is sign-extended to 64 bits. -/
def Obligations.ScalarAndPairIntegerResults : Prop :=
  (∀ (s : State) (c : Cursor) (d a b : BitVec 7) (k : BitVec 8),
      let val (n : BitVec 7) : Word :=
        if n.toNat < 64 then (s.grp c.grp).s c.slotB n.toNat else BitVec.ofInt 32 ((n.toNat : Int) - 96)
      let imm : Word := match c.lit with | none => k.signExtend 32 | some v => v ++ k
      let gives (i : Instr) (w : Word) : Prop := Ready s c i → Gives i s c [scaRes c d.toNat w]
      gives (.sadd d a b) (val a + val b) ∧
      gives (.ssub d a b) (val a - val b) ∧
      gives (.smul d a b) (val a * val b) ∧
      gives (.sand d a b) (val a &&& val b) ∧
      gives (.sor d a b) (val a ||| val b) ∧
      gives (.sxor d a b) (val a ^^^ val b) ∧
      gives (.sshl d a b) (val a <<< (val b &&& 31)) ∧
      gives (.sshr d a b) (val a >>> (val b &&& 31)) ∧
      gives (.saddi d a k) (val a + imm) ∧
      gives (.sandi d a k) (val a &&& imm) ∧
      gives (.sori d a k) (val a ||| imm) ∧
      gives (.sshli d a k) (val a <<< imm)) ∧
  (∀ (s : State) (c : Cursor) (d a b : BitVec 7),
      let g := s.grp c.grp
      let sval (n : BitVec 7) : Dword :=
        if n.toNat < 64 then g.s c.slotB (n.toNat + 1) ++ g.s c.slotB n.toNat else BitVec.ofInt 64 ((n.toNat : Int) - 96)
      let vval (n : BitVec 7) (i : Nat) : Dword := g.v (n.toNat + 1) i ++ g.v n.toNat i
      let A (i : Nat) : Word := g.v a.toNat i
      let B (i : Nat) : Word := g.v b.toNat i
      let gives (i : Instr) (f : Nat → Dword) : Prop := Ready s c i → Gives i s c (vecPairRes c d.toNat f)
      (Ready s c (.sadd64 d a b) → Gives (.sadd64 d a b) s c (scaPairRes c d.toNat (sval a + sval b))) ∧
      (Ready s c (.ssub64 d a b) → Gives (.ssub64 d a b) s c (scaPairRes c d.toNat (sval a - sval b))) ∧
      gives (.iadd64 d a b) (fun i => vval a i + vval b i) ∧
      gives (.isub64 d a b) (fun i => vval a i - vval b i) ∧
      gives (.isext d a) (fun i => (A i).signExtend 64) ∧
      gives (.izext d a) (fun i => (A i).setWidth 64) ∧
      gives (.imulw d a b) (fun i => BitVec.ofInt 64 ((A i).toInt * (B i).toInt)) ∧
      gives (.imulwn d a b) (fun i => BitVec.ofNat 64 ((A i).toNat * (B i).toNat)))

/-- R58: the magnitude man x 2^exp, rounded to a multiple r x 2^q of a larger last place, is the one that the mode names: RZ the next below,
RDN and RUP by the sign, RNE the nearest with ties to even, RNA with ties away from zero, RSTO (R59) away exactly when the draw is below
the sixteen bits under the last place; and it is inexact exactly when bits are lost. R85-R87, R55-R59: FADD, FSUB, FMUL, FMAC, FDIV and
FMA complete on every register and value where no exception they raise is enabled: each active lane's sum, product, quotient or fused
result rounded once in the mode of the word, or of %mode where the field is dyn and for FMA; FMAC reads vD as its addend; the flags are
ORed into %fflags; RSTO advances each active lane's seed once. -/
def Obligations.RoundingAndFloatArithmetic : Prop :=
  (∀ (neg : Bool) (man : Nat) (exp q : Int), exp < q →
      let unit : Nat := 2 ^ (q - exp).toNat
      let r (m : Fp.Mode) : Nat := ((⟨neg, man, exp, false⟩ : Fp.Exact).roundAt m q).1
      let below (n : Nat) : Prop := n * unit ≤ man ∧ man < (n + 1) * unit
      let above (n : Nat) : Prop := man ≤ n * unit ∧ n * unit < man + unit
      below (r .rz) ∧
      (if neg then above (r .rdn) ∧ below (r .rup) else below (r .rdn) ∧ above (r .rup)) ∧
      (2 * (r .rne * unit) ≤ 2 * man + unit ∧ 2 * man ≤ 2 * (r .rne * unit) + unit ∧
        (2 * (r .rne * unit) = 2 * man + unit ∨ 2 * man = 2 * (r .rne * unit) + unit → r .rne % 2 = 0)) ∧
      (2 * (r .rna * unit) ≤ 2 * man + unit ∧ 2 * man < 2 * (r .rna * unit) + unit) ∧
      (∀ u, if u < man % unit * 65536 / unit then r (.rsto u) = man / unit + 1 else r (.rsto u) = man / unit) ∧
      ∀ m, ((⟨neg, man, exp, false⟩ : Fp.Exact).roundAt m q).2 = true ↔ man % unit ≠ 0) ∧
  (∀ (s : State) (c : Cursor),
      let g := s.grp c.grp
      let val (n i : Nat) : Fp.FVal := Fp.fp32.read g.ftz (g.v n i).toNat
      let gives (i : Instr) (d rm : Nat) (f : Fp.Mode → Nat → Nat × Word) : Prop :=
        let h (l : Nat) : Word × Word := (BitVec.ofNat 32 (f (g.laneMode rm l 0) l).1, (f (g.laneMode rm l 0) l).2)
        Ready s c i → Unmasked s c (fun l => (h l).2) → Gives i s c (floatRes s c d 1 rm h)
      (∀ (d a b : BitVec 7) (r : Rm),
        gives (.fadd d a b r) d.toNat (g.rmOf r) (fun m l => Fp.fp32.add m g.ftz (val a.toNat l) (val b.toNat l)) ∧
        gives (.fsub d a b r) d.toNat (g.rmOf r) (fun m l => Fp.fp32.add m g.ftz (val a.toNat l) (val b.toNat l).negate) ∧
        gives (.fmul d a b r) d.toNat (g.rmOf r) (fun m l => Fp.fp32.mul m g.ftz (val a.toNat l) (val b.toNat l)) ∧
        gives (.fmac d a b r) d.toNat (g.rmOf r)
          (fun m l => Fp.fp32.fma m g.ftz (val a.toNat l) (val b.toNat l) (val d.toNat l)) ∧
        gives (.fdiv d a b r) d.toNat (g.rmOf r) (fun m l => Fp.fp32.div m g.ftz (val a.toNat l) (val b.toNat l))) ∧
      ∀ (d a b e : BitVec 6), gives (.fma d a b e) d.toNat (g.regs.mode.toNat % 8)
        (fun m l => Fp.fp32.fma m g.ftz (val a.toNat l) (val b.toNat l) (val e.toNat l)))

/-- R85: what a sum, a product and a quotient of two values are where no rounding happens: an exact zero sum is +0, and -0 under RDN; infinity
minus infinity and 0 x infinity are the canonical NaN with NV; x / ±0 is a signed infinity with DZ for finite x; 0 / 0 and infinity /
infinity are NaN with NV (R86); a signalling NaN sets NV. R90: the table of special cases: the results and flags of the special functions
on zeros, infinities, negative values and NaNs, whatever the free values. -/
def Obligations.FloatSpecialOperands : Prop :=
  (∀ (m : Fp.Mode) (ftz n n' : Bool) (man : Nat) (exp : Int), 0 < man →
      let nan : Nat := 0x7FC00000
      let inf (n : Bool) : Nat := if n then 0xFF800000 else 0x7F800000
      let zero (n : Bool) : Nat := if n then 0x80000000 else 0
      Fp.fp32.add m ftz (.fin n man exp) (.fin (!n) man exp) = (zero (m == .rdn), 0) ∧
      Fp.fp32.add m ftz (.zero n) (.zero !n) = (zero (m == .rdn), 0) ∧
      Fp.fp32.add m ftz (.inf n) (.inf !n) = (nan, 0x01) ∧
      Fp.fp32.mul m ftz (.zero n) (.inf n') = (nan, 0x01) ∧
      Fp.fp32.fma m ftz (.inf n) (.zero n') (.nan false) = (nan, 0x01) ∧
      Fp.fp32.div m ftz (.zero n) (.zero n') = (nan, 0x01) ∧
      Fp.fp32.div m ftz (.inf n) (.inf n') = (nan, 0x01) ∧
      Fp.fp32.div m ftz (.fin n man exp) (.zero n') = (inf (n != n'), 0x02) ∧
      Fp.fp32.div m ftz (.fin n man exp) (.inf n') = (zero (n != n'), 0) ∧
      Fp.fp32.add m ftz (.nan true) (.fin n man exp) = (nan, 0x01) ∧
      Fp.fp32.mul m ftz (.fin n man exp) (.nan false) = (nan, 0)) ∧
  (∀ (m : Fp.Mode) (ftz : Bool),
      (Fp.rcp ftz 0 = (0x7F800000, 2) ∧ Fp.rcp ftz 0x80000000 = (0xFF800000, 2) ∧ Fp.rcp ftz 0x7F800000 = (0, 0) ∧
        Fp.rcp ftz 0xFF800000 = (0x80000000, 0)) ∧
      (Fp.rsq ftz 0 = (0x7F800000, 2) ∧ Fp.rsq ftz 0x80000000 = (0xFF800000, 2) ∧ Fp.rsq ftz 0x7F800000 = (0, 0) ∧
        Fp.rsq ftz 0xFF800000 = (0x7FC00000, 1)) ∧
      (Fp.sqrt32 m ftz 0x80000000 = (0x80000000, 0) ∧ Fp.sqrt32 m ftz 0x7F800000 = (0x7F800000, 0) ∧
        Fp.sqrt32 m ftz 0xFF800000 = (0x7FC00000, 1)) ∧
      (∀ w : Word, 0x80800000 ≤ w.toNat → w.toNat ≤ 0xFF800000 →
        Fp.rsq ftz w = (0x7FC00000, 1) ∧ Fp.sqrt32 m ftz w = (0x7FC00000, 1)) ∧
      (∀ w : Word, w = 0x7F800000 ∨ w = 0xFF800000 → Fp.sin ftz w = (0x7FC00000, 1) ∧ Fp.cos ftz w = (0x7FC00000, 1)) ∧
      (∀ w : Word, w = 0 ∨ w = 0x80000000 → Fp.sin ftz w = (w, 0) ∧ Fp.tanh ftz w = (w, 0) ∧ Fp.cos ftz w = (0x3F800000, 0)) ∧
      (Fp.tanh ftz 0x7F800000 = (0x3F800000, 0) ∧ Fp.tanh ftz 0xFF800000 = (0xBF800000, 0)) ∧
      ∀ w : Word, 0x7F800000 < (w &&& 0x7FFFFFFF).toNat →
        let fl : Word := if w.getLsbD 22 then 0 else 1
        ∀ r ∈ [Fp.ex2 ftz w, Fp.lg2 ftz w, Fp.rcp ftz w, Fp.rsq ftz w, Fp.sqrt32 m ftz w, Fp.sin ftz w, Fp.cos ftz w, Fp.tanh ftz w],
          r = (0x7FC00000, fl))

/-- R88, R91: FMIN, FMAX, FMINM and FMAXM complete where no exception they raise is enabled, with the operand that the rule chooses after
flushing; FABS, FNEG, FCPSGN, FCLASS and HPACK complete always, move bits only and raise nothing. R89: FCMP completes where no exception
it raises is enabled: the triple's bit of each active lane is the condition on the values, -0 equal to +0, subnormals zero under FTZ, and
the other bits are 0; LT and LE set NV for any NaN, the others for a signalling one. -/
def Obligations.FloatSelectAndCompareResults : Prop :=
  (∀ (s : State) (c : Cursor) (d a b : BitVec 7),
      let g := s.grp c.grp
      let flushed (n i : Nat) : Word :=
        let w := g.v n i
        if g.ftz && w.extractLsb' 23 8 == 0 then w &&& 0x80000000 else w
      let A (i : Nat) : Word := flushed a.toNat i
      let B (i : Nat) : Word := flushed b.toNat i
      let isNan (w : Word) : Bool := decide (0x7F800000 < (w &&& 0x7FFFFFFF).toNat)
      let isSig (w : Word) : Bool := isNan w && !w.getLsbD 22
      -- the order of the values, -0 below +0
      let key (w : Word) : Int := if w.msb then -((w &&& 0x7FFFFFFF).toNat : Int) - 1 else w.toNat
      let mag (w : Word) : Nat := (w &&& 0x7FFFFFFF).toNat
      let nv (i : Nat) : Word := if isSig (A i) || isSig (B i) then 1 else 0
      let pick (better : Word → Word → Bool) (i : Nat) : Word × Word :=
        (if isNan (A i) && isNan (B i) then 0x7FC00000 else if isNan (A i) then B i else if isNan (B i) then A i
         else if better (A i) (B i) then A i else B i, nv i)
      let low (x y : Word) : Bool := decide (key x ≤ key y)
      let high (x y : Word) : Bool := decide (key y < key x)
      let lowM (x y : Word) : Bool := decide (mag x < mag y) || (mag x == mag y && low x y)
      let highM (x y : Word) : Bool := decide (mag y < mag x) || (mag x == mag y && high x y)
      let picks (i : Instr) (f : Nat → Word × Word) : Prop :=
        Ready s c i → Unmasked s c (fun l => (f l).2) → Gives i s c (floatRes s c d.toNat 0 1 f)
      let gives (i : Instr) (f : Nat → Word) : Prop := Ready s c i → Gives i s c [vecRes c d.toNat f]
      let raw (n : BitVec 7) (i : Nat) : Word := g.v n.toNat i
      picks (.fmin d a b) (pick low) ∧ picks (.fmax d a b) (pick high) ∧
      picks (.fminm d a b) (pick lowM) ∧ picks (.fmaxm d a b) (pick highM) ∧
      gives (.fabs d a) (fun i => raw a i &&& 0x7FFFFFFF) ∧
      gives (.fneg d a) (fun i => raw a i ^^^ 0x80000000) ∧
      gives (.fcpsgn d a b) (fun i => (raw a i &&& 0x7FFFFFFF) ||| (raw b i &&& 0x80000000)) ∧
      gives (.hpack d a b) (fun i => (raw b i).extractLsb' 0 16 ++ (raw a i).extractLsb' 0 16) ∧
      gives (.fclass d a) (fun i =>
        let w := raw a i
        if isNan w then (if isSig w then 0x100 else 0x200)
        else if mag w = 0x7F800000 then (if w.msb then 0x001 else 0x080)
        else if mag w = 0 then (if w.msb then 0x008 else 0x010)
        else if mag w < 0x800000 then (if w.msb then 0x004 else 0x020)
        else (if w.msb then 0x002 else 0x040))) ∧
  (∀ (s : State) (c : Cursor) (d a b : BitVec 7) (k : FCond),
      let g := s.grp c.grp
      let flushed (n i : Nat) : Word :=
        let w := g.v n i
        if g.ftz && w.extractLsb' 23 8 == 0 then w &&& 0x80000000 else w
      let A (i : Nat) : Word := flushed a.toNat i
      let B (i : Nat) : Word := flushed b.toNat i
      let isNan (w : Word) : Bool := decide (0x7F800000 < (w &&& 0x7FFFFFFF).toNat)
      let isSig (w : Word) : Bool := isNan w && !w.getLsbD 22
      let key (w : Word) : Int := if w.msb then -((w &&& 0x7FFFFFFF).toNat : Int) else w.toNat
      let un (i : Nat) : Bool := isNan (A i) || isNan (B i)
      let eq (i : Nat) : Bool := !un i && decide (key (A i) = key (B i))
      let lt (i : Nat) : Bool := !un i && decide (key (A i) < key (B i))
      let bit (i : Nat) : Bool :=
        match k with
        | .eq => eq i | .ne => !eq i | .lt => lt i | .le => lt i || eq i
        | .un => un i | .ord => !un i | .ltu => un i || lt i | .leu => un i || lt i || eq i
      let fl (i : Nat) : Word :=
        if (match k with | .lt => un i | .le => un i | _ => isSig (A i) || isSig (B i)) then 1 else 0
      Ready s c (.fcmp d a b k) → Unmasked s c fl →
        ∃ m : Mask, (∀ i < 96, m.getLsbD i = (c.lanes.getLsbD i && bit i)) ∧
          Gives (.fcmp d a b k) s c (tripleRes c d.toNat m ++ flagRes c (orFlags c.lanes fl)))

/-- R62, R63: FCVT with valid narrow descriptors completes where no exception it raises is enabled: each active lane's value of the source
format, converted with one rounding into the destination format. R91: the packed words complete where no exception they raise is enabled:
both elements as their FP32 counterparts compute them, in BF16 or FP16, each rounded once under %mode.RM; the flags of both are ORed;
HMAC2 reads vD as its addend; under RSTO the seed advances for element 0 and then for element 1. -/
def Obligations.ConversionAndPackedPairResults : Prop :=
  (∀ (s : State) (c : Cursor) (d a : BitVec 7) (t : BitVec 4) (u : BitVec 3) (r : Rm),
      let g := s.grp c.grp
      let nf (k : Nat) : Word := tgetD g.regs.nf k 0
      let f (l : Nat) : Word × Word :=
        Fp.cvtDst t.toNat g.ftz nf (g.laneMode (g.rmOf r) l 0) (Fp.cvtSrc u.toNat g.ftz (nf 0) (g.v a.toNat l))
      Ready s c (.fcvt d a t u r) → (u = 7 → Fp.nfValid (nf 0) = true) → (9 ≤ t.toNat → Fp.nfValid (nf (t.toNat - 9)) = true) →
        Unmasked s c (fun l => (f l).2) → Gives (.fcvt d a t u r) s c (floatRes s c d.toNat 1 (g.rmOf r) f)) ∧
  (∀ (s : State) (c : Cursor) (d a b : BitVec 7),
      let g := s.grp c.grp
      let rm : Nat := g.regs.mode.toNat % 8
      let op (f : Fp.Fmt) (h : Fp.Fmt → Fp.Mode → Fp.FVal → Fp.FVal → Fp.FVal → Nat × Word) (l : Nat) : Word × Word :=
        let e (k : Nat) : Nat × Word :=
          let v (n : Nat) : Fp.FVal := f.read g.ftz ((g.v n l).extractLsb' (16 * k) 16).toNat
          h f (g.laneMode rm l k) (v a.toNat) (v b.toNat) (v d.toNat)
        (BitVec.ofNat 32 ((e 1).1 * 65536 + (e 0).1), (e 0).2 ||| (e 1).2)
      let add (f : Fp.Fmt) := op f fun f m x y _ => f.add m g.ftz x y
      let mul (f : Fp.Fmt) := op f fun f m x y _ => f.mul m g.ftz x y
      let mac (f : Fp.Fmt) := op f fun f m x y z => f.fma m g.ftz x y z
      let gives (i : Instr) (h : Nat → Word × Word) : Prop :=
        Ready s c i → Unmasked s c (fun l => (h l).2) → Gives i s c (floatRes s c d.toNat 2 rm h)
      gives (.hadd2Bf16 d a b) (add Fp.bf16) ∧ gives (.hmul2Bf16 d a b) (mul Fp.bf16) ∧ gives (.hmac2Bf16 d a b) (mac Fp.bf16) ∧
      gives (.hadd2F16 d a b) (add Fp.fp16) ∧ gives (.hmul2F16 d a b) (mul Fp.fp16) ∧ gives (.hmac2F16 d a b) (mac Fp.fp16))

/-- R90, R67: the special functions complete where no exception they raise is enabled. EX2, LG2, RCP, RSQ, SIN, COS and TANH read no rounding
mode; SQRT is rounded under %mode.RM. Where the spec bounds a value without stating it, the function holds a free value of Config (log 2),
and nothing here rests on it. -/
def Obligations.SpecialFunctionResults : Prop :=
  ∀ (s : State) (c : Cursor) (d a : BitVec 7),
    let g := s.grp c.grp
    let gives (i : Instr) (n rm : Nat) (f : Nat → Word × Word) : Prop :=
      Ready s c i → Unmasked s c (fun l => (f l).2) → Gives i s c (floatRes s c d.toNat n rm f)
    let A (l : Nat) : Word := g.v a.toNat l
    let rm : Nat := g.regs.mode.toNat % 8
    gives (.ex2 d a) 0 1 (fun l => Fp.ex2 g.ftz (A l)) ∧ gives (.lg2 d a) 0 1 (fun l => Fp.lg2 g.ftz (A l)) ∧
    gives (.rcp d a) 0 1 (fun l => Fp.rcp g.ftz (A l)) ∧ gives (.rsq d a) 0 1 (fun l => Fp.rsq g.ftz (A l)) ∧
    gives (.sin d a) 0 1 (fun l => Fp.sin g.ftz (A l)) ∧ gives (.cos d a) 0 1 (fun l => Fp.cos g.ftz (A l)) ∧
    gives (.tanh d a) 0 1 (fun l => Fp.tanh g.ftz (A l)) ∧
    gives (.sqrt d a) 1 rm (fun l => Fp.sqrt32 (g.laneMode rm l 0) g.ftz (A l))

/-- R56: an enabled exception stops the word: of those enabled in %mode whose flag an active lane raises, the first in the order NV, DZ, OF,
CV, NF, UF, NX is raised as a cause of class E, with %tmask the lanes that raised it, %tdone 0 and %tinfo the flags of all the word's
lanes, and neither destination nor flags nor seed is written. -/
def Obligations.EnabledExceptionWritesNothing : Prop :=
  ∀ (s : State) (c : Cursor) (d a b : BitVec 7) (r : Rm) (k : Cause) (m : Mask),
    let g := s.grp c.grp
    let val (n i : Nat) : Fp.FVal := Fp.fp32.read g.ftz (g.v n i).toNat
    let order : List (Nat × Nat × Cause) :=
      [(0, 4, 0x10), (1, 5, 0x11), (2, 6, 0x12), (5, 10, 0x18), (6, 9, 0x19), (3, 7, 0x13), (4, 8, 0x14)]
    let stops (i : Instr) (f : Fp.Mode → Nat → Nat × Word) : Prop :=
      let fl (l : Nat) : Word := (f (g.laneMode (g.rmOf r) l 0) l).2
      let all : Word := orFlags c.lanes fl
      Ready s c i →
        (∃ e ∈ order, e.2.2 = k ∧ g.regs.mode.getLsbD e.2.1 = true ∧ all.getLsbD e.1 = true ∧
          (∀ e' ∈ order.takeWhile (fun x => x != e), g.regs.mode.getLsbD e'.2.1 = false ∨ all.getLsbD e'.1 = false) ∧
          ∀ l < 96, m.getLsbD l = (c.lanes.getLsbD l && (fl l).getLsbD e.1)) →
        exec i s = .next ((s.noted c i).raiseE c k m 0 all [])
    stops (.fadd d a b r) (fun m l => Fp.fp32.add m g.ftz (val a.toNat l) (val b.toNat l)) ∧
    stops (.fmul d a b r) (fun m l => Fp.fp32.mul m g.ftz (val a.toNat l) (val b.toNat l)) ∧
    stops (.fmac d a b r) (fun m l => Fp.fp32.fma m g.ftz (val a.toNat l) (val b.toNat l) (val d.toNat l)) ∧
    stops (.fdiv d a b r) (fun m l => Fp.fp32.div m g.ftz (val a.toNat l) (val b.toNat l))

/-- R92-R94: TMENT, TMMRG and TMEXT complete on the lanes inside the domain where no enabled exception is raised and at least one lane is
active: each active lane's partial or mean; TMRED gives every active lane the tree's partial. R95: TMLD of an image that can be read and
passes the checks loads pair k: the core's table store holds the image's 514 words, a result that sets the group's VALID bit k is the last
one outstanding (R31), every other group of the core loses bit k, and no memory changes. -/
def Obligations.TransformedMeanResults : Prop :=
  (∀ (s : State) (c : Cursor) (d a b : BitVec 7), c.lanes ≠ 0 →
      let g := s.grp c.grp
      let mode := Fp.tmMode g.regs.tshape
      let part (n l : Nat) : Fp.Partial := ⟨g.v n l, g.v (n + 1) l, g.v (n + 2) l⟩
      let active (l : Nat) : Prop := l < 96 ∧ c.lanes.getLsbD l = true
      let partials (i : Instr) (f : Nat → Fp.TmRes Fp.Partial) : Prop :=
        ∀ (r : Nat → Fp.Partial) (fl : Nat → Word), (∀ l, active l → f l = .ok (r l) (fl l)) → Ready s c i → Unmasked s c fl →
          ∃ x y z, (∀ l, active l → x l = (r l).s ∧ y l = (r l).e ∧ z l = (r l).n) ∧
            Gives i s c ([vecRes c d.toNat x, vecRes c (d.toNat + 1) y, vecRes c (d.toNat + 2) z] ++ flagRes c (orFlags c.lanes fl))
      partials (.tment d a) (fun l => Fp.tmEntry mode (s.tablesOf c.grp) (g.v a.toNat l)) ∧
      partials (.tmmrg d a b) (fun l => Fp.tmMerge mode (part a.toNat l) (part b.toNat l)) ∧
      (∀ (r fl : Nat → Word), (∀ l, active l → Fp.tmExit mode (s.tablesOf c.grp) (part a.toNat l) = .ok (r l) (fl l)) →
        Ready s c (.tmext d a) → Unmasked s c fl →
          ∃ x, (∀ l, active l → x l = r l) ∧ Gives (.tmext d a) s c (vecRes c d.toNat x :: flagRes c (orFlags c.lanes fl))) ∧
      let xs := (List.range 96).map fun l => if c.lanes.getLsbD l then part a.toNat l else tmIdentity
      let t := tmTree mode xs
      ∀ p, t.val = some p → t.ovf = false → t.dom = false → (∀ l, active l → Fp.tmInputOk mode (part a.toNat l) = true) →
        (∀ e ∈ flagTraps, g.regs.mode.getLsbD e.2.1 = false ∨ t.fl.getLsbD e.1 = false) → Ready s c (.tmred d a) →
          Gives (.tmred d a) s c
            ([vecRes c d.toNat fun _ => p.s, vecRes c (d.toNat + 1) fun _ => p.e, vecRes c (d.toNat + 2) fun _ => p.n] ++ flagRes c t.fl)) ∧
  (∀ (s : State) (c : Cursor) (a k : BitVec 7) (bs : List Byte), k.toNat < 16 → Ready s c (.tmld a k) →
      let core := coreOf c.grp
      let ws := wordsFrom 514 bs
      s.readAt c.grp ((s.grp c.grp).sp c.slotB a.toNat).toNat 2056 4 = .ok bs → Fp.pairOk (ws.take 257) (ws.drop 257) = true →
        ∃ t, exec (.tmld a k) s = .next t ∧ tget (t.core core).tables k.toNat = some ws ∧
          (t.grp c.grp).out = (s.grp c.grp).out ++
            [{ slotB := c.slotB, reg := .spr 0x03, mask := 1, vals := [1#32 <<< k.toNat], how := .or, src := 0 }] ∧
          (∀ g, coreOf g = core → g ≠ c.grp → (t.grp g).regs.tfn.getLsbD k.toNat = false) ∧
          (∀ j, j ≠ k.toNat → tget (t.core core).tables j = tget (s.core core).tables j) ∧ t.mem = s.mem ∧ t.llc = s.llc)

/-- R39, R96, R106: BRA, BZ, BNZ, BANY, BALL, BNONE and BALW complete. A taken branch whose target has the high bits of the kernel entry sets
where the slot goes on after the bundle, and does nothing else; one not taken does nothing; a target with other high bits raises ILLTGT.
BALW is taken where the send allowance towards a device below 576 is less than the threshold in %allowth (R315). R12, R96: BRM completes:
no lane taken, nothing happens; every active lane taken, the slot goes to the target; some taken and the other slot FREE, that slot runs
from the target on the taken lanes and this one keeps the rest; some taken and both slots in use, outside a try region, an entry is
pushed and this slot keeps the rest where the divergence stack has room, and DSOVF is raised where it has none. -/
def Obligations.BranchesGoToTheirTarget : Prop :=
  (∀ (s : State) (c : Cursor) (q : BitVec 6) (f : BitVec 15),
      let g := s.grp c.grp
      let triple : Mask := g.s c.slotB (4 * q.toNat + 2) ++ g.s c.slotB (4 * q.toNat + 1) ++ g.s c.slotB (4 * q.toNat)
      let target : Dword := BitVec.ofInt 64 (3 * ((c.pos.toNat / 3 : Nat) + f.toInt))
      let legal : Prop := target.toNat % 3 = 0 ∧ target >>> 32 = (s.wg g.wg).hdr.entry >>> 32
      let goes (i : Instr) (taken : Prop) : Prop := Ready s c i →
        (taken → legal → exec i s = .next { s with cursor := some { c with xfer := some target } }) ∧
        (taken → ¬legal → exec i s = .next (s.raiseE c 0x0B 0 0 0 [])) ∧ (¬taken → exec i s = .next s)
      goes (.bra f) True ∧
      goes (.bz q f) (g.s c.slotB q.toNat = 0) ∧
      goes (.bnz q f) (g.s c.slotB q.toNat ≠ 0) ∧
      goes (.bany q f) (triple &&& c.lanes ≠ 0) ∧
      goes (.ball q f) (triple &&& c.lanes = c.lanes) ∧
      goes (.bnone q f) (triple &&& c.lanes = 0) ∧
      let dev := (g.s c.slotB q.toNat).toNat
      let a := tgetD s.allow dev {}
      (dev < 576 → goes (.balw q f) (a.cap - a.out < (g.regs.allowth.extractLsb' 0 16).toNat)) ∧
      (576 ≤ dev → Ready s c (.balw q f) → exec (.balw q f) s = .next (s.raiseE c 0x0B 0 0 0 []))) ∧
  (∀ (s : State) (c : Cursor) (q : BitVec 6) (f : BitVec 15), Ready s c (.brm q f) →
      let g := s.grp c.grp
      let x := g.slot c.slotB
      let other := g.slot (!c.slotB)
      let target : Dword := BitVec.ofInt 64 (3 * ((c.pos.toNat / 3 : Nat) + f.toInt))
      let taken := c.lanes &&& g.q c.slotB q.toNat
      (taken = 0 → exec (.brm q f) s = .next s) ∧
      (s.targetOk c.grp target = true →
        (taken ≠ 0 → taken = c.lanes → exec (.brm q f) s = .next { s with cursor := some { c with xfer := some target } }) ∧
        (taken ≠ 0 → taken ≠ c.lanes → other.st = .free → x.st = .run → ∃ t, exec (.brm q f) s = .next t ∧
          let y := (t.grp c.grp).slot c.slotB
          let z := (t.grp c.grp).slot (!c.slotB)
          z.st = .run ∧ z.pc = target ∧ z.owned = taken ∧ z.active = taken ∧ z.point = x.point ∧ z.rstack = x.rstack ∧
          y.active = c.lanes &&& ~~~taken ∧ y.owned = x.owned &&& ~~~taken ∧ y.st = .run ∧ y.pc = x.pc ∧ t.mem = s.mem) ∧
        (taken ≠ 0 → taken ≠ c.lanes → other.st ≠ .free → g.tryR = none → g.dsp < (s.wg g.wg).hdr.dstack →
          exec (.brm q f) s = .next ((s.pushStack c.grp { target := target, mask := taken, point := x.point, rstack := x.rstack }).setLanes
            c (x.owned &&& ~~~taken) (c.lanes &&& ~~~taken))) ∧
        (taken ≠ 0 → taken ≠ c.lanes → other.st ≠ .free → g.tryR = none → (s.wg g.wg).hdr.dstack ≤ g.dsp →
          exec (.brm q f) s = .next (s.raiseE c 0x30 0 0 0 []))))

/-- R98, R99: CALL, CALLS, JMPI and RET complete: a call of a legal callee with room on the return stack pushes the packet after the one that
holds the word and goes to the callee; RET pops; JMPI and RET go to a legal target. A full stack raises CALLSTK, an empty one RETEMPTY.
R100, R101: CALLI on lanes of one target is the call of that target; on lanes of several legal targets, with room on both stacks and
outside a try region, the slot goes on the lanes of the first, its point and the image it returns by are the packet after, one entry is
pushed for each other target, and the steps of R14 follow. RECONV sets the point. -/
def Obligations.CallsAndReturnsMoveTheStack : Prop :=
  (∀ (s : State) (c : Cursor),
      let g := s.grp c.grp
      let x := g.slot c.slotB
      let after : Dword := BitVec.ofInt 64 (3 * ((c.pos.toNat / 3 : Nat) + 1))
      let pair (a : BitVec 7) : Dword :=
        if a.toNat < 64 then g.s c.slotB (a.toNat + 1) ++ g.s c.slotB a.toNat else BitVec.ofInt 64 ((a.toNat : Int) - 96)
      let goes (stack : List Dword) (t : Dword) : State :=
        { s.modSlot c.grp c.slotB fun y => { y with rstack := stack } with cursor := some { c with xfer := some t } }
      let calls (i : Instr) (t : Dword) : Prop := Ready s c i → s.calleeCause c.grp t = none →
        (x.rstack.length < 7 → exec i s = .next (goes (after :: x.rstack) t)) ∧
        (7 ≤ x.rstack.length → exec i s = .next (s.raiseE c 0x34 0 0 0 []))
      (∀ o : BitVec 24, calls (.call o) (BitVec.ofInt 64 (3 * ((c.pos.toNat / 3 : Nat) + o.toInt)))) ∧
      (∀ a : BitVec 7, calls (.calls a) (pair a)) ∧
      (∀ a : BitVec 7, Ready s c (.jmpi a) → s.targetOk c.grp (pair a) = true →
        exec (.jmpi a) s = .next { s with cursor := some { c with xfer := some (pair a) } }) ∧
      (Ready s c .ret → (∀ t r, x.rstack = t :: r → s.targetOk c.grp t = true → exec .ret s = .next (goes r t)) ∧
        (x.rstack = [] → exec .ret s = .next (s.raiseE c 0x35 0 0 0 [])))) ∧
  (∀ (s : State) (c : Cursor),
      let g := s.grp c.grp
      let x := g.slot c.slotB
      let after : Dword := BitVec.ofInt 64 (3 * ((c.pos.toNat / 3 : Nat) + 1))
      (∀ (a : BitVec 7) (t : Dword), Ready s c (.calli a) → c.lanes ≠ 0 →
        (∀ i < 96, c.lanes.getLsbD i = true → g.vp a.toNat i = t) → s.calleeCause c.grp t = none → x.rstack.length < 7 →
          exec (.calli a) s = .next { s.modSlot c.grp c.slotB fun y => { y with rstack := after :: x.rstack } with
            cursor := some { c with xfer := some t } }) ∧
      (∀ (a : BitVec 7) (t u : Dword × Mask) (rest : List (Dword × Mask)), Ready s c (.calli a) →
        g.targets c.lanes a.toNat = t :: u :: rest → (∀ v ∈ t :: u :: rest, s.calleeCause c.grp v.1 = none) →
        x.rstack.length < 7 → g.tryR = none → g.dsp + (rest.length + 1) ≤ (s.wg g.wg).hdr.dstack →
          ∃ m : State, exec (.calli a) s = .next (m.r14 c.grp c.slotB) ∧
            (m.grp c.grp).dsp = g.dsp + (rest.length + 1) ∧ m.cursor = some { c with xfer := some t.1 } ∧
            let y := (m.grp c.grp).slot c.slotB
            y.active = t.2 ∧ y.point = some after ∧ y.rstack = after :: x.rstack ∧ (m.grp c.grp).slot (!c.slotB) = g.slot (!c.slotB)) ∧
      (∀ o : BitVec 24, Ready s c (.reconv o) →
        let p : Dword := BitVec.ofInt 64 (3 * ((c.pos.toNat / 3 : Nat) + o.toInt))
        ∃ t, exec (.reconv o) s = .next t ∧ ((t.grp c.grp).slot c.slotB).point = some p ∧
          (t.grp c.grp) = g.setSlot c.slotB { x with point := some p } ∧ t.mem = s.mem ∧ t.cores = s.cores))

/-- R98: a call target is legal exactly where it is a packet start with the context's high bits whose packet before it is a callee descriptor
(LIT with 1 to 128 registers and two NOPs), and the callee needs no more registers than the kernel's call budget. -/
def Obligations.CalleeDescriptorIsChecked : Prop :=
  ∀ (s : State) (g : Nat) (t : Dword) (w0 w1 w2 : Word),
    let ctx := s.ctxOf g
    t.toNat % 3 = 0 → 3 ≤ t.toNat → t >>> 32 = (s.wg (s.grp g).wg).hdr.entry >>> 32 →
    s.fetchWord ctx (t.toNat - 3) = .ok w0 → s.fetchWord ctx (t.toNat - 2) = .ok w1 → s.fetchWord ctx (t.toNat - 1) = .ok w2 →
      let n := w0.toNat - 0x25000000
      (w1 = 0x3F000000 ∧ w2 = 0x3F000000 ∧ w0.extractLsb' 24 8 = 0x25 ∧ 1 ≤ n ∧ n ≤ 128 →
        s.calleeCause g t = if (s.wg (s.grp g).wg).hdr.callregs < n then some 0x33 else none) ∧
      (¬(w1 = 0x3F000000 ∧ w2 = 0x3F000000 ∧ w0.extractLsb' 24 8 = 0x25 ∧ 1 ≤ n ∧ n ≤ 128) → s.calleeCause g t = some 0x0B)

/-- R44: the iterations that a REP of N + 1 issues of an integer vector word adds are that word with each stepped field raised by the stride
times the iteration, for every such word of formats F3 and FI, with two or three registers or with an immediate, which stays, and fields
that stay in the file. R44, R45, R117, R118: REP hands its further iterations to the bundle, LIT its value to the next word, NOP does
nothing, YIELD moves the group to the end of its level's order and does nothing else, EXIT ends the active lanes: the slot keeps its other
lanes with none active, and a slot that keeps none is FREE before the steps of R14. The model's choice: where EXIT frees the slot of the
handler, the group leaves privileged mode (log 104). -/
def Obligations.RepAndPrefixWords : Prop :=
  (∀ (n : BitVec 6) (sd sa sb : BitVec 1) (t : BitVec 2) (d a b : BitVec 7) (m : BitVec 8) (syn : Bool),
      let stride : Nat := 2 ^ t.toNat
      let step (on : BitVec 1) (f : BitVec 7) (k : Nat) : BitVec 7 := if on = 1 then f + BitVec.ofNat 7 (k * stride) else f
      let fits (l : List (BitVec 1 × BitVec 7)) : Prop := ∀ on f, (on, f) ∈ l → on = 1 → f.toNat + n.toNat * stride < 128
      let adds (i : Instr) (later : Nat → Instr) : Prop :=
        repLater n sd sa sb t ⟨false, syn, i, encode false syn i⟩ =
          (List.range n.toNat).map fun k => ⟨false, syn, later (k + 1), encode false syn (later (k + 1))⟩
      (fits [(sd, d), (sa, a), (sb, b)] →
        ∀ w ∈ ([.iadd, .isub, .imul, .imulh, .imulhn, .imin, .imax, .iabsd, .and, .or, .xor, .andn, .shl, .shr, .sar, .rotl, .iminn,
            .imaxn, .bfx, .bfi, .prmt] : List (BitVec 7 → BitVec 7 → BitVec 7 → Instr)),
          adds (w d a b) fun k => w (step sd d k) (step sa a k) (step sb b k)) ∧
      (fits [(sd, d), (sa, a)] → sb = 0 →
        (∀ w ∈ ([.popc, .clz, .brev] : List (BitVec 7 → BitVec 7 → Instr)), adds (w d a) fun k => w (step sd d k) (step sa a k)) ∧
        ∀ w ∈ ([.iaddi, .andi, .ori, .xori, .shli, .shri, .sari, .imuli] : List (BitVec 7 → BitVec 7 → BitVec 8 → Instr)),
          adds (w d a m) fun k => w (step sd d k) (step sa a k) m)) ∧
  (∀ (s : State) (c : Cursor),
      let g := s.grp c.grp
      let x := g.slot c.slotB
      (∀ (n : BitVec 6) (sd sa sb : BitVec 1) (t : BitVec 2) (i : Issue) (rest : List Issue) (w : DWord),
        Ready s c (.rep n sd sa sb t) → s.issued = i :: rest → i.words[(c.pos - i.pos).toNat + 1]? = some w →
          exec (.rep n sd sa sb t) s =
            .next { s with issued := { i with later := repLater n sd sa sb t w, repPos := c.pos + 1 } :: rest }) ∧
      (∀ v : BitVec 24, Ready s c (.lit v) → exec (.lit v) s = .next { s with cursor := some { c with lit := some v } }) ∧
      (Ready s c .nop → exec .nop s = .next s) ∧
      (Ready s c .yield → ∃ t, exec .yield s = .next t ∧ t = { s with cores := t.cores } ∧
        let level := (s.wg g.wg).prio
        let me := c.grp % 32
        t.core (coreOf c.grp) = { s.core (coreOf c.grp) with rr := (t.core (coreOf c.grp)).rr } ∧
        (t.core (coreOf c.grp)).order level = ((s.core (coreOf c.grp)).order level).filter (fun k => k != me) ++ [me] ∧
        ∀ l, l ≠ level → (t.core (coreOf c.grp)).order l = (s.core (coreOf c.grp)).order l) ∧
      (Ready s c .exit →
        (x.owned &&& ~~~c.lanes ≠ 0 → ∃ t, exec .exit s = .next t ∧
          (t.grp c.grp).slot c.slotB =
            { x with owned := x.owned &&& ~~~c.lanes, active := 0, bank := 0, repBank := ((t.grp c.grp).slot c.slotB).repBank } ∧
          (t.grp c.grp).slot (!c.slotB) = g.slot (!c.slotB) ∧ t = { s with groups := t.groups }) ∧
        (x.owned &&& ~~~c.lanes = 0 → ∃ m : State, exec .exit s = .next (m.r14 c.grp c.slotB) ∧
          ((m.grp c.grp).slot c.slotB).st = .free ∧ ((m.grp c.grp).slot c.slotB).owned = 0 ∧
          (g.priv = false ∨ g.privB ≠ c.slotB → (m.grp c.grp).slot (!c.slotB) = g.slot (!c.slotB) ∧ (m.grp c.grp).priv = g.priv) ∧
          (g.priv = true → g.privB = c.slotB → (m.grp c.grp).priv = false ∧
            (m.grp c.grp).slot (!c.slotB) = { g.slot (!c.slotB) with pend := none } ∧
            ((g.slot (!c.slotB)).pend = none → (m.grp c.grp).trap = g.trap)))))

/-- R103, R105-R111: taking a trap. The trap state names the cause, the slot, the word and the lanes; the save area receives v120-v127,
s48-s55, the slot's q14 and the resume word, through the core's L1; the slot runs the handler in privileged mode on its lanes with no
reconvergence point; the other slot, the group's other registers and the rest of the machine stay, but for what a full L1 writes back. -/
def Obligations.TakingATrap : Prop :=
  ∀ (s : State) (g : Nat) (r : Raised),
    let x := s.grp g
    let y := x.slot r.slotB
    let t := s.deliver g r
    let z := (t.grp g).slot r.slotB
    let resume : Dword := if r.cls = .e then r.resume else y.pc
    let saved := s.hwStore g (s.saveAddr g) (x.saveImage r.slotB resume)
    t = { saved with groups := t.groups } ∧ saved.groups = s.groups ∧ saved.mem = s.mem ∧ saved.llc = s.llc ∧ saved.wgs = s.wgs ∧
    (∀ h, h ≠ g → t.grp h = s.grp h) ∧
    (t.grp g).regs = x.regs ∧ (t.grp g).slot (!r.slotB) = x.slot (!r.slotB) ∧ (t.grp g).out = x.out ∧ (t.grp g).queue = x.queue ∧
    (t.grp g).priv = true ∧ (t.grp g).privB = r.slotB ∧
    z.st = .run ∧ z.pc = (s.wg x.wg).hdr.handler ∧ z.active = y.active ∧ z.bank = y.active ∧ z.owned = y.owned ∧ z.point = none ∧
    let tr := (t.grp g).trapRegs
    (tr.tcause.extractLsb' 0 7 = r.cause ∧ tr.tcause.getLsbD 7 = decide (r.done ≠ 0) ∧ tr.tcause.getLsbD 8 = r.slotB ∧
      tr.tcause.extractLsb' 9 23 = 0) ∧
    tr.tpc = r.pos.setWidth 32 ∧ tr.tmask = r.mask ∧ tr.tdone = r.done ∧ tr.tinfo = r.info ∧ tr.faddr = r.faddr ∧
    tr.ttask.extractLsb' 20 12 = y.seq ∧
    let stored := (s.core (coreOf g)).storeBytes (s.ctxOf g) (g % 32) 26 (s.saveAddr g) (x.saveImage r.slotB resume)
    (stored.l1.length ≤ 1024 → saved = s.setCore (coreOf g) stored) ∧
    (x.saveImage r.slotB resume).length = 3136 ∧
    ((x.saveImage r.slotB resume).drop 3120).take 8 = leBytes 8 resume.toNat ∧
    ((x.saveImage r.slotB resume).drop 3104).take 12 = leBytes 12 y.bank.toNat

/-- R119, R102, R110: TRAP and BKPT take their trap: in a group with a handler, outside a try region and outside the handler, with nothing
outstanding, no speculative fence pending, no trap under way and no REP in progress, the next state is the trap's: cause SWTRAP or BKPT,
class I, %tpc the word, %tmask the active lanes, %tinfo n; the word resumes at its own bundle. -/
def Obligations.SoftwareTrapsAreTaken : Prop :=
  ∀ (s : State) (c : Cursor) (n : BitVec 7),
    let g := s.grp c.grp
    let x := g.slot c.slotB
    s.cursor = some c → c.void = false → g.dead = false → g.tryR = none → g.priv = false → g.trap = none → g.spec = none →
    g.out = [] → g.a.rep = none → g.b.rep = none → (s.wg g.wg).hdr.handler ≠ 0 →
      let u : State := { s with cursor := some { c with gone := true, void := true } }
      let raised (k : Cause) : Raised :=
        { cause := k, cls := .i, slotB := c.slotB, pos := c.pos, mask := x.active, info := n.setWidth 32, repi := c.repi
          resume := x.pc, serial := c.serial }
      let taken (i : Instr) (k : Cause) : Prop := ∃ t, exec i s = .next t ∧ t.cursor = u.cursor ∧
        (∀ h, h ≠ c.grp → t.grp h = s.grp h) ∧ t.grp c.grp = (u.deliver c.grp (raised k)).grp c.grp ∧
        t.cores = (u.deliver c.grp (raised k)).cores ∧ t.mem = s.mem
      taken (.trap n) 0x09 ∧ taken (.bkpt n) 0x08

/-- R114, R111: a return whose wait is over, from a save area whose RESUME has the context's high bits, with no cause pending and lanes left
in the slot: RTT resumes at RESUME and arms STEP where asked, EMRET resumes at RESUME or, for class I, at the bundle after the trapping
one, REPLAY resumes at RESUME and, but for class I, reissues the word first on the lanes of ACT not done; each leaves privileged mode and
restores the lanes of ACT that the slot owns, and the steps of R14 that the trap held up follow, of which there are none where the slot
runs and the stack is empty or the other slot is in use. ENDG empties both slots and the divergence stack. R114, R120: outside privileged mode the
four returns, and MFS and MTS of the trap registers 0x20 to 0x27 with an operand that fits, raise PRIV; inside the handler's slot they do
not. The model's choices, not R114's: the activity mask is the restored ACT at once, whatever is still under way (log 95), and the class that
REPLAY and EMRET test is that of the trap as it was taken, whatever the handler wrote to %tcause (log 98). -/
def Obligations.ReturnsAndPrivilege : Prop :=
  (∀ (s : State) (c : Cursor),
      let g := s.grp c.grp
      let b := c.slotB
      let x := g.slot b
      let bs := s.viewBytes c.grp (s.saveAddr c.grp) 3136
      let act := imageAct bs &&& x.owned
      let resume := imageResume bs
      g.privB = b → g.trap = none → g.a.pend = none → g.b.pend = none → x.owned ≠ 0 → g.dead = false →
      s.returnReady c.grp = true →
        let back (i : Instr) (pc : Dword) (rep : Option Issue) (step : Bool) : Prop := Ready s c i → s.highOk c.grp pc = true →
          ∃ t : State, exec i s = .next ((t.r14Alone c.grp b).settle c.grp).fixed ∧ t.cursor = some c ∧
            (x.st = .run → g.dsp = 0 ∨ (g.slot (!b)).st ≠ .free →
              ((t.r14Alone c.grp b).settle c.grp).fixed = { t with cursor := some { c with gone := true } }) ∧
            (t.grp c.grp).priv = false ∧
            (let z := (t.grp c.grp).slot b
             z.pc = pc ∧ z.active = act ∧ z.bank = act ∧ z.owned = x.owned ∧ z.rep = rep ∧ z.step = step) ∧
            (∀ k < 8, ∀ l < 96, (t.grp c.grp).v (120 + k) l = leWord ((bs.drop (384 * k + 4 * l)).take 4)) ∧
            (∀ k < 8, (t.grp c.grp).s b (48 + k) = leWord ((bs.drop (3072 + 4 * k)).take 4)) ∧
            (∀ n l, n < 120 → (t.grp c.grp).v n l = g.v n l) ∧ t.mem = s.mem ∧ t.cores = s.cores
        (∀ step : BitVec 1, back (.rtt step) resume x.kept (x.step || step == 1)) ∧
        (back .replay resume (if g.privI then x.kept else s.replayIssue c.grp b act resume) x.step) ∧
        (back .emret (if g.privI then BitVec.ofNat 64 (s.bundleAfter c.grp (s.trapPos c.grp)) else resume) x.kept x.step) ∧
        ∀ r : BitVec 1, Ready s c (.endg r) → ∃ t, exec (.endg r) s = .next t ∧ (t.grp c.grp).priv = false ∧
          (t.grp c.grp).a.st = .free ∧ (t.grp c.grp).b.st = .free ∧ (t.grp c.grp).a.owned = 0 ∧ (t.grp c.grp).b.owned = 0 ∧
          (t.grp c.grp).dsp = 0) ∧
  (∀ (s : State) (g : Nat) (b : Bool) (lit : Option (BitVec 24)) (raw : Word) (i : Instr),
      (i = .replay ∨ i = .emret ∨ (∃ t, i = .rtt t) ∨ (∃ r, i = .endg r) ∨
        ∃ d a : BitVec 7, (i = .mfs d a ∧ 0x20 ≤ a.toNat ∧ a.toNat ≤ 0x27 ∨ i = .mts d a ∧ 0x20 ≤ d.toNat ∧ d.toNat ≤ 0x27)) →
      i.kindCause = none → i.illspr = false →
        ((s.grp g).priv = false ∨ (s.grp g).privB ≠ b → s.issueCause g b lit raw i = some (0x07, raw)) ∧
        ((s.grp g).priv = true → (s.grp g).privB = b → s.issueCause g b lit raw i ≠ some (0x07, raw)))

/-- R21, R120, R121: MFS completes with the register's value for every register of R21, MTS with the value's writable bits on every register
it writes, %tfn losing the bits written 0 (R68), and with no effect on a read-only one, WIDF with the field of each lane's work identifier. -/
def Obligations.SpecialRegisterMoves : Prop :=
  ∀ (s : State) (c : Cursor) (d a : BitVec 7),
    let g := s.grp c.grp
    let core := coreOf c.grp
    let h := (s.wg g.wg).hdr
    let value (n : Nat) : Option Word :=
      match n with
      | 0x00 => some g.regs.mode | 0x01 => some g.regs.fflags | 0x02 => some g.regs.tshape | 0x03 => some g.regs.tfn
      | 0x06 => some (BitVec.ofNat 32 (c.grp % 32)) | 0x07 => some (BitVec.ofNat 32 (core % 32))
      | 0x08 => some (BitVec.ofNat 32 (core / 32 % 25)) | 0x09 => some (BitVec.ofNat 32 (core / 800))
      | 0x0A => some (BitVec.ofNat 32 s.chip) | 0x0C => some (g.slot c.slotB).cychi
      | 0x10 => some (tgetD g.regs.nf 0 0) | 0x11 => some (tgetD g.regs.nf 1 0)
      | 0x12 => some (tgetD g.regs.nf 2 0) | 0x13 => some (tgetD g.regs.nf 3 0)
      | 0x20 => some g.trapRegs.tcause | 0x21 => some g.trapRegs.tpc | 0x24 => some g.trapRegs.tinfo
      | 0x26 => some g.trapRegs.trepi | 0x27 => some g.trapRegs.ttask
      | 0x30 => some g.regs.lrep | 0x31 => some g.regs.allowth | 0x32 => some (BitVec.ofNat 32 (s.wg g.wg).ctx)
      | 0x33 => some (BitVec.ofNat 32 (s.wg g.wg).prio) | 0x34 => some g.regs.mcfg | 0x35 => some g.regs.audit
      | _ => none
    (Ready s c (.mfs d a) →
      (∀ w, value a.toNat = some w → Gives (.mfs d a) s c [scaRes c d.toNat w]) ∧
      (a = 0x04 → Gives (.mfs d a) s c [vecRes c d.toNat fun i => (s.wid c.grp i).setWidth 32]) ∧
      (a = 0x05 → Gives (.mfs d a) s c [vecRes c d.toNat fun i => (s.wid c.grp i >>> 32).setWidth 32]) ∧
      (a = 0x0D → Gives (.mfs d a) s c [vecRes c d.toNat fun i => g.regs.seed.getD i 0]) ∧
      (a = 0x22 → Gives (.mfs d a) s c (tripleRes c d.toNat g.trapRegs.tmask)) ∧
      (a = 0x23 → Gives (.mfs d a) s c (tripleRes c d.toNat g.trapRegs.tdone)) ∧
      (a = 0x25 → Gives (.mfs d a) s c (vecPairRes c d.toNat fun i => g.trapRegs.faddr.getD i 0)) ∧
      (a = 0x0B → exec (.mfs d a) s = .next ((s.posting c.grp [scaRes c d.toNat (BitVec.ofNat 32 s.cycles)]).modSlot c.grp
        c.slotB fun x => { x with cychi := BitVec.ofNat 32 (s.cycles / 2 ^ 32) }))) ∧
    (Ready s c (.mts d a) →
      let w := g.sc c.slotB a.toNat
      let sets (n : Nat) (m : Word) : Prop := d.toNat = n → Gives (.mts d a) s c [oneRes c (.spr n) m]
      (w.toNat % 8 ≠ 0 → w.toNat % 8 ≠ 7 → sets 0x00 (w &&& 0x7FF)) ∧
      (w.toNat % 8 = 0 ∨ w.toNat % 8 = 7 → d = 0x00 → exec (.mts d a) s = .next (s.raiseE c 0x0A 0 0 0 [])) ∧
      sets 0x01 (w &&& 0x7F) ∧ (Fp.tmShapeOk w = true → sets 0x02 (w &&& 0xF1FFFF)) ∧
      (Fp.tmShapeOk w = false → d = 0x02 → exec (.mts d a) s = .next (s.raiseE c 0x0A 0 0 0 [])) ∧
      (d = 0x03 → Gives (.mts d a) s c [{ oneRes c (.spr 0x03) (w &&& 0xFFFF) with how := .and }]) ∧
        (∀ n, 0x10 ≤ n → n ≤ 0x13 → sets n (w &&& 0x3FFFF)) ∧
      sets 0x20 (w &&& 0x1FF) ∧ sets 0x21 w ∧ sets 0x24 w ∧ sets 0x26 (w &&& 0x3F) ∧ sets 0x27 (w &&& 0xFFFFFF1F) ∧
      sets 0x30 w ∧ sets 0x31 (w &&& 0xFFFFF) ∧ sets 0x34 (w &&& 0xFFFEFF00) ∧ sets 0x35 w ∧
      (d = 0x0D → Gives (.mts d a) s c [{ vecRes c 0 (fun i => g.v a.toNat i) with reg := .seed }]) ∧
      (∀ n, d.toNat = n → n = 0x22 ∨ n = 0x23 →
        let q := g.q c.slotB a.toNat
        let r (k : Nat) : Reg := if n = 0x22 then .tmask k else .tdone k
        Gives (.mts d a) s c [oneRes c (r 0) (q.extractLsb' 0 32), oneRes c (r 1) (q.extractLsb' 32 32), oneRes c (r 2) (q.extractLsb' 64 32)]) ∧
      (d = 0x25 → Gives (.mts d a) s c [{ vecRes c 0 (fun i => g.v a.toNat i) with reg := .faddr false },
        { vecRes c 0 (fun i => g.v (a.toNat + 1) i) with reg := .faddr true }]) ∧
      (d ∈ ([0x04, 0x05, 0x06, 0x07, 0x08, 0x09, 0x0A, 0x0B, 0x0C, 0x32, 0x33] : List (BitVec 7)) → Gives (.mts d a) s c [])) ∧
    (∀ k : BitVec 7, Ready s c (.widf d k) →
      (k.toNat < h.widths.length → Gives (.widf d k) s c [vecRes c d.toNat fun i =>
        BitVec.ofNat 32 ((s.wid c.grp i).toNat / 2 ^ (h.widths.take k.toNat).sum % 2 ^ (h.widths.getD k.toNat 0))]) ∧
      (h.widths.length ≤ k.toNat → exec (.widf d k) s = .next (s.raiseE c 0x0E 0 0 0 [])))

/-- R132, R129, R247: the checks of a lane's access of `n` bytes at `a`. Private: ALIGN, then PBND, else one piece, or four-byte pieces of a
wider datum, at private_addr. Local: ALIGN, then SPBND. Cluster: ALIGN, then CSPBND above bit 22. Global: NCADDR unless bits 63:57 all
equal bit 56, then ALIGN, and one piece where the address lies in no Colander window; in a window the
query half takes 32-bit loads, the insert half 32-bit stores and the ADD forms of ATOMG and RED, another ATOMG, ATOMX or RED raises ATOMSP
and any other access SKADDR. -/
def Obligations.AccessChecks : Prop :=
  ∀ (s : State) (g lane : Nat) (k : AccKind) (a n : Nat),
    let w := s.wg (s.grp g).wg
    let area : Nat := (96 * w.hdr.priv + 96 * w.hdr.dstack + (if w.hdr.handler = 0 then 0 else 3136) + 127) / 128 * 128
    let base : Nat := w.privb.toNat + (s.grp g).idx * area
    let at_ (o : Nat) : Nat := base + 384 * (o / 4) + 4 * lane + o % 4
    let piece (x len off : Nat) : Piece := { lane := lane, addr := x, len := len, off := off }
    n ∈ [1, 2, 4, 8, 16] →
      (s.checkLane g lane .priv k a n = if a % n ≠ 0 then .error (0x23, a) else if w.hdr.priv < a + n then .error (0x26, a) else
        let ps := if n ≤ 4 then [piece (at_ a) n 0] else (List.range (n / 4)).map fun j => piece (at_ (a + 4 * j)) 4 (4 * j)
        if ps.any fun p => (s.window w.ctx p.addr).isSome then .error (0x2B, a) else .ok (false, ps)) ∧
      (s.checkLane g lane .loc k a n = if a % n ≠ 0 then .error (0x23, a) else if w.hdr.spad < a + n then .error (0x24, a) else
        .ok (true, [piece (262144 * (coreOf g % 32) + w.spb + a) n 0])) ∧
      (a % n ≠ 0 → s.checkLane g lane .clu k a n = .error (0x23, a)) ∧
      (a % n = 0 → 2 ^ 23 ≤ a → s.checkLane g lane .clu k a n = .error (0x25, a)) ∧
      (a % n = 0 → a < 2 ^ 23 → s.spadRange w.ctx (coreOf g / 32 * 32 + a / 262144) (a % 262144) n = true →
        s.checkLane g lane .clu k a n = .ok (true, [piece a n 0])) ∧
      let va : BitVec 64 := BitVec.ofNat 64 a
      let legal : Bool := va.extractLsb' 56 8 == 0 || va.extractLsb' 56 8 == 0xFF
      (legal = false → s.checkLane g lane .glob k a n = .error (0x2E, va.toNat)) ∧
      (legal = true → va.toNat % n ≠ 0 → s.checkLane g lane .glob k a n = .error (0x23, va.toNat)) ∧
      (legal = true → va.toNat % n = 0 → s.window w.ctx va.toNat = none →
        s.checkLane g lane .glob k a n = .ok (false, [piece va.toNat n 0])) ∧
      (∀ base q, legal = true → va.toNat % n = 0 → s.window w.ctx va.toNat = some (base, q) →
        let fits : Bool :=
          match k with
          | .load .b32 => n == 4 && q | .store => n == 4 && !q | .atomic .add => !q | .red .add => !q | _ => false
        let refusal : Cause :=
          match k with
          | .atomic .add => 0x2B | .red .add => 0x2B | .atomic _ => 0x2C | .red _ => 0x2C | _ => 0x2B
        s.checkLane g lane .glob k a n =
          if fits then .ok (false, [{ piece va.toNat n 0 with win := some base }]) else .error (refusal, va.toNat))

/-- R132-R135, R159, R178: every memory word completes: it reads its address A + OFF x size, its data and its operands, and the lanes that
pass their checks become one entry of the group's issue queue, with the destination registers outstanding; scratchpad words add
their extra bank passes to %lrep. Refused lanes of a word that returns values go with the entry; those of a store or RED raise their cause
at once, with the other lanes in %tdone; with no lane left only the cause is raised. An entry comes at the end of the queue, but for one that
replays a faulted access, which takes that access's number and place (R172). A region aborts with COLANDER where its store, ATOMG or RED
reaches a Colander window, and with SCOPE where its write reaches an EXPORT page (R150). The model's choice, not R150's: it aborts with
COLANDER also where the window refuses the access (log 40). -/
def Obligations.MemoryWordsEnterTheQueue : Prop :=
  ∀ (s : State) (c : Cursor) (d a b : BitVec 7),
    let g := s.grp c.grp
    let ctx := s.ctxOf c.grp
    let lanes := (List.range 96).filter fun i => c.lanes.getLsbD i
    let adr (p : Space) (l : Nat) : Nat := match p with | .glob => (g.vp a.toNat l).toNat | _ => (g.v a.toNat l).toNat
    -- What an access of an open region stops at: a Colander window (not ATOMX, opcode 0x2F), then an EXPORT page.
    let colander (opc : BitVec 6) (kind : AccKind) (bank : Bool) (ps : List Piece) (refused : List Bad) : Prop :=
      g.tryR ≠ none ∧ bank = false ∧ kind.writes = true ∧ opc ≠ 0x2F ∧
        ((∃ x ∈ ps, x.win ≠ none) ∨ ∃ x ∈ refused, x.2.1 = 0x2B ∨ x.2.1 = 0x2C)
    let export_ (kind : AccKind) (bank : Bool) (ps : List Piece) : Prop :=
      g.tryR ≠ none ∧ bank = false ∧ kind.writes = true ∧ ∃ x ∈ ps, ∃ e, s.leaf ctx x.addr = some e ∧ leafExport e = true
    -- One access of each lane, of `n` bytes, into `regs` registers from `dst`.
    let vector (i : Instr) (opc : BitVec 6) (kind : AccKind) (p : Space) (n off regs dst : Nat) (data ops : Nat → List Word) : Prop :=
      Ready s c i → ∀ (place : Nat → List Piece) (bad : Nat → Option (Cause × Nat)),
        (∀ l ∈ lanes, s.checkLane c.grp l p kind (adr p l + off) n =
          match bad l with | none => .ok (p.bank, place l) | some k => .error k) →
        let good := lanes.filter fun l => (bad l).isNone
        let refused := lanes.filterMap fun l => (bad l).map fun k => (l, k.1, k.2)
        let ps := good.flatMap fun l => (place l).map fun x =>
          { x with data := ((datumBytes (data l) n).drop x.off).take x.len, ops := ops l }
        let u := s.noted c i
        let id := (u.accessId c).1
        let dests : List Result :=
          if kind.returns then (List.range regs).map fun j => waitRes c (.v (dst + j)) (maskOf good) id else []
        let lrep : List Result := if p.bank = false ∨ extraPasses n ps = 0 then [] else
          [{ oneRes c (.spr 0x30) (BitVec.ofNat 32 (extraPasses n ps)) with how := .add }]
        (colander opc kind p.bank ps refused → exec i s = .next (u.abortTry c.grp 10 0 0)) ∧
        (¬colander opc kind p.bank ps refused → export_ kind p.bank ps → exec i s = .next (u.abortTry c.grp 6 0 0)) ∧
        (¬colander opc kind p.bank ps refused → ¬export_ kind p.bank ps →
          (good = [] → exec i s = .next (u.raiseBad c opc kind.writes refused 0)) ∧
          (good ≠ [] →
            let t := ((u.accessId c).2.posting c.grp (dests ++ lrep)).queueingAs c id opc (.mem kind p.bank ps)
              (if kind.returns then refused else []) dst
            exec i s = .next (if kind.returns then t else t.raiseBad c opc kind.writes refused (maskOf good))))
    let scalar (i : Instr) (opc : BitVec 6) (kind : AccKind) (p : Space) (n off regs dst : Nat) (data : List Word) : Prop :=
      Ready s c i →
        let a0 : Nat := match p with | .glob => (g.sp c.slotB a.toNat).toNat | _ => (g.s c.slotB a.toNat).toNat
        let u := s.noted c i
        let id := (u.accessId c).1
        (∀ k, s.checkLane c.grp 96 p kind (a0 + off) n = .error k →
          (colander opc kind p.bank [] [(96, k.1, k.2)] → exec i s = .next (u.abortTry c.grp 10 0 0)) ∧
          (¬colander opc kind p.bank [] [(96, k.1, k.2)] → exec i s = .next (u.raiseBad c opc kind.writes [(96, k.1, k.2)] 0))) ∧
        ∀ place, s.checkLane c.grp 96 p kind (a0 + off) n = .ok (p.bank, place) →
          let ps := place.map fun x => { x with data := ((datumBytes data n).drop x.off).take x.len }
          let dests : List Result :=
            if kind.returns then (List.range regs).map fun j => waitRes c (sreg (dst + j)) 1 id else []
          (colander opc kind p.bank ps [] → exec i s = .next (u.abortTry c.grp 10 0 0)) ∧
          (¬colander opc kind p.bank ps [] → export_ kind p.bank ps → exec i s = .next (u.abortTry c.grp 6 0 0)) ∧
          (¬colander opc kind p.bank ps [] → ¬export_ kind p.bank ps →
            exec i s = .next (((u.accessId c).2.posting c.grp dests).queueingAs c id opc (.mem kind p.bank ps) [] dst))
    let vecs (r k l : Nat) : List Word := (List.range k).map fun j => g.v (r + j) l
    (∀ (p : Space) (z : Size) (o : BitVec 5),
      let off := o.toNat * z.bytes
      let regs := max 1 (z.bytes / 4)
      vector (.ld d a p z o) 0x28 (.load z) p z.bytes off regs d.toNat (fun _ => []) (fun _ => []) ∧
      vector (.st d a p z o) 0x29 .store p z.bytes off 0 0 (vecs d.toNat regs) (fun _ => []) ∧
      scalar (.lds d a p z o) 0x2A (.load z) p z.bytes off regs d.toNat [] ∧
      scalar (.sts d a p z o) 0x2B .store p z.bytes off 0 0 ((List.range regs).map fun j => g.s c.slotB (d.toNat + j))) ∧
    (∀ o : AOp,
      let k := if o = .cas then 2 else 1
      vector (.atom d a b o) 0x2C (.atomic (atOpOf o)) .loc 4 0 1 d.toNat (fun _ => []) (vecs b.toNat k) ∧
      vector (.atomc d a b o) 0x2D (.atomic (atOpOf o)) .clu 4 0 1 d.toNat (fun _ => []) (vecs b.toNat k) ∧
      vector (.atomg d a b o) 0x2E (.atomic (atOpOf o)) .glob 4 0 1 d.toNat (fun _ => []) (vecs b.toNat k)) ∧
    (∀ o : XOp,
      let wide := o ∈ [XOp.add64, .min64, .max64, .cas64]
      vector (.atomx d a b o) 0x2F (.atomic (atOpOfX o)) .glob (if wide then 8 else 4) 0 (if wide then 2 else 1) d.toNat (fun _ => [])
        (vecs b.toNat (if o = .cas64 then 4 else if wide then 2 else 1))) ∧
    (∀ (p : Space) (o : ROp),
      (p.bank = false ∨ (o ≠ .fadd ∧ o ≠ .add64) → vector (.red p a b o) 0x30 (.red (atOpOfR o)) p (if o = .add64 then 8 else 4) 0 0 0
        (fun _ => []) (vecs b.toNat (if o = .add64 then 2 else 1))) ∧
      (p.bank = true → o = .fadd ∨ o = .add64 → Ready s c (.red p a b o) → exec (.red p a b o) s =
        .next ((s.noted c (.red p a b o)).raiseBad c 0x30 true (lanes.map fun l => (l, 0x2C, adr p l)) 0))) ∧
    (g.replays = [] → s.accessId c = (s.nextId, s.drawn)) ∧
    (∀ (e : Entry) (q : List Entry), (∀ y ∈ q, y.id ≤ e.id) → insertEntry e q = q ++ [e])

/-- R255, R261, R263: SKSTAT and SKQV on a defined region enter the issue queue as reads of eight bytes at the region, once for the group and
once for each active lane with its key; a base that is not canonical raises NCADDR, one that is not a multiple of 2^35 or, for SKQV, lies
in no region raises SKADDR. R255-R260, R262: SKDEF, SKUNDEF, SKMERGE, SKFOLD, SKCLR and SKSNAP on canonical addresses, a base that is a
multiple of 2^35 and a second address that is a multiple of 64 join the issue queue and park their slot until their step at the region's
home is done; else they raise NCADDR, SKADDR or ALIGN, in this order, with the address. -/
def Obligations.ColanderWords : Prop :=
  (∀ (s : State) (c : Cursor) (d a b : BitVec 7),
      let g := s.grp c.grp
      let base := (g.sp c.slotB a.toNat).toNat
      let lanes := (List.range 96).filter fun i => c.lanes.getLsbD i
      let legal := base / 2 ^ 56 = 0 ∨ base / 2 ^ 56 = 255
      let refused (i : Instr) : Prop := Ready s c i →
        (¬legal → exec i s = .next ((s.noted c i).raiseBad c 0x1C false [(96, 0x2E, base)] 0)) ∧
        (legal → base % 2 ^ 35 ≠ 0 → exec i s = .next ((s.noted c i).raiseBad c 0x1C false [(96, 0x2B, base)] 0))
      refused (.skstat d a) ∧ refused (.skqv d a b) ∧
      (Ready s c (.skstat d a) → legal → base % 2 ^ 35 = 0 →
        let n := (s.noted c (.skstat d a)).accessId c
        exec (.skstat d a) s = .next ((n.2.posting c.grp
          [waitRes c (sreg d.toNat) 1 n.1, waitRes c (sreg (d.toNat + 1)) 1 n.1]).queueingAs c n.1 0x1C
            (.mem .skstat false [{ lane := 96, addr := base, len := 8, win := some base }]) [] d.toNat)) ∧
      (Ready s c (.skqv d a b) → legal → base % 2 ^ 35 = 0 → lanes ≠ [] →
        (s.window (s.ctxOf c.grp) base = none →
          exec (.skqv d a b) s = .next ((s.noted c (.skqv d a b)).raiseBad c 0x1C false (lanes.map fun l => (l, 0x2B, base)) 0)) ∧
        (s.window (s.ctxOf c.grp) base ≠ none →
          let n := (s.noted c (.skqv d a b)).accessId c
          exec (.skqv d a b) s = .next ((n.2.posting c.grp
            [waitRes c (.v d.toNat) (maskOf lanes) n.1, waitRes c (.v (d.toNat + 1)) (maskOf lanes) n.1]).queueingAs c n.1 0x1C
              (.mem .skqv false (lanes.map fun l =>
                { lane := l, addr := base, len := 8, ops := [g.v b.toNat l], win := some base })) [] d.toNat)))) ∧
  (∀ (s : State) (c : Cursor) (a b : BitVec 7),
      let g := s.grp c.grp
      let base := (g.sp c.slotB a.toNat).toNat
      let second := (g.sp c.slotB b.toNat).toNat
      let legal (x : Nat) : Prop := x / 2 ^ 56 = 0 ∨ x / 2 ^ 56 = 255
      let word (i : Instr) (op : SkOp) (arg : Nat) (two : Bool) : Prop := Ready s c i →
        let u := s.noted c i
        let bad (k : Cause) (x : Nat) : Prop := exec i s = .next (u.raiseBad c 0x1C false [(96, k, x)] 0)
        (¬legal base → bad 0x2E base) ∧ (legal base → two = true → ¬legal second → bad 0x2E second) ∧
        (legal base → (two = true → legal second) → base % 2 ^ 35 ≠ 0 → bad 0x2B base) ∧
        (legal base → base % 2 ^ 35 = 0 → two = true → legal second → second % 64 ≠ 0 → bad 0x23 second) ∧
        (legal base → base % 2 ^ 35 = 0 → (two = true → legal second ∧ second % 64 = 0) →
          exec i s = .next ((u.queueing c 0x1C (.sk op base arg) [] 0).parking c .colander i 0 s.nextId))
      word (.skdef a b) .skdef second true ∧ word (.skundef a) .undef 0 false ∧ word (.skmerge a b) .merge second true ∧
      word (.skfold a b) .fold (g.sc c.slotB b.toNat).toNat false ∧ word (.skclr a) .clr 0 false ∧ word (.sksnap a b) .snap second true)

/-- R136-R138: CCLEAN, CINV, CFLUSH and PREF of a legal range, and FENCE, enter the issue queue; a range that R136 refuses raises CMAINT. A
FENCE is strict where it says so, inside a try region, with another speculative one pending or with no try slot free; a speculative one
leaves a checkpoint of the registers, the trap registers, the slots and what is outstanding. -/
def Obligations.MaintenanceAndFences : Prop :=
  ∀ (s : State) (c : Cursor),
    let g := s.grp c.grp
    (∀ (l : Level) (a b : BitVec 7),
      let va := (g.sp c.slotB a.toNat).toNat
      let n := (g.sc c.slotB b.toNat).toNat
      let top (x : Nat) : Nat := x / 2 ^ 56
      let lvl : Nat := match l with | .l1 => 0 | .llc => 1 | .msc => 2 | .illegal => 3
      let good (x : Nat) : Prop := l ≠ .illegal ∧ n ≤ 2 ^ 30 ∧ (top va = 0 ∨ top va = 255) ∧ (n ≠ 0 → top (va + n - 1) = top va) ∧
        (x = 1 → va % 128 = 0 ∧ n % 128 = 0)
      let maint (i : Instr) (x : Nat) : Prop := Ready s c i →
        (good x → exec i s = .next ((s.noted c i).queueing c 0x31 (.maint x lvl va n) [] 0)) ∧
        (¬good x → exec i s = .next ((s.noted c i).raiseE c 0x2F 0 0 0x31 []))
      maint (.cclean l a b) 0 ∧ maint (.cinv l a b) 1 ∧ maint (.cflush l a b) 2 ∧ maint (.pref l a b) 3) ∧
    (∀ (k : FKind) (t : BitVec 1) (p : Scope), Ready s c (.fence k t p) →
      let used := (s.groups.filter fun e => coreOf e.1 == coreOf c.grp && (e.2.tryR.isSome || e.2.spec.isSome)).length
      let strict : Bool := t == 1 || g.spec.isSome || g.tryR.isSome || decide (4 ≤ used)
      let u := (s.noted c (.fence k t p)).queueing c 0x32 (.fence k p strict) [] 0
      (strict = true → exec (.fence k t p) s = .next u) ∧
      (strict = false → exec (.fence k t p) s = .next (u.modGrp c.grp fun x =>
        { x with spec := some { id := s.nextId, serial := c.serial
                                ckpt := { regs := g.regs, trapRegs := g.trapRegs, a := g.a, b := g.b, out := g.out } } })))

/-- R141, R142, R154, R155: TRY nests to depth 4 and raises TRYNEST beyond; an outermost one opens the region with its checkpoint, target and
mode once the group has nothing outstanding, the other slot does not run and a try slot is free, and parks its slot before. COMMIT lowers an
inner depth; ABORT rolls back with EXPLICIT and its operand's low byte; COMMIT and ABORT outside a region raise COMMITNT. TSTAT gives the status
word and the rollback mask, TDEPTH the depth. R156: COMMIT at depth 1 of a group-mode region that has nothing outstanding, once the dirty bytes
of the context that its core held have reached their homes (it moves them and waits), whose lock finds no fault and no frozen page and to which
no conflict came, closes the region: status and rollback mask 0, the point of the TRY, the watches gone, and the buffered lines written one after
the other. With a conflict pending it rolls back with CONFLICT; a fault of the lock rolls back with TRAP; while it must wait the slot is parked
in it. -/
def Obligations.TryRegionsOpenAndEnd : Prop :=
  (∀ (s : State) (c : Cursor),
      let g := s.grp c.grp
      let x := g.slot c.slotB
      (∀ (l : BitVec 1) (o : BitVec 23), Ready s c (.tryBegin l o) →
        let u := s.noted c (.tryBegin l o)
        (∀ r, (u.grp c.grp).tryR = some r →
          (r.depth < 4 → exec (.tryBegin l o) s = .next (u.modGrp c.grp fun y => { y with tryR := some { r with depth := r.depth + 1 } })) ∧
          (4 ≤ r.depth → exec (.tryBegin l o) s = .next (u.raiseE c 0x36 0 0 0 []))) ∧
        (g.tryR = none → s.tryReady c.grp c.slotB = true → ∃ t, exec (.tryBegin l o) s = .next t ∧
          t = { s with groups := t.groups } ∧ (∀ h, h ≠ c.grp → t.grp h = s.grp h) ∧
          (t.grp c.grp).regs = g.regs ∧ (t.grp c.grp).slot (!c.slotB) = g.slot (!c.slotB) ∧
          (t.grp c.grp).slot c.slotB = { x with point := none, park := none, seq := x.seq + 1 } ∧
          ∃ r, (t.grp c.grp).tryR = some r ∧ r.depth = 1 ∧ r.laneMode = (l == 1) ∧ r.slotB = c.slotB ∧ r.buf = [] ∧
            r.target = BitVec.ofInt 64 (3 * ((c.pos.toNat / 3 : Nat) + o.toInt)) ∧ r.savedPoint = x.point ∧
            r.ckpt.regs = g.regs ∧ r.ckpt.a = g.a ∧ r.ckpt.b = g.b ∧ r.conflict = false ∧ r.roll = 0) ∧
        (g.tryR = none → s.tryReady c.grp c.slotB = false →
          exec (.tryBegin l o) s = .next (s.parking c .tryWait (.tryBegin l o) 0 0))) ∧
      (s.tryReady c.grp c.slotB = true ↔ g.out = [] ∧ s.repLeft c.grp c.slotB = false ∧ g.spec = none ∧ g.storesOut = false ∧ g.trap = none ∧
        (g.slot (!c.slotB)).st ≠ .run ∧
        (s.groups.filter fun e => coreOf e.1 == coreOf c.grp && (e.2.tryR.isSome || e.2.spec.isSome)).length < 4) ∧
      (Ready s c .commitTry → (g.tryR = none → exec .commitTry s = .next (s.raiseE c 0x37 0 0 0 [])) ∧
        ∀ r, ((s.noted c .commitTry).grp c.grp).tryR = some r → 1 < r.depth → exec .commitTry s =
          .next ((s.noted c .commitTry).modGrp c.grp fun y => { y with tryR := some { r with depth := r.depth - 1 } })) ∧
      (∀ a : BitVec 7, Ready s c (.abortTry a) → (g.tryR = none → exec (.abortTry a) s = .next (s.raiseE c 0x37 0 0 0 [])) ∧
        ∀ r, ((s.noted c (.abortTry a)).grp c.grp).tryR = some r → ∃ t, exec (.abortTry a) s = .next t ∧ (t.grp c.grp).tryR = none ∧
          (t.grp c.grp).tstat = BitVec.ofNat 32 (r.depth * 2 ^ 16) ||| (g.sc c.slotB a.toNat &&& 0xFF) <<< 8 ||| 5) ∧
      (∀ d : BitVec 7,
        (Ready s c (.tstat d) →
          Gives (.tstat d) s c (tripleRes c d.toNat g.troll ++ [scaRes c (4 * d.toNat + 3) g.tstat])) ∧
        (Ready s c (.tdepth d) → Gives (.tdepth d) s c [scaRes c d.toNat (match g.tryR with | none => 0 | some r => BitVec.ofNat 32 r.depth)]))) ∧
  (∀ (s : State) (c : Cursor) (r : TryRegion), Ready s c .commitTry →
      let u := s.noted c .commitTry
      let g := u.grp c.grp
      let ctx := s.ctxOf c.grp
      g.tryR = some r → r.depth = 1 → r.otherFree = false ∨ (g.slot (!c.slotB)).st = .free →
      (g.out ≠ [] ∨ u.repLeft c.grp c.slotB = true ∨ g.regionBusy r = true →
        exec .commitTry s = .next (u.parking c .commitWait .commitTry 0 0)) ∧
      (g.out = [] → u.repLeft c.grp c.slotB = false → g.regionBusy r = false → u.wbDone (coreOf c.grp) ctx r.moved = false →
        (r.moved ≠ 0 → exec .commitTry s = .next (u.parking c .commitWait .commitTry 0 0)) ∧
        (r.moved = 0 →
          let v := u.pushDirty (coreOf c.grp) ctx
          exec .commitTry s = .next ((v.modGrp c.grp fun y => { y with tryR := some { r with moved := v.nextId } }).parking c .commitWait
            .commitTry 0 0))) ∧
      (g.out = [] → u.repLeft c.grp c.slotB = false → g.regionBusy r = false → u.wbDone (coreOf c.grp) ctx r.moved = true →
        (∀ k, u.lockCause c.grp r.buf = some k →
          let t := (u.lockEcc c.grp r.buf).abortTry c.grp 4 k 0
          exec .commitTry s = .next t ∨ exec .commitTry s = .next t.fixed) ∧
        (u.lockCause c.grp r.buf = none → (∀ b ∈ r.buf, b.bank = false → s.frz ctx b.addr = false) → r.laneMode = false →
          (r.conflict = true →
            exec .commitTry s = .next (u.abortTry c.grp 1 0 0) ∨ exec .commitTry s = .next (u.abortTry c.grp 1 0 0).fixed) ∧
          (r.conflict = false → ∃ t, exec .commitTry s = .next t ∧
            let m := (commitLines r.buf).foldl (fun m l => m.commitOne c.grp r.buf l) u
            t.mem = m.mem ∧ t.cores = m.cores ∧ t.llc = m.llc ∧ (t.grp c.grp).tryR = none ∧ (t.grp c.grp).tstat = 0 ∧
            (t.grp c.grp).troll = 0 ∧ ((t.grp c.grp).slot c.slotB).point = r.savedPoint ∧ ((t.grp c.grp).slot c.slotB).park = none ∧
            (∀ w ∈ t.watches, ¬(w.grp = c.grp ∧ w.what = .region)) ∧ (r.buf = [] → t.mem = s.mem ∧ t.cores = s.cores)))))

/-- R158, R154: a rollback drops the region, what is outstanding, the region's loads and the buffer; it restores the scalars, the q14 banks,
the special registers, each vector register that the region has written, and both slots: the slot that opened the region runs at the target
with its lanes and return stack of the TRY and the point saved there, and the other slot has its state, program counter, lanes, point and
return stack of the TRY. The status and the rollback mask are set, and memory is as it was. Deferred causes of stores before the TRY stay.
The model's choice: %tfn is restored whole, VALID bits that another group's TMLD has cleared meanwhile included (log 103). -/
def Obligations.RollbackRestoresTheGroup : Prop :=
  ∀ (s : State) (g code imm : Nat) (cause : Cause) (r : TryRegion), (s.grp g).tryR = some r →
    let t := s.abortTry g code cause imm
    let x := t.grp g
    let old := r.ckpt.regs
    let y := x.slot r.slotB
    let o := if r.slotB then r.ckpt.b else r.ckpt.a
    let z := x.slot (!r.slotB)
    let p := if r.slotB then r.ckpt.a else r.ckpt.b
    t.mem = s.mem ∧ t.cores = s.cores ∧ t.llc = s.llc ∧ (∀ h, h ≠ g → t.grp h = s.grp h) ∧
    x.tryR = none ∧ x.out = [] ∧ x.deferred = (s.grp g).deferred ∧ (∀ f ∈ x.flights, f.entry.id < r.startId) ∧
    x.regs = { old with v := x.regs.v, nf := (s.grp g).regs.nf } ∧
    (∀ n l, l < 96 → x.v n l = match tget r.shadow.reverse n with | some w => w.getD l 0 | none => (s.grp g).v n l) ∧
    y.st = .run ∧ y.pc = r.target ∧ y.point = r.savedPoint ∧ y.owned = o.owned ∧ y.active = o.active ∧ y.bank = o.bank ∧
    y.rstack = o.rstack ∧ z.st = p.st ∧ z.pc = p.pc ∧ z.owned = p.owned ∧ z.active = p.active ∧ z.bank = p.bank ∧ z.point = p.point ∧
    z.rstack = p.rstack ∧
    x.tstat = BitVec.ofNat 32 (cause.toNat * 2 ^ 24 + r.depth * 2 ^ 16 + imm % 256 * 256 + code) ∧ x.troll = o.active ∧
    ∀ w ∈ t.watches, ¬(w.grp = g ∧ w.what = .region)

/-- R140, R198: the barrier that a handle names: 0 to 15 the work-group's own below BARS, 16 to 31 the cluster's where a work-group of the
context holds it, none above or with a bit of 31:5 set. Any other handle raises BARBUD in all six words. R139, R140: the six barrier words
on the barrier `k` that their handle names. BARARV and BARAW hand their arrival to the issue queue, as a release; BARAW and a BARWT whose
phase has not turned park their slot; a BARWT whose phase has turned gives PH and LFLT and acquires. BARINIT sets EXPA, clears the rest
and wakes every waiting slot; BARST gives both words; BAREXP adds to TX and completes the phase where every arrival and byte is in. Values
out of range raise BAROVF. -/
def Obligations.BarriersOfWorkGroups : Prop :=
  (∀ (s : State) (c : Cursor) (d a b : BitVec 7),
      let g := s.grp c.grp
      let w := s.wg g.wg
      let h := (g.sc c.slotB a.toNat).toNat
      let cl := coreOf c.grp / 32
      let held (k : Nat) : Prop := ∃ o, ((s.cluster cl).bar k).holder = some o ∧ (s.wg o).ctx = w.ctx
      w.core = coreOf c.grp →
        (h < 16 → s.barNo w h = if h < w.hdr.bars then some (w.bb + h) else none) ∧
        (16 ≤ h → h < 32 → (held (h - 16) → s.barNo w h = some (h - 16)) ∧ (¬held (h - 16) → s.barNo w h = none)) ∧
        (32 ≤ h → s.barNo w h = none) ∧
        (s.barNo w h = none → ∀ i ∈ [Instr.bararv d a, .barwt d a b, .baraw d a, .barinit a b, .barst d a, .barexp a b],
          Ready s c i → exec i s = .next ((s.noted c i).raiseE c 0x38 0 0 0 []))) ∧
  (∀ (s : State) (c : Cursor) (d a b : BitVec 7) (k : Nat),
      let g := s.grp c.grp
      let cl := coreOf c.grp / 32
      let x := (s.cluster cl).bar k
      let v := g.sc c.slotB b.toNat
      let wait : Result := waitRes c (sreg d.toNat) 1 s.nextId
      let status : Word := BitVec.ofNat 32 ((if x.ph then 1 else 0) + (if x.lflt then 2 else 0))
      let low : Word := BitVec.ofNat 32 ((if x.ph then 2 ^ 31 else 0) + (if x.lflt then 2 ^ 30 else 0) + (if x.cflt then 2 ^ 29 else 0) +
        x.arr % 2048 * 2 ^ 16 + x.expa % 2048)
      let sum : Int := x.tx.toInt + v.toInt
      s.barNo (s.wg g.wg) (g.sc c.slotB a.toNat).toNat = some k →
        (Ready s c (.bararv d a) → exec (.bararv d a) s =
          .next (((s.noted c (.bararv d a)).posting c.grp [wait]).queueing c 0x38 (.arrive cl k false) [] 0)) ∧
        (Ready s c (.baraw d a) → exec (.baraw d a) s = .next ((((s.noted c (.baraw d a)).posting c.grp [wait]).queueing c 0x38
          (.arrive cl k true) [] 0).parking c (.barrier k) (.baraw d a) 1 s.nextId)) ∧
        (Ready s c (.barwt d a b) → let u := s.noted c (.barwt d a b)
          (x.ph = v.getLsbD 0 → exec (.barwt d a b) s =
            .next ((u.drawn.posting c.grp [wait]).parking c (.barrier k) (.barwt d a b) 0 s.nextId)) ∧
          (x.ph ≠ v.getLsbD 0 → exec (.barwt d a b) s =
            .next ((u.posting c.grp [scaRes c d.toNat status]).acquireAt c.grp (x.last.getD .core)))) ∧
        (Ready s c (.barinit a b) →
          (v = 0 ∨ 1024 < v.toNat → exec (.barinit a b) s = .next ((s.noted c (.barinit a b)).raiseE c 0x39 0 0 0 [])) ∧
          (v ≠ 0 → v.toNat ≤ 1024 → ∃ t, exec (.barinit a b) s = .next t ∧
            (t.cluster cl).bar k = { expa := v.toNat, holder := x.holder } ∧
            (∀ j, j ≠ k → (t.cluster cl).bar j = (s.cluster cl).bar j) ∧ t.mem = s.mem ∧
            ∀ h z p, coreOf h / 32 = cl → ((s.grp h).slot z).park = some p → p.onBar k = true → ((t.grp h).slot z).park = none)) ∧
        (Ready s c (.barst d a) → Gives (.barst d a) s c [scaRes c d.toNat low, scaRes c (d.toNat + 1) x.tx]) ∧
        (Ready s c (.barexp a b) → let u := s.noted c (.barexp a b)
          (sum < -2 ^ 31 ∨ 2 ^ 31 ≤ sum → exec (.barexp a b) s = .next (u.raiseE c 0x39 0 0 0 [])) ∧
          (-2 ^ 31 ≤ sum → sum < 2 ^ 31 →
            (x.arr ≠ x.expa ∨ sum ≠ 0 → exec (.barexp a b) s = .next (u.setBar cl k { x with tx := BitVec.ofInt 32 sum })) ∧
            (x.arr = x.expa → sum = 0 → ∃ t, exec (.barexp a b) s = .next t ∧ (t.cluster cl).bar k =
              { x with tx := 0, ph := !x.ph, lflt := x.cflt, cflt := false, arr := 0, wide := none, last := x.wide }))))

/-- R180-R183: the ring words. RGACQ and RGWAIT give the next slots' sequence number and address, move PRES or CRES and acquire, or park until
the ring has them; RGPUB and RGREL enter the issue queue as releases; RGSTAT reads a ring bound to the context, zeros else; RGINIT binds a
free ring, unbinds its own, parks on another work-group's. A ring above 15, a count outside 1 to 64 and another context's ring raise
RINGBAD. R190, R191, R317, R319, R321-R323: CPYWP gives WP; CPYWT gives it once (WP - b) mod 2^32 is below 2^31 or the channel is halted,
and parks before; CPYST and XSTAT give the status words and with 1 restart a halted channel or clear its counts; ALWR gives CAP and what
is left of it, inside a try region too; XWAIT gives a counter that satisfies its threshold, else parks; XCNT and XTRIG with a card that
passes join the issue queue. The model's choices: the slots of RGPUB and RGREL are checked when they leave the issue queue, not at issue
(log 58), and QUEUED counts the card in progress (log 59). -/
def Obligations.RingChannelAndCounterWords : Prop :=
  (∀ (s : State) (c : Cursor) (d a b : BitVec 7),
      let g := s.grp c.grp
      let cl := coreOf c.grp / 32
      let ctx := s.ctxOf c.grp
      let r := (g.sc c.slotB a.toNat).toNat
      let n := (g.sc c.slotB b.toNat).toNat
      let x := s.ring cl r
      let slot (q : BitVec 16) : Nat := 16 * x.base + q.toNat % 2 ^ x.lcnt * (16 * x.ssz)
      let bad (i : Instr) : Prop := exec i s = .next ((s.noted c i).raiseE c 0x3A 0 0 0 [])
      let takes (i : Instr) (q : BitVec 16) (enough : Prop) (y : Ring) : Prop := Ready s c i →
        (15 < r ∨ n = 0 ∨ 64 < n ∨ (x.v = true ∧ x.ctx ≠ ctx) → bad i) ∧
        (r ≤ 15 → 1 ≤ n → n ≤ 64 → (x.v = true → x.ctx = ctx) →
          (x.v = true ∧ enough → exec i s = .next ((((s.noted c i).setRing cl r y).posting c.grp
            [scaRes c d.toNat (q.setWidth 32), scaRes c (d.toNat + 1) (BitVec.ofNat 32 (slot q))]).acquireAt c.grp (x.wide.getD .core))) ∧
          (¬(x.v = true ∧ enough) → exec i s = .next (((s.noted c i).drawn.posting c.grp
            [waitRes c (sreg d.toNat) 1 s.nextId, waitRes c (sreg (d.toNat + 1)) 1 s.nextId]).parking c (.ring r) i (BitVec.ofNat 32 n)
              s.nextId)))
      let gives (i : Instr) (rel : Bool) : Prop := Ready s c i →
        (15 < r ∨ (x.v = true ∧ x.ctx ≠ ctx) → bad i) ∧
        (r ≤ 15 → (x.v = true → x.ctx = ctx) → exec i s =
          .next ((s.noted c i).queueing c 0x39 (.publish cl r rel ((g.sc c.slotB b.toNat).setWidth 16) d.toNat) [] 0))
      takes (.rgacq d a b) x.pres ((x.pres - x.crel).toNat + n ≤ 2 ^ x.lcnt ∧ (x.pres - x.ppub).toNat + n ≤ 64)
        { x with pres := x.pres + BitVec.ofNat 16 n } ∧
      takes (.rgwait d a b) x.cres (n ≤ (x.ppub - x.cres).toNat ∧ (x.cres - x.crel).toNat + n ≤ 64)
        { x with cres := x.cres + BitVec.ofNat 16 n } ∧
      gives (.rgpub d a b) false ∧ gives (.rgrel d a b) true ∧
      (Ready s c (.rgstat d a) → (15 < r → bad (.rgstat d a)) ∧
        (r ≤ 15 → let w (y : Word) : Word := if x.v = true ∧ x.ctx = ctx then y else 0
          Gives (.rgstat d a) s c [scaRes c d.toNat (w ((x.ppub - x.cres).setWidth 32)),
            scaRes c (d.toNat + 1) (w (BitVec.ofInt 32 (2 ^ x.lcnt - (x.pres - x.crel).toNat))),
            scaRes c (d.toNat + 2) (w (x.ppub ++ x.pres)), scaRes c (d.toNat + 3) (w (x.crel ++ x.cres))])) ∧
      (Ready s c (.rginit a b) →
        let u := s.noted c (.rginit a b)
        let off := g.s c.slotB b.toNat
        let cfg := g.s c.slotB (b.toNat + 1)
        let sz : Nat := 16 * (cfg.extractLsb' 0 8).toNat
        let lc : Nat := (cfg.extractLsb' 8 4).toNat
        let w := s.wg g.wg
        let fits := off.toNat % 16 = 0 ∧ off.toNat + sz * 2 ^ lc ≤ w.hdr.spad
        (15 < r ∨ cfg.extractLsb' 12 20 ≠ 0 ∨ 12 < lc → bad (.rginit a b)) ∧
        (r ≤ 15 → cfg.extractLsb' 12 20 = 0 → lc ≤ 12 →
          (sz = 0 → x.v = true ∧ x.owner = g.wg ∧ x.pres = x.ppub ∧ x.pres = x.cres ∧ x.pres = x.crel →
            exec (.rginit a b) s = .next (u.setRing cl r { x with v := false })) ∧
          (sz = 0 → ¬(x.v = true ∧ x.owner = g.wg ∧ x.pres = x.ppub ∧ x.pres = x.cres ∧ x.pres = x.crel) → bad (.rginit a b)) ∧
          (sz ≠ 0 → x.v = true → x.ctx ≠ ctx ∨ x.owner = g.wg → bad (.rginit a b)) ∧
          (sz ≠ 0 → x.v = true → x.ctx = ctx → x.owner ≠ g.wg → exec (.rginit a b) s =
            .next ((u.parking c (.ring r) (.rginit a b) off 0).modSlot c.grp c.slotB fun y =>
              { y with park := y.park.map fun p => { p with arg2 := cfg } })) ∧
          (sz ≠ 0 → x.v = false → ¬fits → bad (.rginit a b)) ∧
          (sz ≠ 0 → x.v = false → fits → exec (.rginit a b) s = .next (u.setRing cl r
            { lcnt := lc, ssz := sz / 16, base := (coreOf c.grp % 32 * 2 ^ 18 + w.spb + off.toNat) / 16, v := true, ctx := ctx
              owner := g.wg }))))) ∧
  (∀ (s : State) (c : Cursor) (d a b : BitVec 7),
      let g := s.grp c.grp
      let cl := coreOf c.grp / 32
      let ctx := s.ctxOf c.grp
      let n := (g.sc c.slotB a.toNat).toNat
      let v := g.sc c.slotB b.toNat
      let x := s.chan cl n
      let wait : Result := waitRes c (sreg d.toNat) 1 s.nextId
      let scope := x.wide.getD .clu
      let reached (w t : Word) : Prop := (w - t).toNat < 2 ^ 31
      let bad (i : Instr) (k : Cause) : Prop := exec i s = .next ((s.noted c i).raiseE c k 0 0 0 [])
      let low (y : Channel) : Word := BitVec.ofNat 32 ((if y.halted then 2 else if y.queue = [] then 0 else 1) * 2 ^ 30 +
        y.queue.length % 64 * 2 ^ 24 + y.cause.toNat * 2 ^ 16 + y.flags.toNat)
      let high (y : Channel) : Word := BitVec.ofNat 32 (y.xfc.toNat * 2 ^ 24 + y.drops.toNat * 2 ^ 16 + y.last.toNat)
      (∀ i ∈ [Instr.cpywp d a, .cpywt d a b, .cpyst d a b, .xstat d a b], Ready s c i → 15 < n → bad i 0x41) ∧
      (n ≤ 15 →
        (Ready s c (.cpywp d a) → exec (.cpywp d a) s =
          .next (((s.noted c (.cpywp d a)).posting c.grp [scaRes c d.toNat x.wp]).acquireAt c.grp scope)) ∧
        (Ready s c (.cpywt d a b) → let u := s.noted c (.cpywt d a b)
          (x.halted = true ∨ reached x.wp v → exec (.cpywt d a b) s =
            .next ((u.posting c.grp [scaRes c d.toNat x.wp]).acquireAt c.grp scope)) ∧
          (¬(x.halted = true ∨ reached x.wp v) → exec (.cpywt d a b) s =
            .next ((u.drawn.posting c.grp [wait]).parking c (.copyWait n) (.cpywt d a b) v s.nextId))) ∧
        (Ready s c (.cpyst d a b) → (1 < v.toNat → bad (.cpyst d a b) 0x41) ∧ (v = 0 → Gives (.cpyst d a b) s c [scaRes c d.toNat (low x)]) ∧
          (v = 1 → let y := if x.halted then { x with wp := x.pw, halted := false, cause := 0 } else x
            exec (.cpyst d a b) s = .next (((s.noted c (.cpyst d a b)).setChan cl n y).posting c.grp [scaRes c d.toNat (low x)]))) ∧
        (Ready s c (.xstat d a b) → let rs := [scaRes c d.toNat (low x), scaRes c (d.toNat + 1) (high x)]
          (1 < v.toNat → bad (.xstat d a b) 0x41) ∧ (v = 0 → Gives (.xstat d a b) s c rs) ∧
          (v = 1 → exec (.xstat d a b) s =
            .next (((s.noted c (.xstat d a b)).setChan cl n { x with xfc := 0, drops := 0 }).posting c.grp rs)))) ∧
      (∀ r : TryRegion, r.shadow.length ≤ 64 → r.stops (.alwr d a) = none) ∧
      (Ready s c (.alwr d a) → (575 < n → bad (.alwr d a) 0x0B) ∧
        (n ≤ 575 → let y := tgetD s.allow n {}
          Gives (.alwr d a) s c [scaRes c d.toNat (BitVec.ofNat 32 (y.cap * 2 ^ 16 + (y.cap - y.out)))])) ∧
      (Ready s c (.xwait d a b) → let u := s.noted c (.xwait d a b)
        let count := tgetD (s.ctx ctx).counters n 0
        (255 < n → bad (.xwait d a b) 0x4A) ∧
        (n ≤ 255 → (reached count v → exec (.xwait d a b) s = .next ((u.posting c.grp [scaRes c d.toNat count]).acquireAt c.grp .sys)) ∧
          (¬reached count v → exec (.xwait d a b) s =
            .next ((u.drawn.posting c.grp [wait]).parking c (.counter n) (.xwait d a b) v s.nextId)))) ∧
      (Ready s c (.xcnt d a b) → (512 ≤ n → bad (.xcnt d a b) 0x4A) ∧
        (n < 512 → exec (.xcnt d a b) s = .next (((s.noted c (.xcnt d a b)).posting c.grp [wait]).queueing c 0x26
          (.xcnt (n % 256) (decide (256 ≤ n)) v d.toNat) [] 0))) ∧
      (Ready s c (.xtrig a b) →
        let u := s.noted c (.xtrig a b)
        let t := g.s c.slotB b.toNat
        let hi := g.s c.slotB (b.toNat + 1)
        let kinds : List CardKind := [.xwr, .xrd, .xred, .xatom, .xmlr, .xmst, .cpy]
        let k := (hi.extractLsb' 12 3).toNat
        (hi.extractLsb' 15 17 ≠ 0 ∨ k = 7 → bad (.xtrig a b) 0x41) ∧
        (hi.extractLsb' 15 17 = 0 → k < 7 → ∀ card, u.cardChecks c.grp (u.captured c (kinds.getD k .cpy) a.toNat) = .ok card →
          (4096 ≤ (s.ctx ctx).armed.length → bad (.xtrig a b) 0x49) ∧
          ((s.ctx ctx).armed.length < 4096 → exec (.xtrig a b) s = .next (u.queueing c 0x26 (.trig cl (hi.extractLsb' 8 4).toNat
            { card with grp := none, wg := none, pos := 0, ttask := 0, widb := 0 } (hi.extractLsb' 0 8).toNat t) [] 0)))))

/-- R185-R189, R306-R308, R314, R316: the eleven words that post cards. A card that passes the checks of R186, R194 and R304 to R307 goes to
its channel, whose PW moves by its bytes; the word gives the new PW; its allowance is charged and its entry joins the issue queue. A
halted channel only counts it; a full one, or a short allowance, parks the slot; the context's 257th unfinished card raises ENGQ; a
channel above 15 raises CPYBND; a check that fails raises its cause. The read of a CPYT's descriptor, or of a COLL's block, touches the pinned
windows it goes through (R233) and nothing else. R334: COLL on a readable block that passes its checks gives the
group's ticket, advances it (a barrier of kind 6 has none), and joins the issue queue with the block; a block that fails raises its cause. -/
def Obligations.CardsAndCollectivesArePosted : Prop :=
  (∀ (s : State) (c : Cursor) (d a b : BitVec 7),
      let g := s.grp c.grp
      let cl := coreOf c.grp / 32
      let ch := (g.sc c.slotB b.toNat).toNat
      let x := s.chan cl ch
      let posts (i : Instr) (k : CardKind) (opc : BitVec 6) : Prop := Ready s c i →
        let u0 := s.noted c i
        let u := u0.seenCard c.grp (u0.captured c k a.toNat)
        let asked := u.captured c k a.toNat
        (k ≠ .cpyt → u = u0) ∧ OnlyPins u0 u ∧
        (asked.kind = k ∧ asked.words = (List.range 8).map (fun j => g.s c.slotB (a.toNat + j)) ∧ asked.ctx = s.ctxOf c.grp ∧
          asked.grp = some c.grp) ∧
        (15 < ch → exec i s = .next (u0.raiseE c 0x41 0 0 0 [])) ∧
        (ch ≤ 15 → (∀ e, u.cardChecks c.grp asked = .bad e → exec i s = .next (u.raiseE c e 0 0 0 [])) ∧
          (∀ e, u.cardChecks c.grp asked = .read e → exec i s = .next (u.raiseRead c opc e)) ∧
          ∀ card, u.cardChecks c.grp asked = .ok card →
            let n := min card.units 64
            let parks (why : ParkWhy) : Prop := exec i s = .next (((u.drawn.posting c.grp [waitRes c (sreg d.toNat) 1 s.nextId]).parking c
              why i (BitVec.ofNat 32 ch) s.nextId).modSlot c.grp c.slotB fun y =>
                { y with park := y.park.map fun p => { p with card := some card } })
            let room := s.unfinished cl card.ctx < 256
            let covered := ∀ dev ∈ card.devs, n ≤ (tgetD s.allow dev {}).cap - (tgetD s.allow dev {}).out
            (¬room → exec i s = .next (u.raiseE c 0x48 0 0 0 [])) ∧
            (room → ¬covered → parks .allowance) ∧
            (room → covered → 32 ≤ x.queue.length → parks (.queueFull ch)) ∧
            (room → covered → x.queue.length < 32 → x.halted = false → s.nextId ≠ 0 → exec i s = .next ((((u.charge card.devs n).setChan cl ch
              { x with pw := x.pw + BitVec.ofNat 32 card.bytes, queue := x.queue ++ [{ card with id := s.nextId, charged := n }] }).posting
                c.grp [scaRes c d.toNat (x.pw + BitVec.ofNat 32 card.bytes)]).queueing c opc (.card cl ch s.nextId) [] 0)) ∧
            (room → covered → x.queue.length < 32 → x.halted = true → exec i s =
              .next ((u.postCard cl ch card).posting c.grp [scaRes c d.toNat (x.pw + BitVec.ofNat 32 card.bytes)])))
      posts (.cpy d a b) .cpy 0x3A ∧ posts (.cpy2 d a b) .cpy2 0x3A ∧ posts (.cpyt d a b) .cpyt 0x3A ∧ posts (.cpyg d a b) .cpyg 0x3A ∧
      posts (.cpys d a b) .cpys 0x3A ∧ posts (.xwr d a b) .xwr 0x26 ∧ posts (.xrd d a b) .xrd 0x26 ∧ posts (.xred d a b) .xred 0x26 ∧
      posts (.xatom d a b) .xatom 0x26 ∧ posts (.xmlr d a b) .xmlr 0x26 ∧ posts (.xmst d a b) .xmst 0x26) ∧
  (∀ (s : State) (c : Cursor) (d a : BitVec 7), Ready s c (.coll d a) →
      let g := s.grp c.grp
      let ctx := s.ctxOf c.grp
      let u := s.noted c (.coll d a)
      let va := (g.sp c.slotB a.toNat).toNat
      (∀ e, u.readAt c.grp va 56 128 = .error e → exec (.coll d a) s = .next (u.raiseRead c 0x27 e)) ∧
      ∀ bs, u.readAt c.grp va 56 128 = .ok bs →
        let u0 := u
        let u := u0.seenAt c.grp va 56
        let b := blockOf bs
        let t := tgetD (s.ctx ctx).tickets b.group 0
        let rank := s.ttask c.grp c.slotB
        OnlyPins u0 u ∧ (∀ e, u.collCheck c.grp b = .error e → exec (.coll d a) s = .next (u.raiseE c e 0 0 0 [])) ∧
        ∀ w, u.collCheck c.grp b = .ok w →
          (b.kind = 6 → exec (.coll d a) s =
            .next ((u.posting c.grp [scaRes c d.toNat 0]).queueing c 0x27 (.coll va bs w 0 rank) [] 0)) ∧
          (b.kind ≠ 6 → exec (.coll d a) s = .next (((u.setCtx ctx
            { u.ctx ctx with tickets := tset (s.ctx ctx).tickets b.group (t + 1) }).posting c.grp [scaRes c d.toNat t]).queueing c 0x27
              (.coll va bs w t rank) [] 0)))

/-- R200-R206, R212-R214: MMA, MLOOP, MZERO, MZERO.rel, MLDA, MSTA, MAV and MVA whose checks pass are posted to their stream of the core's engine
queue, with the number, the generation and %mcfg of the issue; MZERO and MLDA first claim their free rows, but in the handler; MAV leaves its
destination outstanding; an operation with scratchpad operands joins the issue queue too. A full queue, a 17th accumulator move, or an operation
issued before on the same stream and itself parked, parks the slot. A failed check raises its cause, with the stream in %tinfo for MSTREAM and
MOPND. R221: a team operation takes the team's next number; where it does not agree with the other members' operation of that number it raises
MJOINE. -/
def Obligations.MatrixWordsArePosted : Prop :=
  ∀ (s : State) (c : Cursor) (d a b : BitVec 7) (n : BitVec 3),
    let g := s.grp c.grp
    let core := coreOf c.grp
    let k := s.core core
    let posts (i : Instr) (stream : Nat) (claims : Bool) (dst : List Result) (r : Except Cause MatOp) : Prop := Ready s c i →
      let u := s.noted c i
      (∀ e, r = .error e → exec i s =
        .next (u.raiseE c e 0 0 (if e = 0x46 ∨ e = 0x44 then BitVec.ofNat 32 stream else 0) [])) ∧
      ∀ o, r = .ok o →
        let o' : MatOp := { o with id := s.nextId, grp := c.grp, slotB := c.slotB, pos := c.pos, stream := stream, left := !o.carded
                                   repi := c.repi, serial := c.serial, resume := c.next, gen := k.gen, mcfg := g.regs.mcfg }
        let v := if claims ∧ ¬(g.priv = true ∧ c.slotB = g.privB) then u.claimRows c.grp o.rows else u
        let ahead := ∃ x ∈ u.parkedOn core, x.id < s.nextId ∧ (x.grp = c.grp ∧ x.stream = stream ∨ x.team ≠ none ∧ o.team ≠ none)
        let busy := 32 ≤ k.mq.length ∨ (o.move = true ∧ 16 ≤ (k.mq.filter fun y => y.grp == c.grp && y.move).length) ∨ ahead
        (busy → exec i s = .next (((v.drawn.posting c.grp dst).parking c .matrixRoom i 0 s.nextId).modSlot c.grp c.slotB fun y =>
          { y with park := y.park.map fun p => { p with mat := some o' } })) ∧
        (¬busy → let w := v.drawn.posting c.grp dst
          let p : MatOp := { o' with posted := s.nextId + 1 }
          let ends (t : State) : Prop :=
            (o.carded = true → exec i s = .next (t.drawn.queueingAs c s.nextId o'.opc (.mat core s.nextId) [] 0)) ∧
            (o.carded = false → exec i s = .next t.drawn)
          (o.team = none → ends (w.setCore core { w.core core with mq := k.mq ++ [p] })) ∧
          ∀ tm, o.team = some tm →
            let q : MatOp := { p with tnum := k.teamOps }
            let agreed := ∀ y ∈ w.mates (core / 32) tm k.teamOps, y.2.2.agrees q = true
            (agreed → ends (w.setCore core { w.core core with mq := k.mq ++ [q], teamOps := k.teamOps + 1 })) ∧
            (¬agreed → exec i s = .next (w.raiseE c 0x47 0 0 0 [])))
    posts (.mma d a b n) n.toNat false [] (s.checkMma c d a b n) ∧
    posts (.mloop d n) n.toNat false [] (s.checkMloop c d n) ∧
    posts (.mzero d a) d.toNat true [] (s.checkRect c .mzero (g.sc c.slotB a.toNat) d.toNat true false) ∧
    posts (.mzeroRel d a) d.toNat false [] (s.checkRect c .mzeroRel (g.sc c.slotB a.toNat) d.toNat false true) ∧
    posts (.mlda d a b) d.toNat true [] (s.checkBlock c .mlda (g.sc c.slotB a.toNat) (g.sc c.slotB b.toNat) d.toNat) ∧
    posts (.msta d a b) d.toNat false [] (s.checkBlock c .msta (g.sc c.slotB a.toNat) (g.sc c.slotB b.toNat) d.toNat) ∧
    posts (.mav d a b) b.toNat false [waitRes c (.v d.toNat) c.lanes s.nextId]
      (s.checkSlice c .mav (g.sc c.slotB a.toNat).toNat b.toNat []) ∧
    posts (.mva d a b) d.toNat false []
      (s.checkSlice c .mva (g.sc c.slotB b.toNat).toNat d.toNat ((List.range 96).map fun i => g.v a.toNat i))

/-- R215, R220, R222: MWAIT, MSYNC, MAUD and MLEAVE go on at once where nothing they wait for is unfinished, queued or itself parked for room, else
park; MSYNC and MAUD refuse a mask that names a stream which is not theirs, stream 7 outside the handler and any other inside it, or a bit above
their last, with MSTREAM and the lowest such stream in %tinfo (a free value where the mask names none, log 24). MAUD's result is %audit, and with
bit 8 of its mask a second result clears %audit (R31). SPFEN opens a generation. MCFG with no operation of the group unfinished sets %mcfg and
clears %audit. MJOIN takes a free position of its team, MLEAVE gives it up. -/
def Obligations.MatrixWaitsAndTeams : Prop :=
  ∀ (s : State) (c : Cursor) (d a : BitVec 7),
    let g := s.grp c.grp
    let core := coreOf c.grp
    let k := s.core core
    let m := g.sc c.slotB a.toNat
    let mine := s.opsOf c.grp
    let handler := g.priv = true ∧ c.slotB = g.privB
    let foreign (n : Nat) : Prop := n < 8 ∧ m.getLsbD n = true ∧ ¬(handler ↔ n = 7)
    let idle := ∀ o ∈ mine, o.id < s.nextId → m.getLsbD o.stream = false ∨ 8 ≤ o.stream
    let parks (i : Instr) (arg : Word) (rs : List Result) : Prop :=
      exec i s = .next (((s.noted c i).drawn.posting c.grp rs).parking c .matrixWait i arg s.nextId)
    let goes (i : Instr) : Prop := exec i s = .next ((s.noted c i).drawn.acquireAt c.grp .clu)
    let refused (i : Instr) (top : Nat) : Prop := Ready s c i →
      (∀ n, foreign n → (∀ j < n, ¬foreign j) → exec i s = .next ((s.noted c i).raiseE c 0x46 0 0 (BitVec.ofNat 32 n) [])) ∧
      ((∀ n, ¬foreign n) → 2 ^ (top + 1) ≤ m.toNat → exec i s =
        .next { (s.noted c i).raiseE c 0x46 0 0 (Config.freeWord s.free &&& 7) [] with free := s.free + 1 })
    (Ready s c (.mwait a) → ((mine.filter fun o => o.move).length ≤ m.toNat → goes (.mwait a)) ∧
      (m.toNat < (mine.filter fun o => o.move).length → parks (.mwait a) m [])) ∧
    refused (.msync a) 7 ∧ refused (.maud d a) 8 ∧
    (Ready s c (.msync a) → m.toNat < 2 ^ 8 → (∀ n, ¬foreign n) →
      (idle → goes (.msync a)) ∧ (¬idle → parks (.msync a) m [])) ∧
    (Ready s c (.maud d a) → m.toNat < 2 ^ 9 → (∀ n, ¬foreign n) →
      let clears : Prop := m.getLsbD 8 = true
      (¬idle → (¬clears → parks (.maud d a) m [waitRes c (sreg d.toNat) 1 s.nextId]) ∧
        (clears → parks (.maud d a) m [waitRes c (sreg d.toNat) 1 s.nextId, waitRes c (.spr 0x35) 1 s.nextId])) ∧
      (idle → s.nextId ≠ 0 → (∀ r ∈ g.out, r.src ≠ s.nextId) → ∃ t, exec (.maud d a) s = .next t ∧ t.mem = s.mem ∧
        (t.grp c.grp).regs = g.regs ∧ (¬clears → (t.grp c.grp).out = g.out ++ [scaRes c d.toNat g.regs.audit]) ∧
        (clears → (t.grp c.grp).out = g.out ++ [scaRes c d.toNat g.regs.audit, oneRes c (.spr 0x35) 0]))) ∧
    (Ready s c .spfen → exec .spfen s = .next ((s.noted c .spfen).setCore core { k with gen := k.gen + 1 })) ∧
    (Ready s c (.mcfg a) →
      ((∃ o ∈ mine, o.stream < 8) → exec (.mcfg a) s = .next ((s.noted c (.mcfg a)).raiseE c 0x4D 0 0 0 [])) ∧
      ((∀ o ∈ mine, 8 ≤ o.stream) → exec (.mcfg a) s = .next (((s.noted c (.mcfg a)).modGrp c.grp fun x => { x with phi := 0 }).posting c.grp
        [oneRes c (.spr 0x34) (m &&& 0xFFFEFF00), oneRes c (.spr 0x35) 0]))) ∧
    (Ready s c (.mjoin a) →
      let t := (m.extractLsb' 0 3).toNat
      let p := (m.extractLsb' 4 4).toNat
      let size : Nat := if m.getLsbD 8 then 16 else 4
      let team := tget (s.cluster (core / 32)).teams t
      let legal := m.extractLsb' 9 23 = 0 ∧ m.getLsbD 3 = false ∧ p < size ∧ k.team = none ∧ ¬handler ∧
        ∀ y, team = some y → y.ctx = s.ctxOf c.grp ∧ y.size = size ∧ tget y.members p = none
      (¬legal → exec (.mjoin a) s = .next ((s.noted c (.mjoin a)).raiseE c 0x47 0 0 0 [])) ∧
      (legal → ∃ t', exec (.mjoin a) s = .next t' ∧ (t'.core core).team = some (t, p) ∧ (t'.core core).teamWg = g.wg ∧
        ∃ y, tget (t'.cluster (core / 32)).teams t = some y ∧ y.ctx = s.ctxOf c.grp ∧ y.size = size ∧ tget y.members p = some core)) ∧
    (Ready s c .mleave →
      (k.team = none ∨ k.teamWg ≠ g.wg ∨ handler → exec .mleave s = .next ((s.noted c .mleave).raiseE c 0x47 0 0 0 [])) ∧
      (k.team ≠ none → k.teamWg = g.wg → ¬handler →
        ((∃ o ∈ k.mq ++ s.parkedOn core, o.team ≠ none) → parks .mleave 0 []) ∧
        ((∀ o ∈ k.mq ++ s.parkedOn core, o.team = none) → ∃ t, exec .mleave s = .next t ∧ (t.core core).team = none ∧ t.mem = s.mem)))

/-- R234, R235: PIN of a legal window gives its number and the context's pinned 256 KiB blocks and adds it; UNPIN removes one, PTOUCH sets its FADE
to 255 and marks it touched, PSTAT reads it; each acts only on the context's own windows. R276: SPAWN, SPAWNR and JDEC on a readable record reserve
an entry of the deque of their level and join the issue queue; SPAWNQ where the deque is full, ILLFLD and WIDOVF where the record, its header or its
extents do not fit; their reads touch pinned windows and nothing else (R233). QSTAT gives a deque's records and the sum of their counts, zeros above
level 3; FRAME gives the chosen item of the work-group's record, 0 above 5. -/
def Obligations.PinningAndSchedulingWords : Prop :=
  (∀ (s : State) (c : Cursor) (d a b : BitVec 7),
      let g := s.grp c.grp
      let ctx := s.ctxOf c.grp
      let x := s.ctx ctx
      let start := (g.sp c.slotB a.toNat).toNat
      let len := (g.sc c.slotB b.toNat).toNat
      let k := (g.sc c.slotB a.toNat).toNat
      let bytes (t : Table PinWin) : Nat := (t.map fun p => p.2.len).sum
      let aligned := start % 2 ^ 18 = 0 ∧ len % 2 ^ 18 = 0 ∧ 0 < len ∧ len ≤ 384 * 2 ^ 20
      let fits (n : Nat) : Prop := n < 64 ∧ tget x.pins n = none ∧ (∀ j < n, tget x.pins j ≠ none) ∧
        (∀ p ∈ x.pins, start + len ≤ p.2.start ∨ p.2.start + p.2.len ≤ start) ∧
        (s.ctxs.map fun y => bytes y.2.pins).sum + len ≤ 384 * 2 ^ 20
      (Ready s c (.pin d a b) → let u := s.noted c (.pin d a b)
        (¬(start / 2 ^ 56 = 0 ∨ start / 2 ^ 56 = 255) → exec (.pin d a b) s = .next (u.raiseBad c 0x1D false [(96, 0x2E, start)] 0)) ∧
        (start / 2 ^ 56 = 0 ∨ start / 2 ^ 56 = 255 →
          (¬aligned → exec (.pin d a b) s = .next (u.raiseE c 0x2F 0 0 0x1D [])) ∧
          (aligned → (∀ n, ¬fits n) → exec (.pin d a b) s = .next (u.raiseE c 0x2D 0 0 0x1D [])) ∧
          (∀ n, aligned → fits n → let pins := tset x.pins n { start := start, len := len }
            exec (.pin d a b) s = .next ((u.setCtx ctx { x with pins := pins }).posting c.grp
              [scaRes c d.toNat (BitVec.ofNat 32 n), scaRes c (d.toNat + 1) (BitVec.ofNat 32 (bytes pins / 2 ^ 18))])))) ∧
      (Ready s c (.unpin a) → exec (.unpin a) s = .next ((s.noted c (.unpin a)).setCtx ctx { x with pins := tdel x.pins k })) ∧
      (Ready s c (.ptouch a) → let u := s.noted c (.ptouch a)
        (tget x.pins k = none → exec (.ptouch a) s = .next u) ∧
        ∀ w, tget x.pins k = some w → exec (.ptouch a) s =
          .next (u.setCtx ctx { x with pins := tset x.pins k { w with fade := 255, touched := true } })) ∧
      (Ready s c (.pstat d a) → let total : Word := BitVec.ofNat 32 (bytes x.pins / 2 ^ 18)
        (tget x.pins k = none → Gives (.pstat d a) s c [scaRes c d.toNat 0, scaRes c (d.toNat + 1) total]) ∧
        ∀ w, tget x.pins k = some w → Gives (.pstat d a) s c [scaRes c d.toNat
          (BitVec.ofNat 32 (2 ^ 31 + (if w.touched then 2 ^ 30 else 0) + w.fade % 256 * 2 ^ 22 + w.len / 2 ^ 18)),
          scaRes c (d.toNat + 1) total])) ∧
  (∀ (s : State) (c : Cursor) (d a : BitVec 7),
      let g := s.grp c.grp
      let core := coreOf c.grp
      let ctx := s.ctxOf c.grp
      let va := (g.sp c.slotB a.toNat).toNat
      let w := s.wg g.wg
      let lv := (g.sc c.slotB a.toNat).toNat
      let queued (i : Instr) (u : State) (l : Nat) (body : EntryBody) : Prop :=
        exec i s = .next ((u.setCore core ((s.core core).reserve l)).queueing c 0x1E body [] 0)
      let room (l : Nat) : Prop := ((s.core core).deque l).length + tgetD (s.core core).reserved l 0 < dequeMax
      let reads (i : Instr) (lvOf : Nat → Nat) (f : State → Nat → Nat → Prop) : Prop := Ready s c i →
        let u := s.noted c i
        (∀ e, u.readAt c.grp va 64 64 = .error e → exec i s = .next (u.raiseRead c 0x1E e)) ∧
        ∀ bs, u.readAt c.grp va 64 64 = .ok bs →
          let v := u.seenAt c.grp va 64
          let l := min (lvOf (leNat bs)) (s.ctx ctx).maxp
          OnlyPins u v ∧ (¬room l → exec i s = .next (v.raiseE c 0x3C 0 0 0 [])) ∧ (room l → f v (leNat bs) l)
      reads (.spawn a) (fun v => (recordOf v).prio) (fun u v l =>
        let r := recordOf v
        (recordBad v ≠ none → exec (.spawn a) s = .next (u.raiseE c 0x0E 0 0 0 [])) ∧
        (recordBad v = none → ∀ e, u.readAt c.grp r.code.toNat 64 1 = .error e → exec (.spawn a) s = .next (u.raiseRead c 0x1E e)) ∧
        (recordBad v = none → ∀ hb, u.readAt c.grp r.code.toNat 64 1 = .ok hb →
          let u := u.seenAt c.grp r.code.toNat 64
          (headerBad (leNat hb) ≠ none → exec (.spawn a) s = .next (u.raiseE c 0x0E 0 0 0 [])) ∧
          (headerBad (leNat hb) = none → r.overflows (headerOf (leNat hb)) = true → exec (.spawn a) s = .next (u.raiseE c 0x3D 0 0 0 [])) ∧
          (headerBad (leNat hb) = none → r.overflows (headerOf (leNat hb)) = false →
            queued (.spawn a) u l (.spawn { r with ctx := ctx, prio := l, lch := false })))) ∧
      reads (.spawnr a) launchPrio (fun u v l =>
        (launchCode v % 64 ≠ 0 → exec (.spawnr a) s = .next (u.raiseE c 0x0E 0 0 0 [])) ∧
        (launchCode v % 64 = 0 → ∀ e, u.readAt c.grp (launchCode v) 64 1 = .error e → exec (.spawnr a) s = .next (u.raiseRead c 0x1E e)) ∧
        (launchCode v % 64 = 0 → ∀ hb, u.readAt c.grp (launchCode v) 64 1 = .ok hb →
          let u := u.seenAt c.grp (launchCode v) 64
          (launchBad v (leNat hb) ≠ none → exec (.spawnr a) s = .next (u.raiseE c 0x0E 0 0 0 [])) ∧
          (launchBad v (leNat hb) = none → queued (.spawnr a) u l (.spawn (launchRange ctx va v (leNat hb) l))))) ∧
      reads (.jdec a) (fun v => (recordOf v).prio) (fun u _ l => queued (.jdec a) u l (.jdec va l)) ∧
      (Ready s c (.qstat d a) →
        (3 < lv → Gives (.qstat d a) s c [scaRes c d.toNat 0, scaRes c (d.toNat + 1) 0]) ∧
        (lv ≤ 3 → let q := (s.core core).deque lv
          Gives (.qstat d a) s c [scaRes c d.toNat (BitVec.ofNat 32 q.length),
            scaRes c (d.toNat + 1) (BitVec.ofNat 32 (min (2 ^ 32 - 1) (q.map fun r => r.wcnt).sum))])) ∧
      (Ready s c (.frame d a) → let item : Dword := match lv with
          | 0 => w.frame | 1 => w.code | 2 => w.index | 3 => w.privb | 4 => w.word0 | 5 => w.jadr | _ => 0
        Gives (.frame d a) s c [scaRes c d.toNat (item.setWidth 32), scaRes c (d.toNat + 1) ((item >>> 32).setWidth 32)]))

/-- R31, R18: RESULT_WRITE lands lanes of an outstanding result whose value is known, unless an earlier result of the slot for the register
and a common lane is still outstanding: those lanes of a vector register, the scalar, or the member of the slot's q14 bank under its owned
mask, take the result's value, every other register keeps its own, and the result leaves the list or keeps its other lanes. R19: a slot
reads a scalar as it last landed; but one that the other slot has written too since the last marked bundle never as older than the
slot's own last write, for which a read waits while it has no value; what the words of the bundle in execution have posted (the last `hid`
results) does not count (R30). s56 to s58 are the slot's q14 bank. -/
def Obligations.ResultsLand : Prop :=
  (∀ (x : Group) (b : Bool) (j : Nat), j < 3 → (x.slot b).repBank = none → x.s b (56 + j) = (x.slot b).bank.extractLsb' (32 * j) 32) ∧
  (∀ (x : Group) (b : Bool) (n : Nat), n < 56 ∨ 58 < n →
    (n ∉ (if b then x.wroteA else x.wroteB) → x.s b n = tgetD x.regs.s n 0) ∧
    (n ∈ (if b then x.wroteA else x.wroteB) → ∀ (old new own : List Result) (y : Result), x.out = old ++ y :: new ++ own →
      own.length = x.hid → y.slotB = b → y.reg = .s n → (∀ z ∈ new, ¬(z.slotB = b ∧ z.reg = .s n)) → (y.src = 0 → x.s b n = y.vals.getD 0 0) ∧
        (x.unsettled b n = true ↔ y.src ≠ 0))) ∧
  ∀ (s : State) (g k : Nat) (m : Mask) (r : Result),
    let x := s.grp g
    let n := m &&& r.mask
    let w := r.vals.getD 0 0
    x.out[k]? = some r → r.src = 0 → n ≠ 0 → x.trap = none →
    (∀ j y, j < k → x.out[j]? = some y → y.reg = r.reg → y.slotB = r.slotB → y.mask &&& n = 0) →
      ∃ t, exec (.resultWrite g k m) s = .next t ∧ OnlyGroup g s t ∧
        (t.grp g).out = (if r.mask &&& ~~~n = 0 then dropAt x.out k else setAt x.out k { r with mask := r.mask &&& ~~~n }) ∧
        (∀ q, r.reg = .v q → (t.grp g).regs.s = x.regs.s ∧
          ∀ p l, l < 96 → (t.grp g).v p l = if p = q ∧ n.getLsbD l = true then r.vals.getD l 0 else x.v p l) ∧
        (∀ q, r.reg = .s q → r.how = .set → q < 56 ∨ 58 < q → (t.grp g).regs.v = x.regs.v ∧
          ∀ p, tgetD (t.grp g).regs.s p 0 = if p = q then w else tgetD x.regs.s p 0) ∧
        (∀ j, r.reg = .act j → (t.grp g).regs = x.regs ∧ (t.grp g).slot (!r.slotB) = x.slot (!r.slotB) ∧
          ((t.grp g).slot r.slotB).bank = setMember (x.slot r.slotB).bank j w &&& (x.slot r.slotB).owned)

/-- R163, R225, R240: HOME_PERFORM of a store's piece. At an LLC home, on a page mapped W and not frozen, with no bad granule and with the
line held or room for it:
exactly the piece's bytes of the context read as its data at the homes, every other byte of every context as before. At a bank, in an
allocation of the context: exactly those bytes of the owning core's scratchpad. Either way the request leaves with an acknowledgement. -/
def Obligations.HomesPerformStores : Prop :=
  ∀ (s : State) (k : Nat) (r : Req) (p : Piece),
    let reply : Resp := { core := r.core, grp := r.grp, fid := r.fid, ctx := r.ctx, body := .ack }
    s.arrived[k]? = some r → r.body = .write p → r.watch = none → s.ready k r = true → 0 < p.len → p.data.length = p.len →
      (∀ e, r.bank? = none → p.addr % 128 + p.len ≤ 128 → s.leaf r.ctx p.addr = some e → leafW e = true → leafExport e = false →
        leafFrz e = false → s.poison = [] → s.failed = [] →
        s.llcLine r.ctx (p.addr / 128) ≠ none ∨
          (s.llc.filter fun x => sliceOf (128 * x.line) == sliceOf (128 * (p.addr / 128))).length < 20480 →
          ∃ t, exec (.homePerform k [] []) s = .next t ∧ t.resps.getLast? = some reply ∧ t.arrived.length + 1 = s.arrived.length ∧
            (s.watches = [] → t.arrived = dropAt s.arrived k ∧ t.resps = s.resps ++ [reply]) ∧
            t.mem = s.mem ∧ (∀ core, (t.core core).spad = (s.core core).spad) ∧
            ∀ ctx va, t.homeByte ctx va =
              if ctx = r.ctx ∧ p.addr ≤ va ∧ va < p.addr + p.len then p.data.getD (va - p.addr) 0 else s.homeByte ctx va) ∧
      (∀ core, r.bank? = some core → s.spadRange r.ctx core (p.addr % 262144) p.len = true → ∃ t, exec (.homePerform k [] []) s = .next t ∧
        t.arrived = dropAt s.arrived k ∧ t.resps = s.resps ++ [reply] ∧ t.mem = s.mem ∧
        (∀ c a, c ≠ core ∨ a < p.addr % 262144 ∨ p.addr % 262144 + p.len ≤ a → cell (t.core c).spad a = cell (s.core c).spad a) ∧
        (t.core core).spad = setCells (s.core core).spad (p.addr % 262144) p.data)

/-- R130, R161, R162: a global or private store of one lane leaves the issue queue, where nothing before it holds it back, on a page mapped W
and not EXPORT: its group's core then sees exactly the stored bytes at its addresses and every other byte as before, every other core sees
every byte as before, and the homes and the scratchpads keep theirs. (A full L1 also moves a line out, log 31.) -/
def Obligations.StoresLeaveIntoTheL1 : Prop :=
  ∀ (s : State) (g k : Nat) (e : Entry) (p : Piece) (leaf : Nat),
    let ctx := s.ctxOf g
    (s.grp g).queue[k]? = some e → e.body = .mem .store false [p] → e.bad = [] → s.mayLeave g k = true → (s.grp g).tryR = none →
    p.lane ≤ 96 → 0 < p.len → p.data.length = p.len → p.addr % 128 + p.len ≤ 128 → p.win = none →
    s.leaf ctx p.addr = some leaf → leafW leaf = true → leafExport leaf = false → (∀ f ∈ (s.grp g).flights, f.entry.id ≠ e.id) →
      ∃ t, exec (.issueQueueLeave g k) s = .next t ∧ (t.grp g).queue = dropAt (s.grp g).queue k ∧ (t.grp g).flights = (s.grp g).flights ∧
        t.mem = s.mem ∧ t.llc = s.llc ∧ (∀ core a, cell (t.core core).spad a = cell (s.core core).spad a) ∧
        ((s.core (coreOf g)).l1.length < 1024 → ∀ core c va, t.seenByte core c va =
          if core = coreOf g ∧ c = ctx ∧ p.addr ≤ va ∧ va < p.addr + p.len then p.data.getD (va - p.addr) 0 else s.seenByte core c va)

/-- R102, R103, R131, R161-R166: the other moves between a group, its L1 and the homes. A request that is first of its core and home moves to
the home; a load leaves the queue; a response that is not the last is kept, the last one gives the destinations their values; chosen dirty
bytes of a line move to the write-back queue and from there, the oldest of a line first, to the request queue of their home, a clean line
may go; an acquire fence, or one whose release part is over, leaves, and one whose accesses have landed first moves the context's dirty
bytes; a returned fault of a store becomes a class D cause; a pending trap whose wait is over, with no speculative fence pending, is
taken. -/
def Obligations.AccessesMoveOn : Prop :=
  ∀ (s : State) (g k core : Nat),
    let x := s.grp g
    let ctx := s.ctxOf g
    (∀ r, s.reqs[k]? = some r → (∀ j q, j < k → s.reqs[j]? = some q → ¬(q.core = r.core ∧ q.home = r.home)) →
      exec (.requestDeliver k) s = .next { s with reqs := dropAt s.reqs k, arrived := s.arrived ++ [r] }) ∧
    (∀ r f, s.resps[k]? = some r → (s.grp r.grp).flights.find? (fun y => y.entry.id == r.fid) = some f →
      ∃ t, exec (.responseArrive k) s = .next t ∧
        (2 ≤ f.left → ((∀ p l v bs, r.body ≠ .fill p l v bs) ∨ (s.core r.core).l1.length < 1024 → t.resps = dropAt s.resps k) ∧ t.mem = s.mem ∧
          t.llc = s.llc ∧ (t.grp r.grp).out = (s.grp r.grp).out ∧
          (t.grp r.grp).flights = (s.grp r.grp).flights.map fun y =>
          if y.entry.id = f.entry.id then f.take r.body else y) ∧
        ∀ kind bank ps p bs, f.left ≤ 1 → r.body = .data p bs → f.entry.body = .mem kind bank ps → f.bad = [] → f.entry.bad = [] →
          (s.grp r.grp).tryR = none → t.resps = dropAt s.resps k ∧ t.mem = s.mem ∧ t.llc = s.llc ∧
            (t.grp r.grp).flights = (s.grp r.grp).flights.filter (fun y => y.entry.id ≠ f.entry.id) ∧
            (t.grp r.grp).out = if kind.returns = false then (s.grp r.grp).out else
              supplied f.entry.id ((f.take r.body).values kind ((f.take r.body).performed ps)) true (s.grp r.grp).out) ∧
    (∀ (l : L1Line) (m : BitVec 128), (s.core core).l1[k]? = some l → m &&& l.dirty ≠ 0 →
      ∃ t, exec (.l1WriteBack core k m) s = .next t ∧ t.mem = s.mem ∧ t.llc = s.llc ∧ t.groups = s.groups ∧
        (t.core core).wbq = (s.core core).wbq ++
          [{ id := s.nextId, ctx := l.ctx, line := l.line, mask := m &&& l.dirty, data := l.data, groups := l.groups
             writer := l.writer core (m &&& l.dirty) }] ∧
        ((∀ q ∈ s.reqs ++ s.arrived, q.fills core l.ctx ≠ some l.line) → (∀ q ∈ s.resps, q.fills core l.ctx ≠ some l.line) →
          t.reqs = s.reqs ∧ t.arrived = s.arrived ∧ t.resps = s.resps ∧
          ((t.core core).line l.ctx l.line).map (fun y => (y.valid, y.data, y.dirty)) =
            some (l.valid, l.data, l.dirty &&& ~~~(m &&& l.dirty)))) ∧
    (∀ (w : WriteBack) (m : BitVec 128), (s.core core).l1[k]? = none → (s.core core).wbq[k - (s.core core).l1.length]? = some w →
      ((s.core core).wbq.filter fun y => y.id == w.id) = [w] →
      (∀ y ∈ (s.core core).wbq.take (k - (s.core core).l1.length), ¬(y.ctx = w.ctx ∧ y.line = w.line)) →
      exec (.l1WriteBack core k m) s =
        .next { s.setCore core { s.core core with wbq := (s.core core).wbq.filter fun y => y.id != w.id } with
          reqs := s.reqs ++
            [{ core := core, home := s.homeOf w.ctx (128 * w.line), ctx := w.ctx, grp := 32 * core, fid := 0, body := .wb w }] }) ∧
    (∀ l : L1Line, (s.core core).l1[k]? = some l → l.dirty = 0 →
      exec (.l1Drop core k) s = .next (s.setCore core ((s.core core).dropLine l.ctx l.line))) ∧
    (∀ h i e kind p strict, firstFence x.queue h = some i → firstFence x.queue (!h) = none → x.queue[i]? = some e →
      e.body = .fence kind p strict → x.spec = none →
      (∀ y ∈ x.queue.take i, y.isMaint = false) → (∀ f ∈ x.flights, f.entry.isMaint = false) →
      (kind ≠ .acq → i = 0 → s.fenceLanded g e = true → 1 < scopeNo p → s.wbDone (coreOf g) ctx e.moved = false →
        exec (.fenceComplete g) s = .next (s.startRelease g p e)) ∧
      (kind = .acq ∨ (i = 0 ∧ s.fenceLanded g e = true ∧ (scopeNo p ≤ 1 ∨ s.wbDone (coreOf g) ctx e.moved = true)) →
        let u := s.modGrp g fun y => { y with queue := dropAt y.queue i }
        exec (.fenceComplete g) s = .next (if kind ≠ .rel ∧ 2 ≤ scopeNo p then u.acquire (coreOf g) ctx else u))) ∧
    (∀ r rest, x.deferred = r :: rest → exec (.deferredFaultReturn g) s =
      .next (((s.modGrp g fun y => { y with deferred := rest }).raise g r).settle g)) ∧
    (∀ r, x.trap = some r → x.spec = none → x.priv = false → (s.wg x.wg).hdr.handler ≠ 0 → x.out = [] → x.a.repDone = true →
      x.b.repDone = true → r.cls ≠ .a ∨ (x.slot r.slotB).parkDone = true → exec (.trapDeliver g) s = .next (s.deliver g r)) ∧
    (∀ e kind ps, x.queue[k]? = some e → e.body = .mem (.load kind) false ps → e.bad = [] → x.tryR = none → s.mayLeave g k = true →
      ∃ t, exec (.issueQueueLeave g k) s = .next t ∧ (t.grp g).queue = dropAt x.queue k ∧ t.mem = s.mem ∧ t.llc = s.llc)

/-- R123, R152, R228, R229, R238, R242: HANG past the limit; firmware makes the mappings that it names, and replays the refused lanes of an
access whose lanes all pass then; its refusal of every such lane ends the access with their fault, and of some of them replays the others
first; a work-group in fault service too long, be it for a fetch, is to be saved; a write to a frozen page is re-sent up to 64 times, then its
lanes fail with FROZEN, of a Colander word those whose storage is frozen; refresh puts a request off at most three times; a conflict rolls
a group-mode region back with CONFLICT once nothing is outstanding. -/
def Obligations.FaultServiceAndLimits : Prop :=
  ∀ (s : State) (g k : Nat) (b : Bool),
    let x := s.grp g
    let ctx := s.ctxOf g
    (∀ n, (s.ctx ctx).hangLimit = some n → n < (x.slot b).hang → exec (.hangLimitExpiry g b) s = .next (s.raise g
      { cause := 0x3F, cls := .a, slotB := b, pos := match (x.slot b).park with | some p => p.pos | none => (x.slot b).pc })) ∧
    (∀ f, x.flights[k]? = some f → f.serviced = true → s.served = true →
      let asked := f.bad.filter fun y => y.2.1 == 0x20 || y.2.1 == 0x21
      ((tget s.ctxs ctx).isSome = true → ∀ pages tables,
        let u := pages.foldl (fun t p => t.installPage ctx tables p) s
        let v := if pages = [] then u else u.releaseHeld ctx
        v.mem = u.mem ∧ v.groups = s.groups ∧ ((∀ y ∈ asked, v.nowMapped ctx y = true) →
          exec (.faultServiceMap g { ctx := ctx, access := k, pages := pages, tables := tables }) s =
            .next (v.replayLanes g f (asked.map fun y => y.1)))) ∧
      (∀ ls : List Nat, let t := s.replayLanes g f ls
        (t.grp g).flights = x.flights.filter (fun y => y.entry.id ≠ f.entry.id) ∧ t.mem = s.mem ∧
        ∀ kind bank ps, f.entry.body = .mem kind bank ps → ∃ e ∈ (t.grp g).queue, e.id = f.entry.id ∧
          e.body = .mem kind bank (ps.filter fun p => ls.contains p.lane)) ∧
      let declined (y : Bad) : Bool := !s.nowMapped ctx y && (y.2.1 == 0x21 || !s.hostMapped ctx y.2.2)
      (asked ≠ [] → (∀ y ∈ asked, declined y = true) → exec (.faultServiceDecline g k) s = .next (s.finish g f true)) ∧
      ((∃ y ∈ asked, declined y = true) → (∃ y ∈ asked, declined y = false) → exec (.faultServiceDecline g k) s =
        .next (s.replayLanes g f ((asked.filter fun y => !declined y).map fun y => y.1)))) ∧
    (∀ image, x.asking = true ∨ s.fetchVas g ≠ [] → (s.wg x.wg).hdr.latency = false → (s.wg x.wg).killed = false →
      s.saveOk x.wg = true → exec (.throughputFaultTimeout g image) s =
        .next ((s.setWg x.wg { s.wg x.wg with saving := true, faulted := true }).saveStep x.wg image)) ∧
    (∀ r, s.arrived[k]? = some r →
      let refused : State := { s with
        arrived := dropAt s.arrived k
        resps := s.resps ++ [{ core := r.core, grp := r.grp, fid := r.fid, ctx := r.ctx
                               body := .faults (r.lanes.map fun l => (l.1, 0x2A, l.2)) []
                               wb := (r.wb?.map fun w => w.id).getD 0 }] }
      (r.waiting = true → r.parks = false ∨ r.retries < 64 → exec (.frozenWriteRetry k) s =
        .next { s with arrived := setAt s.arrived k { r with waiting := false, retries := r.retries + 1 } }) ∧
      (r.waiting = true → r.parks = true →
        ((∀ base kind ps, r.body ≠ .colander base kind ps) → exec (.frozenLimit k) s = .next refused) ∧
        (∀ base kind ps t b, r.body = .colander base kind ps → s.colanderHome r base kind ps true = .done t b →
          exec (.frozenLimit k) s = .next (t.answered k r b)) ∧
        (64 ≤ r.retries → exec (.frozenWriteRetry k) s = exec (.frozenLimit k) s)) ∧
      (∀ hint : BitVec 4, r.bank? = none → r.refresh < 3 → r.requeue = false → exec (.hbmRefreshRetry k hint) s =
        .next { s with arrived := setAt s.arrived k { r with refresh := r.refresh + 1, requeue := hint != 0 } }) ∧
      exec (.refreshRequeueTimer k) s = .next { s with arrived := setAt s.arrived k { r with requeue := false } }) ∧
    (∀ r, x.tryR = some r → r.laneMode = false → r.conflict = true → x.out = [] →
      exec (.tryConflictAbort g) s = .next (s.abortTry g 1 0 0))

/-- R24, R266, R268, R270, R272, R274: a write of TAIL, the first of which takes the queues' configurations; the take of a launch whose record
and header pass every check puts its range of work-groups at the end of the next core's deque and moves HEAD; the take of a record by a
core with room starts its first work-group: each group with a lane in the extents runs at the entry, with its starting mask, also in q14, s0
and s1 holding the frame, %mode, %tshape and %seed at their reset values, every other vector, scalar, special and trap register zero, the
scratchpad allocation zero; the upper half of the record stays in its place, the rest of the share goes to the head of the deque, and the
other deques stay. R24: the starting mask of group j of the work-group of lowest WID `base` has the lanes of the work-group whose every WID field
lies below its extent. -/
def Obligations.LaunchesTakesAndStart : Prop :=
  (∀ (s : State) (ctx core : Nat) (place : Placement),
      let x := s.ctx ctx
      (∀ tail y, tget s.ctxs ctx = some y → exec (.launchQueueTailWrite ctx tail) s = .next (s.setCtx ctx (if y.cfgDue then
        { y with tail := tail, cfgDue := false, lqUse := usable y.lqbase y.lqcfg, eqUse := usable y.eqbase y.eqcfg }
        else { y with tail := tail }))) ∧
      (∀ base cfg bs hb c, x.lqUse = some (base, cfg) → x.st = .run → x.head ≠ x.tailRead cfg →
        let l := base.toNat + 64 * (x.head.toNat % 2 ^ Machine.sizeOf cfg)
        let v := leNat bs
        let y := { x with head := x.head + 1, launches := x.launches ++ [{ addr := BitVec.ofNat 64 l, done := false }] }
        let u := (s.setCtx ctx y).afterRead ctx l 64
        let lv := min (launchPrio v) x.maxp
        let range := launchRange ctx l v (leNat hb) lv
        s.homeRead ctx l 64 = .ok bs → launchCode v % 64 = 0 → u.homeRead ctx (launchCode v) 64 = .ok hb → launchBad v (leNat hb) = none →
        x.nextCore = some c → (s.core c).room lv = true → s.clocked c = true → l % 64 = 0 → s.frz ctx (l + 24) = false →
        (s.llcLine ctx ((l + 24) / 128)).isSome = true ∨
          (s.llc.filter fun x => sliceOf (128 * x.line) == sliceOf (128 * ((l + 24) / 128))).length < 20480 →
        (∀ leaf, s.leaf ctx (l + 24) = some leaf → leafExport leaf = false) →
          ∃ t, exec (.launchTake ctx) s = .next t ∧ (t.ctx ctx).head = x.head + 1 ∧ (t.ctx ctx).place = (c + 1) % 3200 ∧
            (t.core c).deque lv = (s.core c).deque lv ++ [range] ∧ t.mem = s.mem) ∧
      (∀ lv i r h e, s.candidate core = some (lv, i) → ((s.core core).deque lv)[i]? = some r → r.kind ≠ 1 → s.vet r = .ok h e →
        s.fits core r.ctx h place = true → runs h e (r.wlo <<< h.wgBits).toNat = true →
          ∃ t, exec (.pantryTake core place) s = .next t ∧ t.mem = s.mem ∧
            let js := (List.range h.groups).filter fun j => startMask h e (r.wlo <<< h.wgBits).toNat j != 0
            let key (j : Nat) : Nat := 32 * core + place.slots.getD j 0
            tget t.wgs s.nextId = some { ctx := r.ctx, core := core, hdr := h, code := r.code, frame := r.frame, ext := r.ext, index := r.wlo
                                         jadr := r.jadr, lch := r.lch, prio := r.prio, spb := place.spb, bb := place.bb
                                         privb := place.privb, groups := js.map key, slots := place.slots } ∧
            (∀ j ∈ js, let m := startMask h e (r.wlo <<< h.wgBits).toNat j
              let y := t.grp (key j)
              y.wg = s.nextId ∧ y.idx = j ∧ y.a.st = .run ∧ y.a.pc = h.entry ∧ y.a.owned = m ∧ y.a.active = m ∧ y.a.bank = m ∧ y.b.st = .free ∧
              y.b.owned = 0 ∧ y.s false 0 = r.frame.setWidth 32 ∧ y.s false 1 = (r.frame >>> 32).setWidth 32 ∧ y.q false 14 = m ∧
              (∀ n, 2 ≤ n → n < 64 → ¬(56 ≤ n ∧ n ≤ 58) → y.s false n = 0 ∧ y.s true n = 0) ∧ y.q true 14 = 0 ∧ (∀ n l, y.v n l = 0) ∧
              y.regs = { s := y.regs.s, seed := y.regs.seed, mode := 1, fflags := 0, tshape := 0x10, tfn := 0, nf := [], lrep := 0
                         allowth := 0, mcfg := 0, audit := 0 } ∧
              (∀ l < 96, y.regs.seed.getD l 0 = BitVec.ofNat 32 ((r.wlo <<< h.wgBits).toNat + 96 * j + l) ^^^ 0x9E3779B9) ∧
              y.trapRegs = { tcause := 0, tpc := 0, tmask := 0, tdone := 0, tinfo := 0, faddr := [], trepi := 0, ttask := 0 } ∧
              y.a.rstack = [] ∧ y.a.point = none ∧ y.dsp = 0 ∧ y.queue = [] ∧ y.out = []) ∧
            (let q := (s.core core).deque lv
             let n := if (s.core core).room lv then (r.wcnt + 1) / 2 else 1
             let part (o k : Nat) : PRec := { r with wlo := r.wlo + BitVec.ofNat 64 o, wcnt := k, check := false }
             let left := if n < r.wcnt then setAt q i (part n (r.wcnt - n)) else dropAt q i
             (t.core core).deque lv = (if n ≤ 1 then left else part 1 (n - 1) :: left) ∧
             ∀ k, k ≠ lv → (t.core core).deque k = (s.core core).deque k) ∧
            (t.core core).spad = setCells (s.core core).spad place.spb (List.replicate h.spadSize 0) ∧
            ∀ k < h.bars, ((t.cluster (core / 32)).bar (place.bb + k)).expa = js.length)) ∧
  (∀ (h : Header) (e base j l : Nat), l < 96 → ((startMask h e base j).getLsbD l = true ↔ 96 * j + l < 2 ^ (h.widths.take h.place).sum ∧
      ∀ k < h.widths.length,
        (base + 96 * j + l) / 2 ^ (h.widths.take k).sum % 2 ^ (h.widths.getD k 0) < e / 2 ^ (32 * k) % 2 ^ 32))

/-- R173, R273, R275, R279-R284: steals, time slices, aging, the end of a work-group, saves and pre-emption: each completes with the effect of
its rule where its condition holds. That the answer to a core whose island has stopped only ends the request, and that with a full deque of
the thief the answer waits with the state unchanged, is the model's choice (log 48). A save moves dirty bytes until the work-group has stored
none since, and only then writes its image. -/
def Obligations.PantryAndPreemption : Prop :=
  ∀ (s : State) (core : Nat),
    let c := s.core core
    ((∀ lv < 4, c.deque lv = []) → c.stealReq = none → c.stealWait = false → s.clocked core = true → core < 3200 →
      ∃ v, exec (.stealRequest core) s = .next (s.setCore core { c with victim := some v, stealReq := some (v.toNat % 3200) })) ∧
    exec (.stealRetryTimer core) s = .next (s.setCore core { c with stealWait := false }) ∧
    (∀ place v, c.stealReq = some v →
      (s.clocked core = false → exec (.stealAnswer core place) s = .next (s.setCore core { c with stealReq := none })) ∧
      (s.clocked core = true → s.stealable v core = none →
        exec (.stealAnswer core place) s = .next (s.setCore core { c with stealReq := none, stealWait := true })) ∧
      (∀ lv r h e, s.clocked core = true → s.stealable v core = some (lv, r) → r.kind ≠ 1 → s.vet r = .ok h e →
        s.fits core r.ctx h place = false → v ≠ core →
        let n := (r.wcnt + 1) / 2
        let q := (s.core v).deque lv
        (c.room lv = false → exec (.stealAnswer core place) s = .next s) ∧
        (c.room lv = true → ∃ t, exec (.stealAnswer core place) s = .next t ∧ (t.core core).stealReq = none ∧
          (t.core core).deque lv = { r with wcnt := n, check := false } :: c.deque lv ∧
          (t.core v).deque lv = (if n < r.wcnt
            then setAt q (q.length - 1) { r with wlo := r.wlo + BitVec.ofNat 64 n, wcnt := r.wcnt - n, check := false }
            else dropAt q (q.length - 1)) ∧ t.mem = s.mem))) ∧
    (∀ ctx, (s.ctx ctx).slice ≠ 0 → (s.ctx ctx).slice ≤ tgetD c.resid ctx 0 → s.rivals core ctx = true → c.sliced.contains ctx = false →
      exec (.timeSliceExpiry core ctx) s = .next (s.setCore core { c with sliced := c.sliced ++ [ctx] })) ∧
    (∀ lv k r, (c.deque lv)[k]? = some r → fld (s.ctx r.ctx).sched.toNat 56 4 ≠ 0 → lv < (s.ctx r.ctx).maxp → c.room (lv + 1) = true →
      ∃ t, exec (.agingPeriodExpiry core lv k) s = .next t ∧ (t.core core).deque lv = dropAt (c.deque lv) k ∧
        (t.core core).deque (lv + 1) = c.deque (lv + 1) ++ [{ r with prio := lv + 1 }] ∧ t.mem = s.mem) ∧
    (∀ n w, tget s.wgs n = some w → (∀ g ∈ w.groups, (s.grp g).ended = true ∧ s.drained g = true) →
      (w.moved = 0 → exec (.workgroupEnd n) s = .next ((s.dropPrivate w).moveDirty n)) ∧
      (w.moved ≠ 0 → s.wbDone w.core w.ctx w.moved = false → exec (.workgroupEnd n) s = .next s) ∧
      (w.moved ≠ 0 → s.wbDone w.core w.ctx w.moved = true → w.jadr = 0 →
        ∃ t, exec (.workgroupEnd n) s = .next t ∧ t.mem = s.mem ∧ t.wgs = tdel s.wgs n ∧
          t.groups = s.groups.filter (fun g => !w.groups.contains g.1) ∧ t.watches = s.watches.filter fun y => !w.groups.contains y.grp)) ∧
    (∀ n w image, tget s.wgs n = some w → w.saving = true → w.killed = false → s.saveOk n = true →
      (∀ g ∈ w.groups, (s.grp g).calm = true ∧ (s.grp g).tryR = none ∧ s.quietForSave g w.faulted = true ∧ s.opsOf g = []) → s.boundCard w = false →
      (w.moved = 0 ∨ s.dirtyOf w = true → exec (.workgroupSave n image) s = .next (s.moveDirty n)) ∧
      (w.moved ≠ 0 → s.dirtyOf w = false → s.wbDone w.core w.ctx w.moved = true → (s.ctx w.ctx).imageFree image.toNat (s.imageOf n).size = true →
        (s.core w.core).room w.prio = true →
          exec (.workgroupSave n image) s = .next (s.writeImage n image) ∧ tget (s.writeImage n image).wgs n = none)) ∧
    (∀ ctx y, tget s.ctxs ctx = some y → s.served = true →
      (y.st = .run → (∃ w ∈ s.wgs, w.2.ctx = ctx) →
        exec (.preemptDrainRequest ctx) s = .next (s.setCtx ctx { y with st := .drain, deadline := true }) ∧
        ∃ t, exec (.preemptSaveRequest ctx) s = .next t ∧ (t.ctx ctx).st = .save ∧ (t.ctx ctx).deadline = true ∧ t.mem = s.mem ∧
          ∀ n w, tget t.wgs n = some w → w.ctx = ctx → s.engaged n = true ∨ w.saving = true) ∧
      (y.st = .run → (∀ w ∈ s.wgs, w.2.ctx ≠ ctx) → ∃ t, exec (.preemptDrainRequest ctx) s = .next t ∧ (t.ctx ctx).st = .stopped) ∧
      (y.st = .stopped → exec (.preemptResumeRequest ctx) s = .next (s.setCtx ctx { y with st := .run, cfgDue := true })) ∧
      (y.st = .drain ∨ y.st = .save → y.deadline = true → ∃ t, exec (.preemptDeadlineExpiry ctx) s = .next t ∧
        (t.ctx ctx).st = .killed ∧ (t.ctx ctx).launches = [] ∧ (t.ctx ctx).head = y.tail ∧ (t.ctx ctx).done = y.tail))

/-- R169, R184, R185, R188, R193, R314, R318: the copy engine's events on the head card of a channel that has left its issue queue. A copy
card whose footprint is clear and whose rings have the slots is admitted; a read of CPY between scratchpads takes the bytes up to the
source's line end and makes the writes that they need, cut where the destination's lines end; a write to scratchpad stores its bytes and
changes no other, and moves DONE and WP by their number; a finished card without ring or completion word leaves; a card with a cause halts
the channel and cancels the queued cards; a fired card is posted once nothing holds it back, a remote one to its target as it stands then;
one whose target is refused takes its place in the channel, sends nothing and, as its head, faults with that cause; a remote card is charged
16 units more where the allowance covers them. That a card's pieces end at line ends and that each read and each write is a step of its own
is the model's choice (log 57), and so is where a refused fired card halts the channel (log 62). -/
def Obligations.CopyEngineEvents : Prop :=
  ∀ (s : State) (cl ch : Nat) (c : Card) (rest : List Card),
    let x := s.chan cl ch
    let head (c : Card) : State := s.modChan cl ch fun y => y.setHead c
    (x.queue = c :: rest → c.left = true →
      (c.admitted = false → c.cause = 0 → c.kind.remote = true → exec (.copyCardAdmit cl ch) s = .next ((head c.begun).sendMore cl ch)) ∧
      (c.admitted = false → c.cause = 0 → c.kind.remote = false → c.rin = false → c.rout = false →
        s.footClear cl c.id c.ctx c.reads c.writes = true →
          exec (.copyCardAdmit cl ch) s = .next (head { c with admitted := true })) ∧
      (c.admitted = true → c.kind = .cpy → c.rin = false → c.rout = false → c.ssp ≠ 3 → c.dsp ≠ 3 → c.taken < c.len → c.seen = [] →
        let a := c.adr 0 + c.taken
        let b := c.adr 2 + c.taken
        let n := min (c.len - c.taken) (128 - a % 128)
        let k := min n (128 - b % 128)
        let bs := cells (s.core (32 * cl + a / 2 ^ 18)).spad (a % 2 ^ 18) n
        let far : List CardWrite := if k < n then [{ bank := true, adr := b + k, bytes := bs.drop k, count := n - k }] else []
        s.clusterRange c.ctx cl a n = true → exec (.copyDeliveryWrite cl (.read ch 0 0)) s = .next (head { c with
          taken := c.taken + n, buf := c.buf ++ { bank := true, adr := b, bytes := bs.take k, count := k } :: far })) ∧
      (∀ w ws, c.admitted = true → c.kind.remote = false → c.kind ≠ .cpyt → complKind (c.w 7) ≠ 1 → c.buf = w :: ws → w.bank = true →
        s.clusterRange c.ctx cl w.adr w.bytes.length = true → w.bytes ≠ [] →
          ∃ t, exec (.copyDeliveryWrite cl (.write ch)) s = .next t ∧ t.mem = s.mem ∧ t.llc = s.llc ∧
            (t.chan cl ch).wp = x.wp + BitVec.ofNat 32 w.count ∧ (t.chan cl ch).queue = { c with buf := ws, done := c.done + w.count } :: rest ∧
            ∀ k, (t.core k).spad = if k = 32 * cl + w.adr / 2 ^ 18
              then setCells (s.core k).spad (w.adr % 2 ^ 18) w.bytes else (s.core k).spad) ∧
      (c.finished = true → c.outCnt = 0 → c.inCnt = 0 → c.kind = .cpy → complKind (c.w 7) = 0 → exec (.copyCardComplete cl ch) s =
        .next (s.setChan cl ch { x with queue := rest, last := 0, wp := x.wp + BitVec.ofNat 32 (c.bytes - c.done) })) ∧
      (c.admitted = false → c.cause ≠ 0 → s.cardFault cl ch = some (s, c.cause)) ∧
      (∀ u k, s.cardFault cl ch = some (u, k) → ∃ t, exec (.copyCardFault cl ch) s = .next t ∧ (t.chan cl ch).halted = true ∧
        (t.chan cl ch).queue = [] ∧ (t.chan cl ch).cause = k ∧ (t.chan cl ch).last = k) ∧
      (c.admitted = true → c.kind.remote = true → c.charged < c.units → s.covers c (min 16 (c.units - c.charged)) = true →
        exec (.channelAllowanceCharge cl ch) s = .next (((s.charge c.devs (min 16 (c.units - c.charged))).modChan cl ch fun y =>
          y.setHead { c with charged := c.charged + min 16 (c.units - c.charged) }).sendMore cl ch))) ∧
    (x.fired = [c] → x.halted = false → c.cause = 0 → x.queue.length < 32 → s.queued cl c.ctx + s.firedBefore cl c.ctx c.id < 256 →
      ∀ i ∈ [Instr.cardQuotaResume cl ch, .cardFireQueueRoom cl ch],
      let target := if c.kind.remote then s.target c.ctx c else .ok c
      (∀ k, target = .error k → ∃ t, exec i s = .next t ∧ (t.chan cl ch).fired = [] ∧ (t.chan cl ch).halted = false ∧
        (t.chan cl ch).pw = x.pw + BitVec.ofNat 32 (c.doomed k).bytes ∧ t.pkts = s.pkts ∧ t.allow = s.allow ∧
        (t.chan cl ch).queue = x.queue ++ [{ c with words := setAt c.words 7 0, devs := [], cause := k, id := s.nextId, left := true
                                                    charged := 0 }]) ∧
      ∀ d, target = .ok d → s.covers d (min d.units 64) = true →
        ∃ t, exec i s = .next t ∧ (t.chan cl ch).fired = [] ∧ (t.chan cl ch).pw = x.pw + BitVec.ofNat 32 d.bytes ∧
          (t.chan cl ch).queue = x.queue ++ [{ d with id := s.nextId, left := true, charged := min d.units 64 }])

/-- R182, R185, R205, R304, R316: a slot parked in a post goes on once the post may be made: COPY_QUEUE_ROOM and ALLOWANCE_WAIT_END post its
card, a remote one to the target that its window or group gives now, move PW and give the mark, or raise the cause that refuses the target;
ALWDL_TIMEOUT, where %allowth sets a limit, ends the wait with ALWDL, a cause of class A; MATRIX_QUEUE_ROOM posts its
operation, where none that it may not overtake is parked; RING_PARK_RESUME takes the slots that RGACQ waits for, or raises RINGBAD where
the ring is bound to another context by then. -/
def Obligations.ParkedPostsResume : Prop :=
  ∀ (s : State) (g : Nat) (b : Bool) (p : Park), ((s.grp g).slot b).park = some p →
    let cl := coreOf g / 32
    (∀ card k, p.card = some card → card.kind.remote = true → s.target card.ctx card = .error k →
      ∀ i ∈ [Instr.copyQueueRoom g b, .allowanceWaitEnd g b], exec i s = .next (s.raiseParked g b p k)) ∧
    (∀ held card, p.card = some held → (if held.kind.remote then s.target held.ctx held else .ok held) = .ok card →
      let x := s.chan cl p.arg.toNat
      let mark := x.pw + BitVec.ofNat 32 card.bytes
      s.unfinished cl card.ctx < 256 → s.covers card (min card.units 64) = true → x.queue.length < 32 → x.halted = false → s.nextId ≠ 0 →
        ∀ i ∈ [Instr.copyQueueRoom g b, .allowanceWaitEnd g b], ∃ t, exec i s = .next t ∧ ((t.grp g).slot b).park = none ∧
          (t.chan cl p.arg.toNat).pw = mark ∧
          (t.chan cl p.arg.toNat).queue = x.queue ++ [{ card with id := s.nextId, charged := min card.units 64 }] ∧
          (t.grp g).out = supplied p.id (fun _ => (1, [mark])) true (s.grp g).out ∧
          ∃ e, (t.grp g).queue = (s.grp g).queue ++ [e] ∧ e.id = s.nextId ∧ e.body = .card cl p.arg.toNat s.nextId) ∧
    (p.why = .allowance → fld (s.grp g).regs.allowth.toNat 16 4 ≠ 0 →
      exec (.alwdlTimeout g b) s = .next (s.raiseParked g b p 0x56 .a)) ∧
    (∀ o, p.mat = some o → o.team = none → (s.core (coreOf g)).mq.length < 32 → (o.move = true → s.moves o.grp < 16) →
      s.overtakes (coreOf g) o = false →
      ∃ t, exec (.matrixQueueRoom g b) s = .next t ∧ ((t.grp g).slot b).park = none ∧
        (t.core (coreOf g)).mq = (s.core (coreOf g)).mq ++ [{ o with posted := s.nextId }] ∧ t.mem = s.mem) ∧
    (∀ r (d a n : BitVec 7), p.why = .ring r → p.word = .rgacq d a n →
      ((s.ring cl r).foreign (s.ctxOf g) = true → exec (.ringParkResume g b) s = .next (s.raiseParked g b p 0x3A)) ∧
      ((s.ring cl r).foreign (s.ctxOf g) = false → (s.ring cl r).canAcq p.arg.toNat = true → ∃ t, exec (.ringParkResume g b) s = .next t ∧
        ((t.grp g).slot b).park = none ∧
        t.ring cl r = { s.ring cl r with pres := (s.ring cl r).pres + BitVec.ofNat 16 p.arg.toNat } ∧ t.mem = s.mem))

/-- R200, R205-R207, R212, R214: MATRIX_STEP on operation k of a core, the head of its stream, that needs nothing of scratchpad: it is
admitted; once admitted and next in the round-robin order, MZERO clears exactly its rectangle, a one-step MMA on register operands
replaces each cell of its rectangle by the exact sum's rounding and keeps every other, MVA writes its lanes' cells and keeps every other, MAV
supplies its destination and keeps all cells; each then leaves the queue. -/
def Obligations.MatrixSteps : Prop :=
  ∀ (s : State) (core k : Nat) (cached : Bool) (o : MatOp),
    let x := s.core core
    let others := x.mq.filter fun y => y.id ≠ o.id
    let inside (r c : Nat) : Prop := ctlRow o.ctl ≤ r ∧ r < ctlRow o.ctl + ctlM o.ctl ∧ ctlCol o.ctl ≤ c ∧ c < ctlCol o.ctl + ctlN o.ctl
    x.mq[k]? = some o → o.left = true → x.isHead k o = true → o.aRing = none → o.bRing = none → o.foot = [] → o.team = none →
      (o.admitted = false → exec (.matrixStep core k cached) s = .next (s.setCore core (x.setOp { o with admitted := true }))) ∧
      (o.admitted = true → (mcfgSke o.mcfg && (s.grp o.grp).auditDue) = false → (s.nextOp core).map (fun y => y.id) = some o.id → x.releasing = [] →
        ctlRow o.ctl + ctlM o.ctl ≤ 128 → ctlCol o.ctl + ctlN o.ctl ≤ 128 →
        (o.kind = .mzero → ∃ t, exec (.matrixStep core k cached) s = .next t ∧ (t.core core).mq = others ∧ t.mem = s.mem ∧
          (∀ r c, inside r c → (t.core core).cell r c = 0) ∧ ∀ r c, c < 128 → ¬inside r c → (t.core core).cell r c = x.cell r c) ∧
        (o.kind = .mma → o.kcnt = 1 → o.step = 0 → ctlASrc o.ctl = true → ctlBSrc o.ctl = true →
          o.aRegs.length = ctlM o.ctl → o.bRegs.length = ctlN o.ctl →
          ∃ t, exec (.matrixStep core k cached) s = .next t ∧ (t.core core).mq = others ∧ t.mem = s.mem ∧
            (∀ i j, i < ctlM o.ctl → j < ctlN o.ctl → (t.core core).cell (ctlRow o.ctl + i) (ctlCol o.ctl + j) =
              cellAfter (ctlInt8 o.ctl) (x.cell (ctlRow o.ctl + i) (ctlCol o.ctl + j))
                (dotRow (ctlInt8 o.ctl) (o.aRegs.getD i []) (o.bRegs.getD j []))) ∧
            ∀ r c, c < 128 → ¬inside r c → (t.core core).cell r c = x.cell r c) ∧
        (o.kind = .mva → ∃ t, exec (.matrixStep core k cached) s = .next t ∧ (t.core core).mq = others ∧ t.mem = s.mem ∧
          (∀ l, l < 96 → o.lanes.getLsbD l = true → (t.core core).cell ((o.cell + l) / 128) ((o.cell + l) % 128) = o.vals.getD l 0) ∧
          ∀ r c, c < 128 → (∀ l, l < 96 → o.lanes.getLsbD l = true → 128 * r + c ≠ o.cell + l) → (t.core core).cell r c = x.cell r c) ∧
        (o.kind = .mav → ∃ t, exec (.matrixStep core k cached) s = .next t ∧ (t.core core).mq = others ∧ t.mem = s.mem ∧
          (∀ r c, (t.core core).cell r c = x.cell r c) ∧
          (t.grp o.grp).out = supplied o.id (fun _ => (o.lanes, (List.range 96).map fun l =>
            x.cell ((o.cell + l) / 128) ((o.cell + l) % 128))) true (s.grp o.grp).out))

/-- R232, R233, R236, R240, R242: PAGE_FREEZE sets FRZ in every replica of a page's leaf; PAGE_THAW moves the page to its new frame, clears it,
marks the cached copies of bytes found uncorrectable and writes the error records that the frozen page held back (that it held them back is
the model's choice, logs 34 and 49); a background load pins a line of a window; at the end of a fade period a window that was touched stays,
one that was not loses 1 of FADE, and one at 1 or 0 goes; a grant adds tokens, up to the bucket's depth (that they are kept for requests to
come is the model's choice, log 39). -/
def Obligations.PagesWindowsAndTokens : Prop :=
  ∀ (s : State) (ctx : Nat) (va : Dword),
    (∀ e, s.leaf ctx va.toNat = some e → leafFrz e = false → s.served = true → leafFrz (e + 32) = true ∧
      exec (.pageFreeze ctx va) s = .next ((pageGroup e va.toNat).foldl (fun t a => t.setLeaf ctx a (e + 32)) s)) ∧
    (∀ e frame, s.leaf ctx va.toNat = some e → leafFrz e = true → s.served = true →
      let old := pageFrames (leafLarge e) (leafFrame e)
      let new := pageFrames (leafLarge e) frame
      s.framesFree new = true → (leafLarge e = true → frame % 64 = 0) →
        let moved := (pageGroup e va.toNat).foldl (fun t a => t.setLeaf ctx a (e - 32 - 2048 * leafFrame e + 2048 * frame))
          ((((old.zip new).foldl (fun t p => t.copyFrame p.1 p.2) s).dropFrames old).takeFrames new)
        exec (.pageThaw ctx va frame) s = .next ((moved.markCopies (moved.poison.filter fun g => inFrames new (32 * g))).postHeld ctx)) ∧
    (∀ k line w, (s.leaf ctx (128 * line)).isSome = true → tget (s.ctx ctx).pins k = some w → w.start ≤ 128 * line →
      128 * line < w.start + w.len → w.loaded.contains line = false → exec (.pinBackgroundLoad ctx k line) s =
        .next (s.setCtx ctx { s.ctx ctx with pins := tset (s.ctx ctx).pins k { w with loaded := line :: w.loaded } })) ∧
    (∀ c, tget s.ctxs ctx = some c →
      let fade : Nat × PinWin → Option (Nat × PinWin) := fun p =>
        if p.2.touched then some (p.1, { p.2 with touched := false })
        else if p.2.fade ≤ 1 then none else some (p.1, { p.2 with fade := p.2.fade - 1 })
      exec (.fadePeriodExpiry ctx) s = .next (s.setCtx ctx { c with pins := c.pins.filterMap fade }) ∧
      ∀ cls res n,
        let w := tgetD c.reg (12 * cls + res) 0
        let full := min (1024 * max 1 (fld w.toNat 0 16)) (tgetD c.granted (12 * cls + res) 0 + n)
        fld w.toNat 16 11 ≠ 0 → exec (.tokenBucketGrant ctx cls res n) s =
          .next (s.setCtx ctx { c with granted := tset c.granted (12 * cls + res) full }))

/-- R274, R286-R290: an uncorrectable error, and link down, post HOSTERR to every context, and messages held meanwhile are sent after
retraining; an access through an absent BAR2
window, or one that translation or a Colander window refuses, completes with Completer Abort and writes nothing; a read returns the stored
bytes outside bad granules, with EP set where it touches one; a write within a line that the LLC holds or has room for is performed at its
home; registers keep the bits that they have, and the field MSIX all of them; a CSET write of zero is ignored; a doorbell copies REQ and sets BUSY. -/
def Obligations.HostAccessesThePackage : Prop :=
  ∀ (s : State),
    (s.linkUp = true → ∃ down, exec .pcieLinkError s = .next ({ s with linkUp := !down, free := s.free + 1 }.toAll Code.HOSTERR 0)) ∧
    (s.linkUp = false → s.boot = 5 →
      exec .pcieLinkRetrain s = .next { s with linkUp := true, msixSent := s.msixPend ++ s.msixSent, msixPend := [] }) ∧
    (s.linkUp = true → ∀ off n bs, off % 1073741824 + n ≤ 1073741824 → bs.length = n →
      let ent := tgetD s.apw (off / 1073741824) 0
      (ent.getLsbD 16 = false → ∀ wr, wr = none ∨ wr = some bs →
        exec (.hostBar2Access off n wr []) s = .next { s with hostResp := .abort }) ∧
      ∀ ctx va, ent.getLsbD 16 = true → ctx = ent.toNat % 65536 →
        va = widen57 (1073741824 * fld ent.toNat 30 27) + off % 1073741824 →
        (s.hostOk ctx va n .read = false → exec (.hostBar2Access off n none []) s = .next { s with hostResp := .abort }) ∧
        (s.hostOk ctx va n .write = false → exec (.hostBar2Access off n (some bs) []) s = .next { s with hostResp := .abort }) ∧
        (s.hostOk ctx va n .read = true → ∃ t data ep, exec (.hostBar2Access off n none []) s = .next t ∧
          t.hostResp = .data data ep ∧ t.mem = s.mem ∧ t.llc = s.llc ∧ data.length = n ∧
          (ep = true ↔ ∃ i g, i < n ∧ s.granuleAt ctx (va + i) = some g ∧ (g ∈ s.poison ∨ g ∈ s.failed)) ∧
          ∀ i, i < n → (∀ g, s.granuleAt ctx (va + i) = some g → g ∉ s.poison ∧ g ∉ s.failed) → data[i]? = some (s.homeByte ctx (va + i))) ∧
        ∀ leaf, 0 < n → va % 128 + n ≤ 128 → s.hostOk ctx va n .write = true → s.poison = [] → s.failed = [] → s.leaf ctx va = some leaf →
          leafExport leaf = false → leafFrz leaf = false → (s.llcLine ctx (va / 128)).isSome = true ∨
            (s.llc.filter fun x => sliceOf (128 * x.line) == sliceOf (128 * (va / 128))).length < 20480 →
            ∃ t, exec (.hostBar2Access off n (some bs) []) s = .next t ∧ t.hostResp = .written ∧ t.mem = s.mem ∧
              ∀ c a, t.homeByte c a = if c = ctx ∧ va ≤ a ∧ a < va + n then bs.getD (a - va) 0 else s.homeByte c a) ∧
    (s.linkUp = true → ∀ k c w, k < 4096 → tget s.ctxs k = some c →
      let put (o : Nat) (d : Ctx) : Prop := exec (.hostRegisterWrite (16777216 + 4096 * k + o) w) s = .next (s.setCtx k d)
      put 0x038 { c with eqhead := w } ∧
      put 0x04C { c with fade := min 20 (w.toNat % 32) } ∧
      put 0x01C { c with lqbase := (w ++ c.lqbase.setWidth 32 : BitVec 64) } ∧
      put 0x02C { c with eqbase := (w ++ c.eqbase.setWidth 32 : BitVec 64) } ∧
      (4 ≤ w.toNat % 32 → w.toNat % 32 ≤ 16 → put 0x020 { c with lqcfg := w &&& 0x07FF001F } ∧
        put 0x030 { c with eqcfg := w &&& 0x07FF001F }) ∧
      (¬(4 ≤ w.toNat % 32 ∧ w.toNat % 32 ≤ 16) → put 0x020 c ∧ put 0x030 c) ∧
      (w ≠ 0 → put 0x03C { c with eqlost := 0 })) ∧
    (s.linkUp = true → ∀ o w, o % 4 = 0 →
      (∀ i, i < 2048 → o = 98304 + 4 * (i / 32) → ∃ t, exec (.hostRegisterWrite o w) s = .next t ∧
        t.msixPend.contains i = w.getLsbD (i % 32) ∧ ∀ v, v / 32 ≠ i / 32 → t.msixPend.contains v = s.msixPend.contains v) ∧
      (65536 ≤ o → o < 16777216 → ¬(98304 ≤ o ∧ o < 98560) →
        exec (.hostRegisterWrite o w) s = .next { s with msixTab := setCells s.msixTab o (leBytes 4 w.toNat) }) ∧
      (o < 256 → exec (.hostRegisterWrite (8192 + o) w) s =
        .next { s with srq := { s.srq with req := setCells s.srq.req o (leBytes 4 w.toNat) } })) ∧
    (s.linkUp = true → ∀ ctx c v, tget s.ctxs ctx = some c →
      let m := v &&& 0xFFFFFFFFFFFFFFFFFFFFFFFFF
      exec (.csetWrite ctx v) s = .next (if m = 0 then s else s.setCtx ctx { c with cset := m })) ∧
    (s.linkUp = true → s.srq.busy = false → s.served = true → ∀ seq,
      exec (.srqDoorbell seq) s = .next { s with srq := { s.srq with cur := s.srq.req, seq := seq, busy := true } }) ∧
    (s.srq.busy = true → ∀ seq, exec (.srqDoorbell seq) s = .next s)

/-- R290: a request's completion writes RSP, then DSEQ, clears BUSY and sends the vector if IE = 1; after the alarm every known code is
refused with STATUS 5; a non-zero reserved byte gives 2, a context that does not exist 4, an unknown code 1; and a request whose STATUS is
not 0 has changed nothing. The order of these tests, and that the alarm's 5 comes for every known code whatever its reserved bytes hold, are
the model's choice (log 77). R291, R303-R305, R324, R325: PEERWIN, TRANGE, MCRGROUP and MCRMEMBER write one entry each, and EXPORTPA answers
the PA of an address in an EXPORT page, with STATUS 2 for a page that is absent or not EXPORT. -/
def Obligations.RequestsAreAnsweredOrRefused : Prop :=
  ((∀ (s : State) (st : Nat) (r : List Byte),
      (s.srqDone st r).srq = { s.srq with
        rsp := takePad 256 (leBytes 4 st ++ leBytes 4 s.srq.seq.toNat ++ r), dseq := s.srq.seq, busy := false } ∧
      (s.srqDone st r).msixSent =
        if s.srq.cfg.getLsbD 0 = true ∧ s.linkUp = true then vectorOf s.srq.cfg :: s.msixSent else s.msixSent) ∧
    ∀ (s : State) (id root : Nat) (va : Dword) (fr tb : List Nat) (code : Nat) (i : Instr) (names : Bool),
      (code, i, names) ∈ [(1, .ctxCreate id root va fr tb, false), (2, .ctxDestroy, true), (3, .mapPages fr tb, true), (4, .unmapPages, true),
        (5, .protectPages, true), (6, .peerwin, true), (7, .trange, false), (8, .mcrgroup, false), (9, .mcrmember, true),
        (10, .exportpa, true)] →
      (∃ t, exec i s = .next t ∧ (t = s ∨ (∃ n, n ≠ 0 ∧ t = s.srqDone n []) ∨ ∃ (u : State) (r : List Byte), t = u.srqDone 0 r)) ∧
      (s.srq.busy = true → s.served = true → s.req 0 2 = code → s.frozenIn (s.req 4 4) 0 (2 ^ 64) = false →
        s.frozenIn (s.req 4 4) (s.req 16 8) (s.req 24 8) = false →
          (s.alarm = true → exec i s = .next (s.srqDone 5 [])) ∧
          (s.alarm = false → (s.req 2 2 ≠ 0 ∨ s.req 8 8 ≠ 0 ∨ names = false ∧ s.req 4 4 ≠ 0) → exec i s = .next (s.srqDone 2 [])) ∧
          (s.alarm = false → names = true → s.reqZero true = true → tget s.ctxs (s.req 4 4) = none → exec i s = .next (s.srqDone 4 []))) ∧
      (s.srq.busy = true → s.served = true → (s.req 0 2 = 0 ∨ 11 ≤ s.req 0 2) → exec .srqUnknownCode s = .next (s.srqDone 1 []))) ∧
  (∀ (s : State), s.srq.busy = true → s.served = true → s.alarm = false →
      (∀ c : Ctx, s.req 0 2 = 6 → s.reqZero true = true → tget s.ctxs (s.req 4 4) = some c → s.req 16 4 < 256 →
        let e := BitVec.ofNat 128 (s.req 32 16) &&& 0x07FFFFFF7FFFFFFFFFFFFC000000000F
        (e.getLsbD 0 = true → winLen e ≠ 0 ∧ winDev e ≤ 575) →
          exec .peerwin s = .next ((s.setCtx (s.req 4 4) { c with peer := tset c.peer (s.req 16 4) e }).srqDone 0 [])) ∧
      (s.req 0 2 = 7 → s.reqZero false = true → s.req 16 4 < 576 → s.req 20 4 < 16 →
        let e := BitVec.ofNat 64 (s.req 24 8) &&& 0xFFFFFFFFFFFFFC0F
        exec .trange s = .next ({ s with ranges := tset s.ranges (16 * s.req 16 4 + s.req 20 4) e }.srqDone 0 [])) ∧
      (s.req 0 2 = 8 → s.reqZero false = true → s.req 16 4 < 256 → ∃ e : BitVec 1024, (∀ k, k < 621 ∨ k = 623 →
          e.getLsbD k = (s.req 32 80).testBit k) ∧ (∀ k, k = 621 ∨ k = 622 → e.getLsbD k = false) ∧
        exec .mcrgroup s = .next ({ s with mcr := tset s.mcr (s.req 16 4) e }.srqDone 0 [])) ∧
      (∀ c : Ctx, s.req 0 2 = 9 → s.reqZero true = true → tget s.ctxs (s.req 4 4) = some c → s.req 16 4 < 256 →
        let r := BitVec.ofNat 128 (s.req 32 16) &&& 0x01FFFFFFFFFFFFFFFFFF000000000001
        memBase r % 4096 = 0 → memCtx r = s.req 4 4 →
          exec .mcrmember s = .next ({ s with members := tset s.members (s.req 16 4) r }.srqDone 0 [])) ∧
      (∀ c : Ctx, s.req 0 2 = 10 → s.reqZero true = true → tget s.ctxs (s.req 4 4) = some c → canonical (s.req 16 8) = true →
        (s.leaf (s.req 4 4) (s.req 16 8) = none → exec .exportpa s = .next (s.srqDone 2 [])) ∧
        ∀ e, s.leaf (s.req 4 4) (s.req 16 8) = some e →
          exec .exportpa s = .next (if leafExport e then s.srqDone 0 (leBytes 8 (leafPa e (s.req 16 8))) else s.srqDone 2 [])))

/-- R227, R291: what firmware performs at the host's requests on contexts and page tables. CTX_CREATE makes a context at reset values in state
RUN with its root table zeroed, its private pool mapped W and frames set aside for its save pool; CTX_DESTROY of a context that is STOPPED or
KILLED writes its LLC lines back and leaves nothing of it: no line in an LLC or an L1, no request or response on its way, no record in a deque,
no card in a channel, no region or window, and its frames are free; MAP, UNMAP and PROTECT change the leaf entries of their range. The
identifier, the frames and the virtual range are firmware's, and how the private pool counts among the mapped ranges is the model's choice
(log 44). -/
def Obligations.ContextAndPageRequests : Prop :=
  ∀ (s : State), s.srq.busy = true → s.served = true → s.alarm = false →
    (∀ (id root : Nat) (va : Dword) (fr tb : List Nat) (u : State), s.req 0 2 = 1 → s.reqZero false = true →
      (s.req 16 4 = id ∨ s.req 16 4 = 0xFFFFFFFF) → id < 4096 →
      s.req 24 8 % 262144 = 0 → s.req 32 8 % 262144 = 0 → tget s.ctxs id = none → root < 786432 →
      s.framesFree (tableFrames root) = true → fr.length = s.req 24 8 / 262144 + s.req 32 8 / 262144 →
      (s.req 24 8 = 0 ∨ rangeOk va.toNat (s.req 24 8) 262144 = true) →
      let pool := fr.take (s.req 24 8 / 262144)
      let saves := fr.drop (s.req 24 8 / 262144)
      let c : Ctx := { root := root, privVa := va, privLen := s.req 24 8, savePool := s.req 32 8, saveFrames := saves }
      let made := ((s.zeroFrames (tableFrames root)).takeFrames (tableFrames root)).setCtx id c
      made.framesFree saves = true → (made.takeFrames saves).mapRange root va.toNat 2 false pool tb = some u →
        exec (.ctxCreate id root va fr tb) s = .next ((u.clearAbsent id).srqDone 0 (leBytes 4 id ++ leBytes 4 0 ++ leBytes 8 va.toNat)) ∧
          tget u.ctxs id = some c ∧ c.st = .run ∧ c.cset = 0xFFFFFFFFFFFFFFFFFFFFFFFFF ∧ c.peer = [] ∧ c.counters = [] ∧
          ∀ k, k ≠ id → tget u.ctxs k = tget s.ctxs k) ∧
    (∀ c : Ctx, s.req 0 2 = 2 → s.reqZero true = true → tget s.ctxs (s.req 4 4) = some c → s.frozenIn (s.req 4 4) 0 (2 ^ 64) = false →
      (c.st ≠ .stopped → c.st ≠ .killed → exec .ctxDestroy s = .next (s.srqDone 4 [])) ∧
      ((c.st = .stopped ∨ c.st = .killed) → (s.ctxs.map Prod.fst).Nodup → ∃ t : State, exec .ctxDestroy s = .next (t.srqDone 0 []) ∧
        let id := s.req 4 4
        let own := s.framesOf id (s.presentPages id 0 (2 ^ 64)) ++ (s.ctxTables id).flatMap tableFrames ++ c.saveFrames
        tget t.ctxs id = none ∧ (t.ctx id).regions = [] ∧ (t.ctx id).pins = [] ∧ (∀ k, k ≠ id → tget t.ctxs k = tget s.ctxs k) ∧
        t.frames = s.frames.filter (fun f => !own.contains f) ∧ t.mem = (s.flushRange id 0 (2 ^ 64)).mem ∧ (∀ l ∈ t.llc, l.ctx ≠ id) ∧
        (∀ r ∈ t.reqs, r.ctx ≠ id) ∧ (∀ r ∈ t.arrived, r.ctx ≠ id) ∧ (∀ r ∈ t.resps, r.ctx ≠ id) ∧ t.groups = s.groups ∧
        (∀ core ∈ t.cores, (∀ l ∈ core.2.l1, l.ctx ≠ id) ∧ (∀ w ∈ core.2.wbq, w.ctx ≠ id) ∧ ∀ q ∈ core.2.pantry, ∀ r ∈ q.2, r.ctx ≠ id) ∧
        ∀ cl ∈ t.clusters, ∀ h ∈ cl.2.chans, (∀ k ∈ h.2.queue, k.ctx ≠ id) ∧ (∀ k ∈ h.2.fired, k.ctx ≠ id) ∧ ∀ e ∈ h.2.absent, e.1 ≠ id)) ∧
    (∀ (c : Ctx) (fr tb : List Nat) (u : State), s.req 0 2 = 3 → s.reqZero true = true → tget s.ctxs (s.req 4 4) = some c →
      let va := s.req 16 8
      let len := s.req 24 8
      let flags := s.req 32 4
      let unit := if flags.testBit 4 then 16777216 else 262144
      flags % 2 = 0 → flags < 32 → rangeOk va len unit = true →
      (s.presentPages (s.req 4 4) va len ≠ [] → exec (.mapPages fr tb) s = .next (s.srqDone 2 [])) ∧
      (s.presentPages (s.req 4 4) va len = [] → fr.length = len / unit → (flags.testBit 4 = true → ∀ f ∈ fr, f % 64 = 0) →
        s.mapRange c.root va flags (flags.testBit 4) fr tb = some u →
          let t := u.setCtx (s.req 4 4) { c with maps := c.maps ++ [{ va := va, len := len, flags := flags }] }
          let pa := match t.leaf (s.req 4 4) va with | some e => leafPa e va | none => 0
          exec (.mapPages fr tb) s =
            .next ((t.releaseHeld (s.req 4 4)).srqDone 0 (leBytes 8 (if flags.testBit 3 then pa else 0))))) ∧
    (∀ c : Ctx, s.req 0 2 = 4 → s.reqZero true = true → tget s.ctxs (s.req 4 4) = some c →
      let va := s.req 16 8
      let len := s.req 24 8
      let pages := s.presentPages (s.req 4 4) va len
      s.frozenIn (s.req 4 4) va len = false → rangeOk va len 262144 = true → s.splitsLarge (s.req 4 4) va len pages = false →
      (c.keeps va len = true → exec .unmapPages s = .next (s.srqDone 4 [])) ∧
      (c.keeps va len = false → ∃ t, exec .unmapPages s = .next t ∧
        let u := (s.flushRange (s.req 4 4) va len).unmapList (s.req 4 4) pages
        t = ((u.modCtx (s.req 4 4) fun c => { c with maps := c.maps.flatMap fun m => m.cut va len }).releaseHeld (s.req 4 4)).srqDone 0 [] ∧
        u.frames = s.frames.filter fun f =>
          !((s.flushRange (s.req 4 4) va len).framesOf (s.req 4 4) pages).contains f)) ∧
    (∀ c : Ctx, s.req 0 2 = 5 → s.reqZero true = true → tget s.ctxs (s.req 4 4) = some c →
      let va := s.req 16 8
      let len := s.req 24 8
      let flags := s.req 32 4
      let pages := s.presentPages (s.req 4 4) va len
      flags % 2 = 0 → flags < 8 → rangeOk va len 262144 = true → s.splitsLarge (s.req 4 4) va len pages = false →
        let set (t : State) (a : Nat) : State := match t.leaf (s.req 4 4) a with
          | some e => t.setLeaf (s.req 4 4) a (e - 2 * (e / 2 % 4) + flags)
          | none => t
        exec .protectPages s = .next ((pages.foldl set s).srqDone 0 []))

/-- R285, R292-R295, R304, R305, R324, R325: boot measures each stage into its register and runs stages whose signature verifies; the service
cores start in privileged mode at stage 2; stage 3 takes the configuration block, with the remap tables of HBM, stage 4 the switch and fabric
tables: routes, target ranges and groups; one that fails halts boot in that stage with the host link down; firmware extends registers 5 to 15 at
run time; SPDM requests are answered, a signature takes the next index and none is left after the last; the alarm zeroises the key store, and
refuses PUF re-derivation. The model's choices here: register 0 too is extended, with the event's digest, and policy entry r-1 is register r's
(log 81); memory is empty after boot (log 5); which SPDM answers go unsigned once no index is left, and when firmware answers (log 82); where
a service core starts (log 102). -/
def Obligations.BootMeasurementAndAlarm : Prop :=
  ∀ (s : State),
    let m (old d : BitVec 512) : BitVec 512 := Config.shake256 (leBytes 64 old.toNat ++ leBytes 64 d.toNat)
    let started : Table ServiceCore := (List.range 8).map fun k =>
      (k, { groups := [(0, { priv := true, a := { st := .run, pc := Config.firmwareEntry k } })] })
    (∀ b : BootInput, b.block.policy = [] →
      ((∀ k, k < 4 → b.sigOk.getD k false = true) → ∃ t, exec (.powerUpBoot b) s = .next t ∧ t.boot = 5 ∧ t.linkUp = true ∧
        t.bootHalted = false ∧ t.alarm = false ∧ t.signIndex = s.signIndex ∧ t.mem = [] ∧ t.memEncrypt = b.block.memEncrypt ∧
        t.spare = b.block.spare ∧ t.hbmSpared = b.block.remap ∧ t.routes = b.fabric.routes ∧ t.ranges = tsetAll [] b.fabric.ranges ∧
        t.mcr = tsetAll [] b.fabric.mcr ∧ t.members = [] ∧ t.services = started ∧
        t.meas = (b.reg0 :: (List.range 4).map fun k => b.digest.getD k 0).map (m 0) ++ List.replicate 11 0) ∧
      ∀ n, n < 4 → (∀ k, k < n → b.sigOk.getD k false = true) → b.sigOk.getD n false = false →
        ∃ t, exec (.powerUpBoot b) s = .next t ∧ t.boot = n + 1 ∧ t.bootHalted = true ∧ t.linkUp = false ∧
          t.services = (if n < 2 then [] else started) ∧ t.meas.getD (n + 1) 0 = 0) ∧
    (∀ r d, 5 ≤ r → r < 16 → s.boot = 5 → s.served = true →
      let t := { s with meas := setAt s.meas r (m (s.meas.getD r 0) d) }
      (s.policy[r - 1]? = none → exec (.measurementExtend r d) s = .next t) ∧
      ∀ p, s.policy[r - 1]? = some p → t.meas.getD r 0 ≠ p → exec (.measurementExtend r d) s = .next t.raiseAlarm) ∧
    (∀ r d, r < 5 → exec (.measurementExtend r d) s = .next s) ∧
    (3 ≤ s.boot → s.served = true →
      exec .getVersion s = .next { s with spdm := .version } ∧ exec .getCapabilities s = .next { s with spdm := .capabilities } ∧
      exec .negotiateAlgorithms s = .next { s with spdm := .algorithms } ∧
      exec .getDigests s = .next { s with spdm := .digests Config.certDigest } ∧
      exec .getCertificate s = .next { s with spdm := .certificate } ∧
      exec .spdmUnsupportedRequest s = .next { s with spdm := .unsupported } ∧
      ∀ nonce, (s.signIndex < 2 ^ 40 → ∃ sig,
          let t := { s with signIndex := s.signIndex + 1, spdm := .signed s.signIndex nonce s.meas sig }
          exec (.challenge nonce) s = .next t ∧ exec (.getMeasurements nonce) s = .next t) ∧
        (2 ^ 40 ≤ s.signIndex → exec (.challenge nonce) s = .next { s with spdm := .error } ∧
          exec (.getMeasurements nonce) s = .next { s with spdm := .unsigned s.meas })) ∧
    (exec .tamperMeshBreach s = .next s.raiseAlarm ∧ exec .voltageClockGlitch s = .next s.raiseAlarm ∧
      s.raiseAlarm.alarm = true ∧ s.raiseAlarm.pufRefused = true ∧ s.raiseAlarm.secrets = false ∧
      (∀ l ∈ s.raiseAlarm.links, l.2.key = 0 ∧ l.2.keyed = false) ∧ (s.boot < 5 → s.raiseAlarm.bootHalted = true) ∧
      ∀ k, s.evict.step = k → 1 ≤ k → k ≤ 3 → s.raiseAlarm.evict = .failed k)

/-- R296-R299, R285: islands, failing parts, the eviction handshake and the management bus. An idle core island's clock stops, and starts
again; a withheld cycle marks the island's cores, at most one cycle in two; the work-groups on a failed part end, the die's spare takes a
failed cluster's number; eviction goes PREPARE, COPY, DRAIN, RELEASE, and LATCH_OK rises at RELEASE alone; the EEPROM holds serial, part
name, zeros, certificate digest and eviction record. The model's choices here: the layout of the eviction record (log 83), and what a second
failed cluster of a die, or a part that holds no work-group, loses (log 84). -/
def Obligations.ServicesOfThePackage : Prop :=
  ∀ (s : State),
    (∀ i, i < 52 → s.islandIdle i = true → i ∉ s.stopped → exec (.islandClockStop i) s = .next { s with stopped := i :: s.stopped }) ∧
    (∀ i, s.islandIdle i = false → exec (.islandClockStop i) s = .next s) ∧
    (∀ i, ∃ t, exec (.islandClockStart i) s = .next t ∧ t = { s with stopped := t.stopped } ∧ i ∉ t.stopped ∧
      ∀ j, j ≠ i → (j ∈ t.stopped ↔ j ∈ s.stopped)) ∧
    (∀ i mv, i < 64 → exec (.islandVoltageSet i mv) s = .next { s with volts := tset s.volts i mv }) ∧
    (∀ i, i < 52 → ∃ t, exec (.issueCycleWithhold i) s = .next t ∧ t = { s with cores := t.cores } ∧
      ∀ c, t.core c = if c < 3200 ∧ islandOf c = i ∧ (s.core c).rested = false then { s.core c with withheld := true } else s.core c) ∧
    (∀ die clus, die < 4 → clus < 25 → ∃ t, exec (.clusterFailure die clus) s = .next t ∧
      (s.wgs = [] → t = if die ∈ s.replaced then { s with lost := (25 * die + clus) :: s.lost }
        else { s with replaced := die :: s.replaced }) ∧
      ∀ no w, s.wgs = [(no, w)] → w.killed = false → clusterOf w.core = 25 * die + clus → tget t.wgs no = none ∨ (t.wg no).killed = true) ∧
    (∀ stack chan row, stack < 8 → chan < 32 →
      exec (.hbmFailure stack chan row) s = .next { s with hbmSpared := (stack, chan, row) :: s.hbmSpared }) ∧
    (∀ port lane, exec (.serdesLaneFailure port lane) s = .next { s with lanesSpared := (port, lane) :: s.lanesSpared }) ∧
    (∀ dev, dev ≠ s.chip → ∃ t, exec (.packageFailure dev 0) s = .next t ∧ t = { s with unrouted := t.unrouted } ∧
      ∀ d, d ∈ t.unrouted ↔ d = dev ∨ d ∈ s.unrouted) ∧
    (∀ dev n, n ≠ 0 → ∃ t, exec (.packageFailure dev n) s = .next t ∧ t = { s with unrouted := t.unrouted } ∧
      ∀ d, d ∈ t.unrouted ↔ d ≠ dev ∧ d ∈ s.unrouted) ∧
    (∀ cl core, cl < 2 → core < 4 → 4 * cl + core ∉ s.svcDown → exec (.serviceCoreFailure cl core) s =
      .next { s with services := tset s.services (4 * cl + core) {}, svcDown := (4 * cl + core) :: s.svcDown
                     mgmt := s.mgmt ++ [4 * cl + core] }) ∧
    (s.evict = .idle → s.served = false → ∀ nb sb, exec (.evictionPrepare nb sb) s = .next s) ∧
    (s.evict = .idle → s.served = true → ∀ nb sb, s.ctxs = [] → exec (.evictionPrepare nb sb) s =
      .next { s with evict := .prepare, evNeighbour := nb, evStandby := sb, latchOk := false }) ∧
    (s.evict = .idle → s.served = true → ∀ nb sb, ∃ t, exec (.evictionPrepare nb sb) s = .next t ∧ t.latchOk = false) ∧
    (s.evict = .prepare → s.allStopped = true → exec .evictionCopy s = .next { s with evict := .copy }) ∧
    (s.evict = .prepare → s.allStopped = false → exec .evictionCopy s = .next s) ∧
    (s.evict = .copy → ∃ t, exec .evictionDrain s = .next t ∧ t.evict = .drain ∧ t.planes = []) ∧
    (∀ time : Dword,
      let note (k : Nat) : List Host.Cell := setCells s.eeprom 160
        (takePad 96 (leBytes 8 time.toNat ++ leBytes 4 s.evNeighbour ++ leBytes 4 s.evStandby ++ leBytes 4 k))
      (s.evict = .drain → exec (.evictionRelease time) s = .next { s with eeprom := note 0, evict := .idle, latchOk := true }) ∧
      ∀ k, (s.evict = .prepare ∧ k = 1 ∨ s.evict = .copy ∧ k = 2 ∨ s.evict = .drain ∧ k = 3 ∨ s.evict = .failed k ∧ k ≠ 0) →
        exec (.evictionTimeout time) s = .next { s with eeprom := note k, evict := .idle, latchOk := false }) ∧
    (∀ ctx, exec (.mgmtRequest ctx) s = .next (s.errRecord ctx 2 0x5F 0 0 0 0)) ∧
    ∀ a : BitVec 8, ∃ v, exec (.identityEepromRead a) s = .next { s with eepromOut := some v } ∧
      (a.toNat < 32 ∨ 160 ≤ a.toNat → v = cell s.eeprom a.toNat) ∧ (64 ≤ a.toNat → a.toNat < 96 → v = 0) ∧
      (32 ≤ a.toNat → a.toNat < 64 → v = [0x47, 0x52, 0x56, 0x2D, 0x53, 0x39].getD (a.toNat - 32) 0) ∧
      (96 ≤ a.toNat → a.toNat < 160 → v = BitVec.ofNat 8 (Config.certDigest.toNat / 256 ^ (a.toNat - 96)))

/-- R301, R302, R295: a plane that is lost leaves the list of live planes, and what was outstanding on it is sent again on a live one, at once where
that one's key may carry it and else once it may; with none left nothing is outstanding and the card of every outstanding packet ends with XTMO,
which its halted channel holds as CAUSE with STATE 2; it returns once its link is keyed; an authenticated key exchange keys the link, a failed one
raises the alarm; a new key goes on from the flits counted so far; a frame with the tag of its text under key and nonce is taken, one with another
tag is discarded and awaits its resend, and none comes under a key that has carried 2^40 flits. R305, R310, R313, R314: a reply, which comes in a
frame, ends its packet: it is no longer outstanding, its units return to its target, a marked reply lowers the target's CAP by an eighth of it,
rounded up, to 16 at the least, and the 64th unmarked one since the last rise raises it by 16, to 4,096 at the most; a refusal halts the card's
channel with its cause; a switch that holds no route to a device, or whose device has failed, refuses the packet; a packet that a switch drops is
counted once its notice arrives, and sent again, encrypted under the next nonce, when its timer runs out; the eighth drop completes the card with
XTMO. The model's choices here: a marked reply leaves the count of unmarked ones as it is (log 66), and one frame of 8 flits carries each packet,
reply or notice (log 85). -/
def Obligations.PlanesLinksAndReplies : Prop :=
  (∀ (s : State) (plane : Nat),
      (∃ t : State, exec (.planeLoss plane) s = .next t ∧ t.planes = s.planes.filter (fun x => x != plane) ∧ (t.link plane).keyed = false ∧
        (t.planes ≠ [] → t.pkts.length = s.pkts.length ∧ ∀ (k : Nat) (o : OutPkt), s.pkts[k]? = some o →
          let sent := { o with plane := (t.planeFor o.ra).getD plane, dropped := false, noticed := false }
          (o.plane ≠ plane → t.pkts[k]? = some o) ∧
          (o.plane = plane → t.pkts[k]? = some sent ∨ t.pkts[k]? = some { o with dropped := true, noticed := true }) ∧
          (o.plane = plane → (∀ q ∈ t.planes, (s.link q).sent + 8 * s.pkts.length ≤ (s.link q).sentAt + 2 ^ 40) →
            t.pkts[k]? = some sent)) ∧
        (t.planes = [] → t.pkts = [] ∧ ∀ o ∈ s.pkts, ∀ c, s.cardOf o = some c →
          let x := t.chan o.cl o.ch
          x.halted = true ∧ x.queue = [] ∧ x.cause = 0x52 ∧ x.last = 0x52 ∧ x.status.toNat / 65536 = 2 * 16384 + 0x52)) ∧
      (plane < 36 → (s.link plane).keyed = true → s.alarm = false → ∃ t, exec (.planeReturn plane) s = .next t ∧
        t = { s with planes := t.planes } ∧ (∀ x, x ∈ t.planes ↔ x = plane ∨ x ∈ s.planes) ∧
        (s.planes.Pairwise (· < ·) → t.planes.Pairwise (· < ·))) ∧
      (plane < 36 → s.alarm = false → ∀ key : BitVec 256,
        exec (.linkKeyExchange plane key true) s = .next (s.setLink plane { key := key, keyed := true }) ∧
        ∃ t, exec (.linkKeyExchange plane key false) s = .next t ∧ t.alarm = true ∧ plane ∉ t.planes ∧ (t.link plane).keyed = false) ∧
      let l := s.link plane
      let nonce : BitVec 96 := Config.linkId s.chip plane ++ BitVec.ofNat 64 l.received
      (l.keyed = true → ∀ key : BitVec 256,
        exec (.linkRekey plane key) s = .next (s.setLink plane { l with key := key, sentAt := l.sent, receivedAt := l.received })) ∧
      (l.keyed = true → l.received + 8 ≤ l.receivedAt + 2 ^ 40 → ∀ frame tag,
        (tag = Config.gcmTag l.key nonce frame → exec (.linkFrameReceive plane ⟨frame, tag⟩) s = .next (s.setLink plane { l with
          received := l.received + 8, bad := l.bad - 1, held := l.held + 1, text := Config.gcmText l.key nonce frame })) ∧
        (tag ≠ Config.gcmTag l.key nonce frame → exec (.linkFrameReceive plane ⟨frame, tag⟩) s =
          .next (s.setLink plane { l with bad := l.bad + 1 }))) ∧
      (l.keyed = false ∨ l.receivedAt + 2 ^ 40 < l.received + 8 → ∀ f, exec (.linkFrameReceive plane f) s = .next s)) ∧
  (∀ (s : State) (k : Nat) (o : OutPkt), s.pkts[k]? = some o →
      let lost (st : ReplySt) : Reply := { st := st, data := [], mark := false, flags := 0, gone := [] }
      let from_ := s.link o.plane
      let taken := s.setLink o.plane { from_ with held := from_.held - 1 }
      (o.dropped = true ∨ from_.held = 0 → ∀ r, exec (.replyArrive k r) s = .next s) ∧
      (∀ dev, o.dropped = false → from_.held ≠ 0 → o.devs = [dev] → s.cardOf o = none → ∀ r,
        let a := tgetD s.allow dev {}
        let held : Allow := { a with out := a.out - o.units }
        exec (.replyArrive k r) s = .next { taken with
          pkts := dropAt s.pkts k
          allow := tset (tset s.allow dev held) dev
            (if r.mark then { held with cap := max 16 (a.cap - (a.cap + 7) / 8) }
             else if a.unmarked = 63 then { held with cap := min 4096 (a.cap + 16), unmarked := 0 }
             else { held with unmarked := a.unmarked + 1 }) }) ∧
      (o.dropped = false → from_.held ≠ 0 → ∀ c, s.cardOf o = some c → ∀ r cause,
        (r.st, cause) ∈ [(ReplySt.denied, (0x51 : BitVec 7)), (.xseq, Code.XSEQ), (.poison, Code.XPOISON), (.absent, Code.PEERABS)] →
          ∃ t, exec (.replyArrive k r) s = .next t ∧ (t.chan o.cl o.ch).halted = true ∧ (t.chan o.cl o.ch).cause = cause ∧
            (t.chan o.cl o.ch).queue = [] ∧ t.pkts = dropAt s.pkts k) ∧
      (o.pkt.dst < 576 → (o.pkt.dst ∉ s.routes ∨ o.pkt.dst ∈ s.unrouted) →
        exec (.switchRouteRefusal k) s = exec (.replyArrive k (lost .denied)) s) ∧
      ((576 ≤ o.pkt.dst ∨ o.pkt.dst ∈ s.routes ∧ o.pkt.dst ∉ s.unrouted) → exec (.switchRouteRefusal k) s = .next s) ∧
      (o.pkt.dst < 576 ∨ s.seqTurn o.pkt ≠ .again →
        exec (.switchQueueTimeout k) s = .next { s with pkts := setAt s.pkts k { o with dropped := true } }) ∧
      (576 ≤ o.pkt.dst → s.seqTurn o.pkt = .again → exec (.switchQueueTimeout k) s = .next s) ∧
      (o.dropped = true → o.noticed = false → from_.held ≠ 0 → ∃ t, exec (.dropNoticeArrive k) s = .next t ∧
        (o.drops < 7 → t.pkts = setAt s.pkts k { o with drops := o.drops + 1, noticed := true } ∧
          (t.chan o.cl o.ch).drops = if (s.chan o.cl o.ch).drops = 255 then 255 else (s.chan o.cl o.ch).drops + 1) ∧
        (7 ≤ o.drops → t.pkts = dropAt s.pkts k ∧ ∀ c, s.cardOf o = some c →
          (t.chan o.cl o.ch).halted = true ∧ (t.chan o.cl o.ch).cause = 0x52)) ∧
      (o.noticed = true → ∀ plane, s.planeFor o.ra = some plane →
        let l := s.link plane
        let nonce : BitVec 96 := Config.linkId s.chip plane ++ BitVec.ofNat 64 l.sent
        let text := Config.gcmText l.key nonce (Config.packetFlits o.pkt)
        let sent : Link := { l with sent := l.sent + 8, out := some ⟨text, Config.gcmTag l.key nonce text⟩ }
        (l.sent + 8 ≤ l.sentAt + 2 ^ 40 → exec (.dropResendTimer k) s = .next { s.setLink plane sent with
          pkts := setAt s.pkts k { o with dropped := false, noticed := false, plane := plane } }) ∧
        (l.sentAt + 2 ^ 40 < l.sent + 8 → exec (.dropResendTimer k) s = .next s)))

/-- R295, R302, R305, R309, R312, R326: a request packet comes in a frame that has passed its tag; one whose range check fails is refused and
counts as not performed; the next expected number is performed at its bytes, NEXT moves on, and the reply leaves, encrypted, on the plane that
the packet came by, where its key may carry it; a number performed before writes nothing and is answered again; one 256 or more ahead of NEXT
is answered XSEQ; after the alarm none is taken. An MCR packet of another member writes this package's aperture (XMST) or reads it (XMLR), once
for each number, and an aperture that is absent, or refuses, answers so. R324-R328: on a packet of this package whose members all contribute,
in an order that is not fixed, the reply that the contributions give reaches the channel, once this package's aperture has taken its own part;
one that a switch has dropped is not performed. The model's choice: a repeated read reads again, and a repeated number is answered before
the range check (log 66). -/
def Obligations.RequestPacketsArePerformedOnce : Prop :=
  (∀ (s : State) (p : Packet),
      let key := 65536 * p.src + p.tctx
      let x := tgetD s.recvSeq key {}
      let ahead := (p.seq - x.next).toNat
      let reply (st : ReplySt) (data : List Byte) : Reply := { st := st, data := data, mark := false, flags := 0, gone := [] }
      let l := s.link p.plane
      let after (r : Reply) : Link :=
        let nonce : BitVec 96 := Config.linkId s.chip p.plane ++ BitVec.ofNat 64 l.sent
        let text := Config.gcmText l.key nonce (Config.replyFlits p r)
        { l with held := l.held - 1, sent := l.sent + 8, out := some ⟨text, Config.gcmTag l.key nonce text⟩ }
      let answer (r : Reply) : State := { s.setLink p.plane (after r) with replies := (p.src, p.seq, r) :: s.replies }
      let moved (t : State) (r : Reply) : Prop := t.recvSeq = tset s.recvSeq key { next := x.next + 1, map := 0 } ∧
        t.replies = (p.src, p.seq, r) :: s.replies ∧ t.link p.plane = after r
      (s.alarm = true ∨ l.held = 0 → exec (.requestPacketArrive p) s = .next s) ∧
      (p.dst = s.chip → p.dst < 576 → s.alarm = false → l.held ≠ 0 → l.sent + 8 ≤ l.sentAt + 2 ^ 40 →
      (256 ≤ ahead → ahead < 2147483648 → exec (.requestPacketArrive p) s = .next (answer (reply .xseq []))) ∧
      ((2147483648 ≤ ahead ∨ ahead < 256 ∧ x.map.getLsbD ahead = true) →
        let bad := (s.eccCheck (paGranules p.addr p.len)).isSome
        ∃ r, exec (.requestPacketArrive p) s = .next (answer r) ∧
          (p.kind = .read → r = if bad then reply .poison [] else reply .ok (cells s.mem p.addr p.len)) ∧ (p.kind ≠ .read → r.st = .ok) ∧
          ∀ e, nonIdem p.kind = true →
            s.rcache.find? (fun y => y.src == p.src && y.tctx == p.tctx && y.seq == p.seq) = some e → r.data = e.data) ∧
      (ahead < 256 → x.map.getLsbD ahead = false → s.inRanges p = false ∨ s.ctxLive p.tctx = false →
        exec (.requestPacketArrive p) s = .next (answer (reply .denied []))) ∧
      (ahead = 0 → x.map = 0 → s.inRanges p = true → s.ctxLive p.tctx = true → s.poison = [] → s.failed = [] → s.paFrozen p.tctx p.addr = false →
        p.tc = none → (∀ k, fld (tgetD (s.ctx p.tctx).reg k 0).toNat 16 11 = 0) →
        (p.kind = .write → ∃ t, exec (.requestPacketArrive p) s = .next t ∧ t.mem = setCells s.mem p.addr p.data ∧ moved t (reply .ok [])) ∧
        (p.kind = .read → ∃ t, exec (.requestPacketArrive p) s = .next t ∧ t.mem = s.mem ∧ moved t (reply .ok (cells s.mem p.addr p.len))) ∧
        ∀ op : BitVec 4, p.kind = .atom op → op.toNat ≤ 11 → ∃ t, exec (.requestPacketArrive p) s = .next t ∧
          let o := atomOp op.toNat
          let ws := wordsOf p.data
          t.mem = setCells s.mem p.addr (o.apply (cells s.mem p.addr o.size) (if o.size = 8 then ws else [ws.getD 0 0, ws.getD 2 0])) ∧
            moved t (reply .ok (cells s.mem p.addr o.size))))) ∧
  (∀ (s : State), s.alarm = true → ∀ turn, exec (.switchMcrPacket turn) s = .next s) ∧
  (∀ (s : State), s.alarm = false →
      (∀ p : Packet, (s.link p.plane).held ≠ 0 → (s.link p.plane).sent + 8 ≤ (s.link p.plane).sentAt + 2 ^ 40 →
        let l := s.link p.plane
        let after (r : Reply) : Link :=
          let nonce : BitVec 96 := Config.linkId s.chip p.plane ++ BitVec.ofNat 64 l.sent
          let text := Config.gcmText l.key nonce (Config.replyFlits p r)
          { l with held := l.held - 1, sent := l.sent + 8, out := some ⟨text, Config.gcmTag l.key nonce text⟩ }
        let answer (r : Reply) : State := { s.setLink p.plane (after r) with replies := (p.src, p.seq, r) :: s.replies }
        let bare (st : ReplySt) (data : List Byte) : Reply := { st := st, data := data, mark := false, flags := 0, gone := [] }
        let r := tgetD s.members p.group 0
        let va := memBase r + p.addr
        (s.seqTurn p = .far → exec (.switchMcrPacket (.member p)) s = .next (answer (bare .xseq []))) ∧
        (s.seqTurn p = .again → p.kind = .mcrWrite ∨ p.len = 0 → exec (.switchMcrPacket (.member p)) s = .next (answer (bare .ok []))) ∧
        (s.seqTurn p ≠ .far → (s.seqTurn p = .again → p.kind ≠ .mcrWrite ∧ p.len ≠ 0) →
          (memV r = false → exec (.switchMcrPacket (.member p)) s = .next (answer (bare .absent []))) ∧
          (memV r = true → s.ctxLive (memCtx r) = true → 0 < p.len → canonical va = false →
            exec (.switchMcrPacket (.member p)) s = .next (answer (bare .denied []))) ∧
          ∀ e, memV r = true → s.ctxLive (memCtx r) = true → 0 < p.len → canonical va = true → canonical (va + p.len - 1) = true →
            s.window (memCtx r) va = none → s.leaf (memCtx r) va = some e → leafExport e = true → s.poison = [] → s.failed = [] →
            p.tc = none → (∀ k, fld (tgetD (s.ctx (memCtx r)).reg k 0).toNat 16 11 = 0) →
              (∀ op, p.kind = .mcrRead op → ∃ t, exec (.switchMcrPacket (.member p)) s = .next t ∧ t.mem = s.mem ∧
                t.replies = (p.src, p.seq, bare .ok (s.homeBytes (memCtx r) va p.len)) :: s.replies) ∧
              (∀ d, s.seqTurn p = .fresh d → p.kind = .mcrWrite → leafW e = true → leafFrz e = false → va % 128 + p.len ≤ 128 →
                p.data.length = p.len → ∃ t, exec (.switchMcrPacket (.member p)) s = .next t ∧
                  t.mem = setCells s.mem (leafPa e (va / 128 * 128) + va % 128) p.data ∧ t.recvSeq = (s.numbered p d).recvSeq ∧
                  t.replies = (p.src, p.seq, bare .ok []) :: s.replies))) ∧
      ∀ (k : Nat) (o : OutPkt) (turn : Turn), s.pkts[k]? = some o → 576 ≤ o.pkt.dst → turn.lost = false →
        (o.dropped = true ∨ (s.link o.plane).held = 0 → exec (.switchMcrPacket (.own k turn)) s = .next s) ∧
        (o.dropped = false → (s.link o.plane).held ≠ 0 → (turn.order.map s.contribDev).Nodup →
          (∀ d, d ∈ turn.order.map s.contribDev ↔ d ∈ mcrMembers (tgetD s.mcr o.pkt.group 0)) →
          (s.seqTurn o.pkt = .far → exec (.switchMcrPacket (.own k turn)) s =
            exec (.replyArrive k { st := .xseq, data := [], mark := turn.mark, flags := 0, gone := [] }) s) ∧
          ∀ u, s.seqTurn o.pkt ≠ .far → 0 < o.pkt.len → s.mcrTokens o.pkt = some u →
            let lead := ((s.cardOf o).map fun c => c.lead o.pkt).getD 0
            let v := (u.mcrSelf o.pkt).foundIf o.pkt
            exec (.switchMcrPacket (.own k turn)) s =
              exec (.replyArrive k { u.mcrReply o.pkt lead turn.order with mark := turn.mark }) { v with free := v.free + 16 }))

/-- R295, R334-R338: a collective goes, in the order of its group's tickets, through its entry step, the opening rendezvous, its card steps,
its exit step and the closing rendezvous. The entry step and a card read line by line, and write line by line once all is read and computed. A
card is posted where the allowance covers it towards every member; its packets go to the switch in any order, each in a frame of its plane, and
each reply gives its units back. A member found absent, this package's own included, a digest that differs or an entry fault skips the steps,
and so does the alarm; the closing rendezvous gives the turn to the next ticket and writes STATUS and ABSENT. R104, R115: ENGINE_LOST takes
away what the engine held, and ends a work-group that had posted to it. The model's choices here: reads and writes are separate steps (log 70),
and the closing waits for the thaw of a frozen block page (log 34). -/
def Obligations.CollectivesRunInTurn : Prop :=
  (∀ (s : State) (ctx k : Nat) (c : Ctx) (x : Coll), tget s.ctxs ctx = some c → c.colls[k]? = some x →
      let b := blockOf x.blk
      let members := mcrMembers (tgetD s.mcr x.group 0)
      let becomes (y : Coll) : State := s.setCtx ctx { c with colls := setAt c.colls k y }
      (x.phase = .entry → x.ticket ≠ tgetD c.collDone x.group 0 → exec (.collEntryStep ctx k) s = .next s) ∧
      (x.phase = .entry → x.ticket = tgetD c.collDone x.group 0 → b.ent = false →
        exec (.collEntryStep ctx k) s = .next (becomes { x with phase := .opening })) ∧
      (x.phase = .entry → x.ticket = tgetD c.collDone x.group 0 → b.ent = true →
        let place := s.apertVa x.group b.soff
        (∀ t bs, x.buf = none → x.got.length < 4 * b.count → s.engReadNext 1 ctx 0 false b.xin (4 * b.count) x.got.length = .ok t bs →
          exec (.collEntryStep ctx k) s = .next (t.modColl ctx k fun _ => { x with got := x.got ++ bs })) ∧
        (∀ out, x.buf = none → 4 * b.count ≤ x.got.length → b.enter x.got = .ok out →
          exec (.collEntryStep ctx k) s = .next (becomes { x with got := [], buf := some out })) ∧
        (∀ cause, x.buf = none → 4 * b.count ≤ x.got.length → b.enter x.got = .error cause → exec (.collEntryStep ctx k) s =
          .next (becomes { x with phase := .opening, got := [], took := 0, buf := none, entryCause := cause })) ∧
        ∀ bs fl t none_, x.buf = some (bs, fl) → s.engWriteNext 1 ctx 0 false place bs x.took = .ok t none_ →
          let n := x.took + pieceAt place bs.length x.took
          exec (.collEntryStep ctx k) s = .next (t.modColl ctx k fun _ => if n < bs.length then { x with took := n }
            else { x with phase := .opening, took := 0, buf := none, flags := x.flags ||| fl.setWidth 7 })) ∧
      (s.alarm = true → x.phase = .opening → ∀ others, exec (.openingRendezvous ctx k others) s = .next (becomes (x.failed Code.XCRYPT))) ∧
      (s.alarm = false → x.phase = .opening → s.planes = [] → ∀ others, exec (.openingRendezvous ctx k others) s = .next s) ∧
      (s.alarm = false → x.phase = .opening → s.planes ≠ [] → ∀ others,
        (others.map memberDev).Nodup → (∀ d, d ∈ others.map memberDev ↔ d ∈ members ∧ d ≠ s.chip) →
        let here := memV (tgetD s.members x.group 0) = true ∧ s.ctxLive (memCtx (tgetD s.members x.group 0)) = true
        let all := here ∧ ∀ d, MemberState.absent d ∉ others
        ∃ y, exec (.openingRendezvous ctx k others) s = .next (becomes y) ∧
          (¬all → y.phase = .closing ∧ y.cause = Code.PEERABS ∧ y.todo = []) ∧
          (all → (∃ d g f, MemberState.arrived d g f ∈ others ∧ g ≠ b.digest) → y.phase = .closing ∧ y.cause = Code.COLLPB ∧ y.todo = []) ∧
          (all → (∀ d g f, MemberState.arrived d g f ∈ others → g = b.digest ∧ f = 0) → x.entryCause = 0 →
            y.cause = x.cause ∧ y.todo = b.steps members.length (members.findIdx fun d => d == s.chip) s.chip ∧
            (y.todo ≠ [] → y.phase = .steps) ∧
            (y.todo = [] → y.phase = if b.xit = true ∧ x.cause = 0 then .exit else .closing))) ∧
      (x.phase = .steps → s.alarm = true → ∀ card rest, x.todo = card :: rest → ∀ turns,
        exec (.collCardStep ctx k turns) s = .next ((s.uncharge x.devs x.charged).modColl ctx k fun _ => x.failed Code.XCRYPT)) ∧
      (x.phase = .steps → s.alarm = false → ∀ write src dst n rest, x.todo = (write, src, dst, n) :: rest → ∀ turns,
        let step := exec (.collCardStep ctx k turns) s
        let at_ := if write then dst else src
        let next : Coll := if x.fault ≠ 0 then x.failed x.fault else Coll.after { x with
          todo := rest, got := [], took := 0, buf := none, posted := false, charged := 0, devs := [], left := [], parts := [] }
        let ended (t : State) : State := ((t.uncharge x.devs x.charged).modColl ctx k fun _ => next).collExit ctx k
        (x.posted = false →
          let units := min (unitsTo n) 64
          (s.coversAll members units = false → step = .next s) ∧
          (s.coversAll members units = true → step = .next ((s.charge members units).modColl ctx k fun _ => { x with
            posted := true, charged := units, devs := members, left := stepPackets at_ n }))) ∧
        (x.posted = true → write = true → x.got.length < n → ∀ t bs,
          s.engReadNext 1 ctx 0 false (s.apertVa x.group src) n x.got.length = .ok t bs →
            step = .next (t.modColl ctx k fun _ => { x with got := x.got ++ bs })) ∧
        (x.posted = true → (write = true → n ≤ x.got.length) → ∀ turn others p, turns = turn :: others → x.left[turn.at_]? = some p →
          (x.charged < pieceUnits p → ∀ units, units = min 16 (x.unitsLeft - x.charged) → s.coversAll x.devs units = true →
            step = .next ((s.charge x.devs units).modColl ctx k fun _ => { x with charged := x.charged + units })) ∧
          (pieceUnits p ≤ x.charged → s.turnOk x.group turn.order = true → turn.lost = false → ∀ plane t u v w r,
            let q := s.takeSeq (576 + x.group) ctx
            let pkt := s.stepPacket ctx x write (at_ + p.1) p.2 (if write then part x.got p.1 p.2 else []) q.1
            s.planeFor (at_ + p.1) = some plane → q.2.sendFrame plane (Config.packetFlits pkt) = some t →
            t.mcrTurn pkt 0 turn = some (u, r) → u.takeFrame plane = some v → w = (v.uncharge x.devs (pieceUnits p)).replied x.devs r.mark →
              step = .next (w.modColl ctx k fun _ =>
                x.tookReply turn.at_ (if write then p.1 else p.1 / b.es * b.er) p r))) ∧
        (x.posted = true → (write = true → n ≤ x.got.length) → x.left = [] → write = true ∨ x.fault ≠ 0 → step = .next (ended s)) ∧
        (x.posted = true → write = false → x.left = [] → x.fault = 0 →
          let bs := x.parts.flatMap fun p => p.2
          let place := s.apertVa x.group dst
          (x.took = 0 → s.rangeRefuses ctx 0 false place bs.length = none) → ∀ t none_,
            s.engWriteNext 1 ctx 0 false place bs x.took = .ok t none_ →
              let m := x.took + pieceAt place bs.length x.took
              step = .next (if m < bs.length then t.modColl ctx k fun _ => { x with took := m } else ended t))) ∧
      (x.phase = .closing → s.frz ctx x.va = true → ∀ gone, exec (.closingRendezvous ctx k gone) s = .next s) ∧
      (x.phase = .closing → s.frz ctx x.va = false → (∀ r, fld (tgetD c.reg r 0).toNat 16 11 = 0) → ∀ gone, ∃ t,
        exec (.closingRendezvous ctx k gone) s = .next t ∧
        let u := s.setCtx ctx { c with colls := dropAt c.colls k, collDone := tset c.collDone x.group (tgetD c.collDone x.group 0 + 1) }
        let status := 2147483648 + x.cause.toNat * 16777216 + x.flags.toNat
        let mask := (x.gone ||| devMask (members.filter gone.contains)).toNat
        t = ((u.put ctx (x.va + 48) (leBytes 4 status) none).put ctx (x.va + 56) (leBytes 72 mask) none).signal ctx x.cl x.compl.toNat .sys)) ∧
  (∀ (s : State),
      (∀ core, ∃ t, exec (.engineLost (.matrix core)) s = .next t ∧ (t.core core).mq = [] ∧
        ∀ o ∈ (s.core core).mq, ∀ w, tget s.wgs (s.grp o.grp).wg = some w → (t.wg (s.grp o.grp).wg).killed = true) ∧
      (∀ cl, ∃ t, exec (.engineLost (.copy cl)) s = .next t ∧
        (∀ ch ∈ (t.cluster cl).chans, ch.2.queue = [] ∧ ch.2.fired = []) ∧
        ∀ ch ∈ (s.cluster cl).chans, ∀ c ∈ ch.2.queue, ∀ no w, c.wg = some no → tget s.wgs no = some w → (t.wg no).killed = true) ∧
      ∀ io, ∃ t, exec (.engineLost (.sequencer io)) s = .next t ∧ (∀ c ∈ t.ctxs, ∀ x ∈ c.2.colls, x.io ≠ io) ∧
        ∀ c ∈ s.ctxs, ∀ x ∈ c.2.colls, x.io = io → ∀ w, tget s.wgs x.wg = some w → (t.wg x.wg).killed = true)

/-- R26-R29, R43, R46: the bundle that a slot finds at its program counter is one, two or three words, in order, each decoded from the four
bytes at its word index, the lowest byte first; every word but the last has C = 1, no word in packet slot 2 has it, at most one word is of
class S, one of M, one of X and two of V and VB together, one of them VB, and every word passes its checks: no cause of the word itself, a
LIT before it included, and none of its operands' encodings. R122, R296: a core whose clock stands issues nothing, nor does
one whose cycle is withheld, which may not be withheld in its next cycle; otherwise the one group of a core, whose slot has a bundle to
issue and finds its pipes free, issues it. -/
def Obligations.IssueCyclesChooseBundles : Prop :=
  (∀ (s : State) (g : Nat) (b : Bool) (pos : Dword) (ws : List DWord), s.bundle g b pos = .ok ws →
      1 ≤ ws.length ∧ pos.toNat % 3 + ws.length ≤ 3 ∧
        (∀ j d, ws[j]? = some d → ∃ w, s.fetchWord (s.ctxOf g) (pos.toNat + j) = .ok w ∧ w = d.raw ∧ decode w = .ok d ∧
          (d.c = true ↔ j + 1 < ws.length) ∧ d.instr.kindCause = none ∧
          s.issueCause g b (if j = 0 then none else (ws[j - 1]?).bind fun e => litOf e.raw.toNat) d.raw d.instr = none) ∧
        (ws.filter fun d => pipeOf d.raw.toNat == .v || pipeOf d.raw.toNat == .vb).length ≤ 2 ∧
        ∀ p, (ws.filter fun d => pipeOf d.raw.toNat == p).length ≤ (if p = .v then 2 else if p = .none then 3 else 1)) ∧
  (∀ (s : State) (core : Nat), core < 3200 →
      (s.clocked core = false → ∃ t, exec (.issueCycle core) s = .next t ∧ t.issued = s.issued ∧ (t.core core).cycles = t.cycles ∧
        t.cycles = if (s.core core).cycles < s.cycles then s.cycles else s.cycles + 1) ∧
      (s.clocked core = true → (s.core core).withheld = true → ∃ t, exec (.issueCycle core) s = .next t ∧ t.issued = s.issued ∧
        (t.core core).withheld = false ∧ (t.core core).rested = true) ∧
      (s.clocked core = true → (s.core core).withheld = false → ∀ k b i ps,
        let u := (((s.tick core).modCore core fun c => { c with rested := false }).eachSlot core State.tryWake).eachSlot core State.cross
        let g := 32 * core + k
        let lv := (u.wg (u.grp g).wg).prio
        (u.groups.map Prod.fst).filter (fun h => coreOf h == core) = [g] → k < 32 → lv < 4 → ((u.core core).order lv).Nodup →
        (∀ l, ∀ j ∈ (u.core core).order l, j < 32) → k ∈ (u.core core).order lv → b = decide ((u.grp g).b.last < (u.grp g).a.last) →
        u.pickSlot [] g b = .issue i ps →
          ∃ t, exec (.issueCycle core) s = .next t ∧
            t.issued = u.issued ++ [{ i with serial := if i.serial = 0 then u.nextId else i.serial }]))

/-- R27, R28, R122: a step does what the event at the head of the agenda does, and then runs the bundles that an issue cycle has chosen. Where
it has chosen one bundle of one word, the step is `exec` of the decoded instruction with the cursor at that word, then the end of the
bundle; a word after LIT keeps its V24, every other word drops it. An instruction word that stands on the agenda is passed over (log 1). -/
def Obligations.StepRunsTheDecodedInstruction : Prop :=
  ∀ (s t : State) (e : Instr) (rest : List Instr), s.agenda = e :: rest →
    (e.isWord = true → s.issued = [] → step s = .next { s with agenda := rest }) ∧
    (e.isWord = false → exec e { s with agenda := rest } = .next t →
      (t.issued = [] → step s = .next t) ∧
      ∀ (i : Issue) (d : DWord), t.issued = [i] → i.words = [d] → (t.grp i.grp).dead = false →
        let c : Cursor := { i.cursor with pos := i.pos, raw := d.raw }
        let after (u : State) : State :=
          let n := (u.grp i.grp).out.length - (t.grp i.grp).out.length
          (u.modGrp i.grp fun x => { x with hid := x.hid + n }).modCursor fun k => { k with
            lit := (match d.instr with | .lit _ => k.lit | _ => none), posts := k.posts ++ [(k.pos, n)] }
        step s = match exec d.instr { t with cursor := some c } with
          | .next u => .next (after u).finishBundle
          | r => r)

/-- R3, R26, R27, R35-R46: words that the spec writes out stand for the instructions that it names: its table of encodings, and words of the
programs in it. -/
def Obligations.SpecWordsDecode : Prop :=
  (∀ x ∈ ([(0x81080818, true, false, .iadd 4 2 3), (0x520A1839, false, true, .fmul 5 6 7 .rne), (0x6A0403A0, false, true, .lds 2 0 .glob .b64 0),
      (0xA5123456, true, false, .lit 0x123456), (0x04020878, false, false, .iaddi 1 2 0x78), (0x3F000000, false, false, .nop),
      (0xA40F8000, true, false, .rep 3 1 1 1 0), (0x411040C0, false, true, .iadd 8 16 24), (0x2042FFFE, false, false, .bnz 5 0x7FFE),
      (0x3F010000, false, false, .exit), (0x68061300, false, true, .ld 3 4 .glob .n8 0), (0x09100C06, false, false, .matchLead 8 3),
      (0x09120C07, false, false, .matchCount 9 3), (0x46022050, false, true, .icmp 1 8 10 .eq), (0x4E1C0007, false, true, .mseta 14),
      (0x7F056180, false, true, .mts 0x30 0x60)] : List (Word × Bool × Bool × Instr)),
    decode x.1 = .ok ⟨x.2.1, x.2.2.1, x.2.2.2, x.1⟩ ∧ encode x.2.1 x.2.2.1 x.2.2.2 = x.1) ∧
  decode 0 = .error 0x00 ∧ wordOfBytes [0xFE, 0xFF, 0x42, 0x20] = some 0x2042FFFE ∧ bytesOfWord 0x2042FFFE = [0xFE, 0xFF, 0x42, 0x20]

/-- R26, R35-R46: decoding what the encoder makes of a well-formed instruction word gives the instruction back, with its chain bit and its
sync marker, for every operand. -/
def Obligations.EncodeThenDecode : Prop :=
  ∀ (c s : Bool) (i : Instr), i.wellFormed = true → decode (encode c s i) = .ok ⟨c, s, i, encode c s i⟩

/-- R26, R42, R46: a word that decodes is the word that the encoder makes of what it decodes to: no two words stand for one instruction with
the same chain bit and sync marker, so that no field is ignored, and what it decodes to is well formed. -/
def Obligations.DecodeThenEncode : Prop :=
  ∀ (w : Word) (d : DWord), decode w = .ok d → d.raw = w ∧ d.instr.wellFormed = true ∧ encode d.c d.s d.instr = w

/-- Every step keeps the canonical form of the package memory, and the number that the next access draws is never 0 (the model's own field,
log 3). -/
def Obligations.StepsKeepTheInvariant : Prop :=
  ∀ (s t : State), s.MemOk → s.nextId ≠ 0 → step s = .next t → t.MemOk ∧ t.nextId ≠ 0

/-- R278, R287, R288, R290, R292, R295: the package after reset: no context, no window of BAR2, no request, every measurement register zero;
and the invariant of the model holds. A context page at its reset values: CSET all ones, FADE 10, SCHED as R278 has it, the other fields
0. -/
def Obligations.ResetValues : Prop :=
  (State.reset.MemOk ∧ State.reset.nextId ≠ 0 ∧ State.reset.ctxs = [] ∧ State.reset.groups = [] ∧ State.reset.wgs = [] ∧
    (∀ k, tgetD State.reset.apw k 0 = 0) ∧ State.reset.msixTab = [] ∧ State.reset.srq = {} ∧ State.reset.alarm = false ∧
    State.reset.meas = List.replicate 16 0) ∧
  let c : Ctx := {}
  c.cset = 0xFFFFFFFFFFFFFFFFFFFFFFFFF ∧ c.fade = 10 ∧ c.st = .run ∧ c.eqlost = 0 ∧ c.eqhead = 0 ∧ c.eqtail = 0 ∧ c.eqcfg = 0 ∧ c.eqbase = 0 ∧
    c.lqcfg = 0 ∧ c.lqbase = 0 ∧ c.sched = 0x305000FA00FA0000 ∧ c.done = 0 ∧ c.head = 0 ∧ c.tail = 0 ∧ ∀ k, tgetD c.reg k 0 = 0

/-- The frame of the words of majors 0x01 to 0x0E: they complete, and leave every register as it is until their results land, and every byte
of memory; nothing but the outstanding results of their group differs. A word of majors 0x10 to 0x1B other than TMLD, in a group whose
context has a handler and whose traps can be held, leaves the registers, the memory and every other group the same. -/
def Obligations.RegisterWordsLeaveTheRest : Prop :=
  ∀ (s : State) (c : Cursor) (i : Instr), Ready s c i →
    (0x01000000 ≤ i.body → i.body < 0x0F000000 → ∃ t, exec i s = .next t ∧ OnlyResults c.grp s t ∧ SameBytes s t ∧
      ∃ rs, (t.grp c.grp).out = (s.grp c.grp).out ++ rs ∧ ∀ r ∈ rs, r.slotB = c.slotB) ∧
    (0x10000000 ≤ i.body → i.body < 0x1C000000 → (∀ a k, i ≠ .tmld a k) → (s.grp c.grp).tryR = none → (s.grp c.grp).priv = false →
      (s.wg (s.grp c.grp).wg).hdr.handler ≠ 0 →
        ∃ t, exec i s = .next t ∧ OnlyGroup c.grp s t ∧ SameBytes s t ∧ (t.grp c.grp).regs = (s.grp c.grp).regs ∧
          (t.grp c.grp).queue = (s.grp c.grp).queue ∧ (t.grp c.grp).flights = (s.grp c.grp).flights ∧
          ∃ rs, (t.grp c.grp).out = (s.grp c.grp).out ++ rs ∧ ∀ r ∈ rs, r.slotB = c.slotB)
end

