-- ==== Sys2Proof/Laws/State.lean ====
section
/-! SUPPORT. One lemma for each field under each update of the state: what the named updates leave as it was. -/

namespace Sys2Proof.Machine

/-! ## setGrp -/

@[simp] theorem State.setGrp_agenda (s : State) (g : Nat) (x : Group) : (s.setGrp g x).agenda = s.agenda := rfl
@[simp] theorem State.setGrp_free (s : State) (g : Nat) (x : Group) : (s.setGrp g x).free = s.free := rfl
@[simp] theorem State.setGrp_cursor (s : State) (g : Nat) (x : Group) : (s.setGrp g x).cursor = s.cursor := rfl
@[simp] theorem State.setGrp_issued (s : State) (g : Nat) (x : Group) : (s.setGrp g x).issued = s.issued := rfl
@[simp] theorem State.setGrp_nextId (s : State) (g : Nat) (x : Group) : (s.setGrp g x).nextId = s.nextId := rfl
@[simp] theorem State.setGrp_cycles (s : State) (g : Nat) (x : Group) : (s.setGrp g x).cycles = s.cycles := rfl
@[simp] theorem State.setGrp_wgs (s : State) (g : Nat) (x : Group) : (s.setGrp g x).wgs = s.wgs := rfl
@[simp] theorem State.setGrp_cores (s : State) (g : Nat) (x : Group) : (s.setGrp g x).cores = s.cores := rfl
@[simp] theorem State.setGrp_clusters (s : State) (g : Nat) (x : Group) : (s.setGrp g x).clusters = s.clusters := rfl
@[simp] theorem State.setGrp_ctxs (s : State) (g : Nat) (x : Group) : (s.setGrp g x).ctxs = s.ctxs := rfl
@[simp] theorem State.setGrp_reqs (s : State) (g : Nat) (x : Group) : (s.setGrp g x).reqs = s.reqs := rfl
@[simp] theorem State.setGrp_arrived (s : State) (g : Nat) (x : Group) : (s.setGrp g x).arrived = s.arrived := rfl
@[simp] theorem State.setGrp_resps (s : State) (g : Nat) (x : Group) : (s.setGrp g x).resps = s.resps := rfl
@[simp] theorem State.setGrp_watches (s : State) (g : Nat) (x : Group) : (s.setGrp g x).watches = s.watches := rfl
@[simp] theorem State.setGrp_mem (s : State) (g : Nat) (x : Group) : (s.setGrp g x).mem = s.mem := rfl
@[simp] theorem State.setGrp_llc (s : State) (g : Nat) (x : Group) : (s.setGrp g x).llc = s.llc := rfl
@[simp] theorem State.setGrp_poison (s : State) (g : Nat) (x : Group) : (s.setGrp g x).poison = s.poison := rfl
@[simp] theorem State.setGrp_failed (s : State) (g : Nat) (x : Group) : (s.setGrp g x).failed = s.failed := rfl
@[simp] theorem State.setGrp_corrected (s : State) (g : Nat) (x : Group) : (s.setGrp g x).corrected = s.corrected := rfl
@[simp] theorem State.setGrp_frames (s : State) (g : Nat) (x : Group) : (s.setGrp g x).frames = s.frames := rfl
@[simp] theorem State.setGrp_hbmSpared (s : State) (g : Nat) (x : Group) : (s.setGrp g x).hbmSpared = s.hbmSpared := rfl
@[simp] theorem State.setGrp_chip (s : State) (g : Nat) (x : Group) : (s.setGrp g x).chip = s.chip := rfl
@[simp] theorem State.setGrp_planes (s : State) (g : Nat) (x : Group) : (s.setGrp g x).planes = s.planes := rfl
@[simp] theorem State.setGrp_links (s : State) (g : Nat) (x : Group) : (s.setGrp g x).links = s.links := rfl
@[simp] theorem State.setGrp_allow (s : State) (g : Nat) (x : Group) : (s.setGrp g x).allow = s.allow := rfl
@[simp] theorem State.setGrp_ranges (s : State) (g : Nat) (x : Group) : (s.setGrp g x).ranges = s.ranges := rfl
@[simp] theorem State.setGrp_mcr (s : State) (g : Nat) (x : Group) : (s.setGrp g x).mcr = s.mcr := rfl
@[simp] theorem State.setGrp_members (s : State) (g : Nat) (x : Group) : (s.setGrp g x).members = s.members := rfl
@[simp] theorem State.setGrp_sendSeq (s : State) (g : Nat) (x : Group) : (s.setGrp g x).sendSeq = s.sendSeq := rfl
@[simp] theorem State.setGrp_recvSeq (s : State) (g : Nat) (x : Group) : (s.setGrp g x).recvSeq = s.recvSeq := rfl
@[simp] theorem State.setGrp_rcache (s : State) (g : Nat) (x : Group) : (s.setGrp g x).rcache = s.rcache := rfl
@[simp] theorem State.setGrp_pkts (s : State) (g : Nat) (x : Group) : (s.setGrp g x).pkts = s.pkts := rfl
@[simp] theorem State.setGrp_tcs (s : State) (g : Nat) (x : Group) : (s.setGrp g x).tcs = s.tcs := rfl
@[simp] theorem State.setGrp_replies (s : State) (g : Nat) (x : Group) : (s.setGrp g x).replies = s.replies := rfl
@[simp] theorem State.setGrp_unrouted (s : State) (g : Nat) (x : Group) : (s.setGrp g x).unrouted = s.unrouted := rfl
@[simp] theorem State.setGrp_routes (s : State) (g : Nat) (x : Group) : (s.setGrp g x).routes = s.routes := rfl
@[simp] theorem State.setGrp_boot (s : State) (g : Nat) (x : Group) : (s.setGrp g x).boot = s.boot := rfl
@[simp] theorem State.setGrp_bootHalted (s : State) (g : Nat) (x : Group) : (s.setGrp g x).bootHalted = s.bootHalted := rfl
@[simp] theorem State.setGrp_meas (s : State) (g : Nat) (x : Group) : (s.setGrp g x).meas = s.meas := rfl
@[simp] theorem State.setGrp_policy (s : State) (g : Nat) (x : Group) : (s.setGrp g x).policy = s.policy := rfl
@[simp] theorem State.setGrp_memEncrypt (s : State) (g : Nat) (x : Group) : (s.setGrp g x).memEncrypt = s.memEncrypt := rfl
@[simp] theorem State.setGrp_spare (s : State) (g : Nat) (x : Group) : (s.setGrp g x).spare = s.spare := rfl
@[simp] theorem State.setGrp_replaced (s : State) (g : Nat) (x : Group) : (s.setGrp g x).replaced = s.replaced := rfl
@[simp] theorem State.setGrp_lost (s : State) (g : Nat) (x : Group) : (s.setGrp g x).lost = s.lost := rfl
@[simp] theorem State.setGrp_signIndex (s : State) (g : Nat) (x : Group) : (s.setGrp g x).signIndex = s.signIndex := rfl
@[simp] theorem State.setGrp_spdm (s : State) (g : Nat) (x : Group) : (s.setGrp g x).spdm = s.spdm := rfl
@[simp] theorem State.setGrp_alarm (s : State) (g : Nat) (x : Group) : (s.setGrp g x).alarm = s.alarm := rfl
@[simp] theorem State.setGrp_pufRefused (s : State) (g : Nat) (x : Group) : (s.setGrp g x).pufRefused = s.pufRefused := rfl
@[simp] theorem State.setGrp_secrets (s : State) (g : Nat) (x : Group) : (s.setGrp g x).secrets = s.secrets := rfl
@[simp] theorem State.setGrp_stopped (s : State) (g : Nat) (x : Group) : (s.setGrp g x).stopped = s.stopped := rfl
@[simp] theorem State.setGrp_volts (s : State) (g : Nat) (x : Group) : (s.setGrp g x).volts = s.volts := rfl
@[simp] theorem State.setGrp_services (s : State) (g : Nat) (x : Group) : (s.setGrp g x).services = s.services := rfl
@[simp] theorem State.setGrp_svcDown (s : State) (g : Nat) (x : Group) : (s.setGrp g x).svcDown = s.svcDown := rfl
@[simp] theorem State.setGrp_linkUp (s : State) (g : Nat) (x : Group) : (s.setGrp g x).linkUp = s.linkUp := rfl
@[simp] theorem State.setGrp_msixTab (s : State) (g : Nat) (x : Group) : (s.setGrp g x).msixTab = s.msixTab := rfl
@[simp] theorem State.setGrp_msixPend (s : State) (g : Nat) (x : Group) : (s.setGrp g x).msixPend = s.msixPend := rfl
@[simp] theorem State.setGrp_msixSent (s : State) (g : Nat) (x : Group) : (s.setGrp g x).msixSent = s.msixSent := rfl
@[simp] theorem State.setGrp_apw (s : State) (g : Nat) (x : Group) : (s.setGrp g x).apw = s.apw := rfl
@[simp] theorem State.setGrp_srq (s : State) (g : Nat) (x : Group) : (s.setGrp g x).srq = s.srq := rfl
@[simp] theorem State.setGrp_hostResp (s : State) (g : Nat) (x : Group) : (s.setGrp g x).hostResp = s.hostResp := rfl
@[simp] theorem State.setGrp_evict (s : State) (g : Nat) (x : Group) : (s.setGrp g x).evict = s.evict := rfl
@[simp] theorem State.setGrp_latchOk (s : State) (g : Nat) (x : Group) : (s.setGrp g x).latchOk = s.latchOk := rfl
@[simp] theorem State.setGrp_evNeighbour (s : State) (g : Nat) (x : Group) : (s.setGrp g x).evNeighbour = s.evNeighbour := rfl
@[simp] theorem State.setGrp_evStandby (s : State) (g : Nat) (x : Group) : (s.setGrp g x).evStandby = s.evStandby := rfl
@[simp] theorem State.setGrp_eeprom (s : State) (g : Nat) (x : Group) : (s.setGrp g x).eeprom = s.eeprom := rfl
@[simp] theorem State.setGrp_eepromOut (s : State) (g : Nat) (x : Group) : (s.setGrp g x).eepromOut = s.eepromOut := rfl
@[simp] theorem State.setGrp_mgmt (s : State) (g : Nat) (x : Group) : (s.setGrp g x).mgmt = s.mgmt := rfl
@[simp] theorem State.setGrp_lanesSpared (s : State) (g : Nat) (x : Group) : (s.setGrp g x).lanesSpared = s.lanesSpared := rfl

/-! ## setCore -/

@[simp] theorem State.setCore_agenda (s : State) (c : Nat) (x : Core) : (s.setCore c x).agenda = s.agenda := rfl
@[simp] theorem State.setCore_free (s : State) (c : Nat) (x : Core) : (s.setCore c x).free = s.free := rfl
@[simp] theorem State.setCore_cursor (s : State) (c : Nat) (x : Core) : (s.setCore c x).cursor = s.cursor := rfl
@[simp] theorem State.setCore_issued (s : State) (c : Nat) (x : Core) : (s.setCore c x).issued = s.issued := rfl
@[simp] theorem State.setCore_nextId (s : State) (c : Nat) (x : Core) : (s.setCore c x).nextId = s.nextId := rfl
@[simp] theorem State.setCore_cycles (s : State) (c : Nat) (x : Core) : (s.setCore c x).cycles = s.cycles := rfl
@[simp] theorem State.setCore_groups (s : State) (c : Nat) (x : Core) : (s.setCore c x).groups = s.groups := rfl
@[simp] theorem State.setCore_wgs (s : State) (c : Nat) (x : Core) : (s.setCore c x).wgs = s.wgs := rfl
@[simp] theorem State.setCore_clusters (s : State) (c : Nat) (x : Core) : (s.setCore c x).clusters = s.clusters := rfl
@[simp] theorem State.setCore_ctxs (s : State) (c : Nat) (x : Core) : (s.setCore c x).ctxs = s.ctxs := rfl
@[simp] theorem State.setCore_reqs (s : State) (c : Nat) (x : Core) : (s.setCore c x).reqs = s.reqs := rfl
@[simp] theorem State.setCore_arrived (s : State) (c : Nat) (x : Core) : (s.setCore c x).arrived = s.arrived := rfl
@[simp] theorem State.setCore_resps (s : State) (c : Nat) (x : Core) : (s.setCore c x).resps = s.resps := rfl
@[simp] theorem State.setCore_watches (s : State) (c : Nat) (x : Core) : (s.setCore c x).watches = s.watches := rfl
@[simp] theorem State.setCore_mem (s : State) (c : Nat) (x : Core) : (s.setCore c x).mem = s.mem := rfl
@[simp] theorem State.setCore_llc (s : State) (c : Nat) (x : Core) : (s.setCore c x).llc = s.llc := rfl
@[simp] theorem State.setCore_poison (s : State) (c : Nat) (x : Core) : (s.setCore c x).poison = s.poison := rfl
@[simp] theorem State.setCore_failed (s : State) (c : Nat) (x : Core) : (s.setCore c x).failed = s.failed := rfl
@[simp] theorem State.setCore_corrected (s : State) (c : Nat) (x : Core) : (s.setCore c x).corrected = s.corrected := rfl
@[simp] theorem State.setCore_frames (s : State) (c : Nat) (x : Core) : (s.setCore c x).frames = s.frames := rfl
@[simp] theorem State.setCore_hbmSpared (s : State) (c : Nat) (x : Core) : (s.setCore c x).hbmSpared = s.hbmSpared := rfl
@[simp] theorem State.setCore_chip (s : State) (c : Nat) (x : Core) : (s.setCore c x).chip = s.chip := rfl
@[simp] theorem State.setCore_planes (s : State) (c : Nat) (x : Core) : (s.setCore c x).planes = s.planes := rfl
@[simp] theorem State.setCore_links (s : State) (c : Nat) (x : Core) : (s.setCore c x).links = s.links := rfl
@[simp] theorem State.setCore_allow (s : State) (c : Nat) (x : Core) : (s.setCore c x).allow = s.allow := rfl
@[simp] theorem State.setCore_ranges (s : State) (c : Nat) (x : Core) : (s.setCore c x).ranges = s.ranges := rfl
@[simp] theorem State.setCore_mcr (s : State) (c : Nat) (x : Core) : (s.setCore c x).mcr = s.mcr := rfl
@[simp] theorem State.setCore_members (s : State) (c : Nat) (x : Core) : (s.setCore c x).members = s.members := rfl
@[simp] theorem State.setCore_sendSeq (s : State) (c : Nat) (x : Core) : (s.setCore c x).sendSeq = s.sendSeq := rfl
@[simp] theorem State.setCore_recvSeq (s : State) (c : Nat) (x : Core) : (s.setCore c x).recvSeq = s.recvSeq := rfl
@[simp] theorem State.setCore_rcache (s : State) (c : Nat) (x : Core) : (s.setCore c x).rcache = s.rcache := rfl
@[simp] theorem State.setCore_pkts (s : State) (c : Nat) (x : Core) : (s.setCore c x).pkts = s.pkts := rfl
@[simp] theorem State.setCore_tcs (s : State) (c : Nat) (x : Core) : (s.setCore c x).tcs = s.tcs := rfl
@[simp] theorem State.setCore_replies (s : State) (c : Nat) (x : Core) : (s.setCore c x).replies = s.replies := rfl
@[simp] theorem State.setCore_unrouted (s : State) (c : Nat) (x : Core) : (s.setCore c x).unrouted = s.unrouted := rfl
@[simp] theorem State.setCore_routes (s : State) (c : Nat) (x : Core) : (s.setCore c x).routes = s.routes := rfl
@[simp] theorem State.setCore_boot (s : State) (c : Nat) (x : Core) : (s.setCore c x).boot = s.boot := rfl
@[simp] theorem State.setCore_bootHalted (s : State) (c : Nat) (x : Core) : (s.setCore c x).bootHalted = s.bootHalted := rfl
@[simp] theorem State.setCore_meas (s : State) (c : Nat) (x : Core) : (s.setCore c x).meas = s.meas := rfl
@[simp] theorem State.setCore_policy (s : State) (c : Nat) (x : Core) : (s.setCore c x).policy = s.policy := rfl
@[simp] theorem State.setCore_memEncrypt (s : State) (c : Nat) (x : Core) : (s.setCore c x).memEncrypt = s.memEncrypt := rfl
@[simp] theorem State.setCore_spare (s : State) (c : Nat) (x : Core) : (s.setCore c x).spare = s.spare := rfl
@[simp] theorem State.setCore_replaced (s : State) (c : Nat) (x : Core) : (s.setCore c x).replaced = s.replaced := rfl
@[simp] theorem State.setCore_lost (s : State) (c : Nat) (x : Core) : (s.setCore c x).lost = s.lost := rfl
@[simp] theorem State.setCore_signIndex (s : State) (c : Nat) (x : Core) : (s.setCore c x).signIndex = s.signIndex := rfl
@[simp] theorem State.setCore_spdm (s : State) (c : Nat) (x : Core) : (s.setCore c x).spdm = s.spdm := rfl
@[simp] theorem State.setCore_alarm (s : State) (c : Nat) (x : Core) : (s.setCore c x).alarm = s.alarm := rfl
@[simp] theorem State.setCore_pufRefused (s : State) (c : Nat) (x : Core) : (s.setCore c x).pufRefused = s.pufRefused := rfl
@[simp] theorem State.setCore_secrets (s : State) (c : Nat) (x : Core) : (s.setCore c x).secrets = s.secrets := rfl
@[simp] theorem State.setCore_stopped (s : State) (c : Nat) (x : Core) : (s.setCore c x).stopped = s.stopped := rfl
@[simp] theorem State.setCore_volts (s : State) (c : Nat) (x : Core) : (s.setCore c x).volts = s.volts := rfl
@[simp] theorem State.setCore_services (s : State) (c : Nat) (x : Core) : (s.setCore c x).services = s.services := rfl
@[simp] theorem State.setCore_svcDown (s : State) (c : Nat) (x : Core) : (s.setCore c x).svcDown = s.svcDown := rfl
@[simp] theorem State.setCore_linkUp (s : State) (c : Nat) (x : Core) : (s.setCore c x).linkUp = s.linkUp := rfl
@[simp] theorem State.setCore_msixTab (s : State) (c : Nat) (x : Core) : (s.setCore c x).msixTab = s.msixTab := rfl
@[simp] theorem State.setCore_msixPend (s : State) (c : Nat) (x : Core) : (s.setCore c x).msixPend = s.msixPend := rfl
@[simp] theorem State.setCore_msixSent (s : State) (c : Nat) (x : Core) : (s.setCore c x).msixSent = s.msixSent := rfl
@[simp] theorem State.setCore_apw (s : State) (c : Nat) (x : Core) : (s.setCore c x).apw = s.apw := rfl
@[simp] theorem State.setCore_srq (s : State) (c : Nat) (x : Core) : (s.setCore c x).srq = s.srq := rfl
@[simp] theorem State.setCore_hostResp (s : State) (c : Nat) (x : Core) : (s.setCore c x).hostResp = s.hostResp := rfl
@[simp] theorem State.setCore_evict (s : State) (c : Nat) (x : Core) : (s.setCore c x).evict = s.evict := rfl
@[simp] theorem State.setCore_latchOk (s : State) (c : Nat) (x : Core) : (s.setCore c x).latchOk = s.latchOk := rfl
@[simp] theorem State.setCore_evNeighbour (s : State) (c : Nat) (x : Core) : (s.setCore c x).evNeighbour = s.evNeighbour := rfl
@[simp] theorem State.setCore_evStandby (s : State) (c : Nat) (x : Core) : (s.setCore c x).evStandby = s.evStandby := rfl
@[simp] theorem State.setCore_eeprom (s : State) (c : Nat) (x : Core) : (s.setCore c x).eeprom = s.eeprom := rfl
@[simp] theorem State.setCore_eepromOut (s : State) (c : Nat) (x : Core) : (s.setCore c x).eepromOut = s.eepromOut := rfl
@[simp] theorem State.setCore_mgmt (s : State) (c : Nat) (x : Core) : (s.setCore c x).mgmt = s.mgmt := rfl
@[simp] theorem State.setCore_lanesSpared (s : State) (c : Nat) (x : Core) : (s.setCore c x).lanesSpared = s.lanesSpared := rfl

/-! ## setCluster -/

@[simp] theorem State.setCluster_agenda (s : State) (c : Nat) (x : Cluster) : (s.setCluster c x).agenda = s.agenda := rfl
@[simp] theorem State.setCluster_free (s : State) (c : Nat) (x : Cluster) : (s.setCluster c x).free = s.free := rfl
@[simp] theorem State.setCluster_cursor (s : State) (c : Nat) (x : Cluster) : (s.setCluster c x).cursor = s.cursor := rfl
@[simp] theorem State.setCluster_issued (s : State) (c : Nat) (x : Cluster) : (s.setCluster c x).issued = s.issued := rfl
@[simp] theorem State.setCluster_nextId (s : State) (c : Nat) (x : Cluster) : (s.setCluster c x).nextId = s.nextId := rfl
@[simp] theorem State.setCluster_cycles (s : State) (c : Nat) (x : Cluster) : (s.setCluster c x).cycles = s.cycles := rfl
@[simp] theorem State.setCluster_groups (s : State) (c : Nat) (x : Cluster) : (s.setCluster c x).groups = s.groups := rfl
@[simp] theorem State.setCluster_wgs (s : State) (c : Nat) (x : Cluster) : (s.setCluster c x).wgs = s.wgs := rfl
@[simp] theorem State.setCluster_cores (s : State) (c : Nat) (x : Cluster) : (s.setCluster c x).cores = s.cores := rfl
@[simp] theorem State.setCluster_ctxs (s : State) (c : Nat) (x : Cluster) : (s.setCluster c x).ctxs = s.ctxs := rfl
@[simp] theorem State.setCluster_reqs (s : State) (c : Nat) (x : Cluster) : (s.setCluster c x).reqs = s.reqs := rfl
@[simp] theorem State.setCluster_arrived (s : State) (c : Nat) (x : Cluster) : (s.setCluster c x).arrived = s.arrived := rfl
@[simp] theorem State.setCluster_resps (s : State) (c : Nat) (x : Cluster) : (s.setCluster c x).resps = s.resps := rfl
@[simp] theorem State.setCluster_watches (s : State) (c : Nat) (x : Cluster) : (s.setCluster c x).watches = s.watches := rfl
@[simp] theorem State.setCluster_mem (s : State) (c : Nat) (x : Cluster) : (s.setCluster c x).mem = s.mem := rfl
@[simp] theorem State.setCluster_llc (s : State) (c : Nat) (x : Cluster) : (s.setCluster c x).llc = s.llc := rfl
@[simp] theorem State.setCluster_poison (s : State) (c : Nat) (x : Cluster) : (s.setCluster c x).poison = s.poison := rfl
@[simp] theorem State.setCluster_failed (s : State) (c : Nat) (x : Cluster) : (s.setCluster c x).failed = s.failed := rfl
@[simp] theorem State.setCluster_corrected (s : State) (c : Nat) (x : Cluster) : (s.setCluster c x).corrected = s.corrected := rfl
@[simp] theorem State.setCluster_frames (s : State) (c : Nat) (x : Cluster) : (s.setCluster c x).frames = s.frames := rfl
@[simp] theorem State.setCluster_hbmSpared (s : State) (c : Nat) (x : Cluster) : (s.setCluster c x).hbmSpared = s.hbmSpared := rfl
@[simp] theorem State.setCluster_chip (s : State) (c : Nat) (x : Cluster) : (s.setCluster c x).chip = s.chip := rfl
@[simp] theorem State.setCluster_planes (s : State) (c : Nat) (x : Cluster) : (s.setCluster c x).planes = s.planes := rfl
@[simp] theorem State.setCluster_links (s : State) (c : Nat) (x : Cluster) : (s.setCluster c x).links = s.links := rfl
@[simp] theorem State.setCluster_allow (s : State) (c : Nat) (x : Cluster) : (s.setCluster c x).allow = s.allow := rfl
@[simp] theorem State.setCluster_ranges (s : State) (c : Nat) (x : Cluster) : (s.setCluster c x).ranges = s.ranges := rfl
@[simp] theorem State.setCluster_mcr (s : State) (c : Nat) (x : Cluster) : (s.setCluster c x).mcr = s.mcr := rfl
@[simp] theorem State.setCluster_members (s : State) (c : Nat) (x : Cluster) : (s.setCluster c x).members = s.members := rfl
@[simp] theorem State.setCluster_sendSeq (s : State) (c : Nat) (x : Cluster) : (s.setCluster c x).sendSeq = s.sendSeq := rfl
@[simp] theorem State.setCluster_recvSeq (s : State) (c : Nat) (x : Cluster) : (s.setCluster c x).recvSeq = s.recvSeq := rfl
@[simp] theorem State.setCluster_rcache (s : State) (c : Nat) (x : Cluster) : (s.setCluster c x).rcache = s.rcache := rfl
@[simp] theorem State.setCluster_pkts (s : State) (c : Nat) (x : Cluster) : (s.setCluster c x).pkts = s.pkts := rfl
@[simp] theorem State.setCluster_tcs (s : State) (c : Nat) (x : Cluster) : (s.setCluster c x).tcs = s.tcs := rfl
@[simp] theorem State.setCluster_replies (s : State) (c : Nat) (x : Cluster) : (s.setCluster c x).replies = s.replies := rfl
@[simp] theorem State.setCluster_unrouted (s : State) (c : Nat) (x : Cluster) : (s.setCluster c x).unrouted = s.unrouted := rfl
@[simp] theorem State.setCluster_routes (s : State) (c : Nat) (x : Cluster) : (s.setCluster c x).routes = s.routes := rfl
@[simp] theorem State.setCluster_boot (s : State) (c : Nat) (x : Cluster) : (s.setCluster c x).boot = s.boot := rfl
@[simp] theorem State.setCluster_bootHalted (s : State) (c : Nat) (x : Cluster) : (s.setCluster c x).bootHalted = s.bootHalted := rfl
@[simp] theorem State.setCluster_meas (s : State) (c : Nat) (x : Cluster) : (s.setCluster c x).meas = s.meas := rfl
@[simp] theorem State.setCluster_policy (s : State) (c : Nat) (x : Cluster) : (s.setCluster c x).policy = s.policy := rfl
@[simp] theorem State.setCluster_memEncrypt (s : State) (c : Nat) (x : Cluster) : (s.setCluster c x).memEncrypt = s.memEncrypt := rfl
@[simp] theorem State.setCluster_spare (s : State) (c : Nat) (x : Cluster) : (s.setCluster c x).spare = s.spare := rfl
@[simp] theorem State.setCluster_replaced (s : State) (c : Nat) (x : Cluster) : (s.setCluster c x).replaced = s.replaced := rfl
@[simp] theorem State.setCluster_lost (s : State) (c : Nat) (x : Cluster) : (s.setCluster c x).lost = s.lost := rfl
@[simp] theorem State.setCluster_signIndex (s : State) (c : Nat) (x : Cluster) : (s.setCluster c x).signIndex = s.signIndex := rfl
@[simp] theorem State.setCluster_spdm (s : State) (c : Nat) (x : Cluster) : (s.setCluster c x).spdm = s.spdm := rfl
@[simp] theorem State.setCluster_alarm (s : State) (c : Nat) (x : Cluster) : (s.setCluster c x).alarm = s.alarm := rfl
@[simp] theorem State.setCluster_pufRefused (s : State) (c : Nat) (x : Cluster) : (s.setCluster c x).pufRefused = s.pufRefused := rfl
@[simp] theorem State.setCluster_secrets (s : State) (c : Nat) (x : Cluster) : (s.setCluster c x).secrets = s.secrets := rfl
@[simp] theorem State.setCluster_stopped (s : State) (c : Nat) (x : Cluster) : (s.setCluster c x).stopped = s.stopped := rfl
@[simp] theorem State.setCluster_volts (s : State) (c : Nat) (x : Cluster) : (s.setCluster c x).volts = s.volts := rfl
@[simp] theorem State.setCluster_services (s : State) (c : Nat) (x : Cluster) : (s.setCluster c x).services = s.services := rfl
@[simp] theorem State.setCluster_svcDown (s : State) (c : Nat) (x : Cluster) : (s.setCluster c x).svcDown = s.svcDown := rfl
@[simp] theorem State.setCluster_linkUp (s : State) (c : Nat) (x : Cluster) : (s.setCluster c x).linkUp = s.linkUp := rfl
@[simp] theorem State.setCluster_msixTab (s : State) (c : Nat) (x : Cluster) : (s.setCluster c x).msixTab = s.msixTab := rfl
@[simp] theorem State.setCluster_msixPend (s : State) (c : Nat) (x : Cluster) : (s.setCluster c x).msixPend = s.msixPend := rfl
@[simp] theorem State.setCluster_msixSent (s : State) (c : Nat) (x : Cluster) : (s.setCluster c x).msixSent = s.msixSent := rfl
@[simp] theorem State.setCluster_apw (s : State) (c : Nat) (x : Cluster) : (s.setCluster c x).apw = s.apw := rfl
@[simp] theorem State.setCluster_srq (s : State) (c : Nat) (x : Cluster) : (s.setCluster c x).srq = s.srq := rfl
@[simp] theorem State.setCluster_hostResp (s : State) (c : Nat) (x : Cluster) : (s.setCluster c x).hostResp = s.hostResp := rfl
@[simp] theorem State.setCluster_evict (s : State) (c : Nat) (x : Cluster) : (s.setCluster c x).evict = s.evict := rfl
@[simp] theorem State.setCluster_latchOk (s : State) (c : Nat) (x : Cluster) : (s.setCluster c x).latchOk = s.latchOk := rfl
@[simp] theorem State.setCluster_evNeighbour (s : State) (c : Nat) (x : Cluster) : (s.setCluster c x).evNeighbour = s.evNeighbour := rfl
@[simp] theorem State.setCluster_evStandby (s : State) (c : Nat) (x : Cluster) : (s.setCluster c x).evStandby = s.evStandby := rfl
@[simp] theorem State.setCluster_eeprom (s : State) (c : Nat) (x : Cluster) : (s.setCluster c x).eeprom = s.eeprom := rfl
@[simp] theorem State.setCluster_eepromOut (s : State) (c : Nat) (x : Cluster) : (s.setCluster c x).eepromOut = s.eepromOut := rfl
@[simp] theorem State.setCluster_mgmt (s : State) (c : Nat) (x : Cluster) : (s.setCluster c x).mgmt = s.mgmt := rfl
@[simp] theorem State.setCluster_lanesSpared (s : State) (c : Nat) (x : Cluster) : (s.setCluster c x).lanesSpared = s.lanesSpared := rfl

/-! ## setWg -/

@[simp] theorem State.setWg_agenda (s : State) (w : Nat) (x : Wg) : (s.setWg w x).agenda = s.agenda := rfl
@[simp] theorem State.setWg_free (s : State) (w : Nat) (x : Wg) : (s.setWg w x).free = s.free := rfl
@[simp] theorem State.setWg_cursor (s : State) (w : Nat) (x : Wg) : (s.setWg w x).cursor = s.cursor := rfl
@[simp] theorem State.setWg_issued (s : State) (w : Nat) (x : Wg) : (s.setWg w x).issued = s.issued := rfl
@[simp] theorem State.setWg_nextId (s : State) (w : Nat) (x : Wg) : (s.setWg w x).nextId = s.nextId := rfl
@[simp] theorem State.setWg_cycles (s : State) (w : Nat) (x : Wg) : (s.setWg w x).cycles = s.cycles := rfl
@[simp] theorem State.setWg_groups (s : State) (w : Nat) (x : Wg) : (s.setWg w x).groups = s.groups := rfl
@[simp] theorem State.setWg_cores (s : State) (w : Nat) (x : Wg) : (s.setWg w x).cores = s.cores := rfl
@[simp] theorem State.setWg_clusters (s : State) (w : Nat) (x : Wg) : (s.setWg w x).clusters = s.clusters := rfl
@[simp] theorem State.setWg_ctxs (s : State) (w : Nat) (x : Wg) : (s.setWg w x).ctxs = s.ctxs := rfl
@[simp] theorem State.setWg_reqs (s : State) (w : Nat) (x : Wg) : (s.setWg w x).reqs = s.reqs := rfl
@[simp] theorem State.setWg_arrived (s : State) (w : Nat) (x : Wg) : (s.setWg w x).arrived = s.arrived := rfl
@[simp] theorem State.setWg_resps (s : State) (w : Nat) (x : Wg) : (s.setWg w x).resps = s.resps := rfl
@[simp] theorem State.setWg_watches (s : State) (w : Nat) (x : Wg) : (s.setWg w x).watches = s.watches := rfl
@[simp] theorem State.setWg_mem (s : State) (w : Nat) (x : Wg) : (s.setWg w x).mem = s.mem := rfl
@[simp] theorem State.setWg_llc (s : State) (w : Nat) (x : Wg) : (s.setWg w x).llc = s.llc := rfl
@[simp] theorem State.setWg_poison (s : State) (w : Nat) (x : Wg) : (s.setWg w x).poison = s.poison := rfl
@[simp] theorem State.setWg_failed (s : State) (w : Nat) (x : Wg) : (s.setWg w x).failed = s.failed := rfl
@[simp] theorem State.setWg_corrected (s : State) (w : Nat) (x : Wg) : (s.setWg w x).corrected = s.corrected := rfl
@[simp] theorem State.setWg_frames (s : State) (w : Nat) (x : Wg) : (s.setWg w x).frames = s.frames := rfl
@[simp] theorem State.setWg_hbmSpared (s : State) (w : Nat) (x : Wg) : (s.setWg w x).hbmSpared = s.hbmSpared := rfl
@[simp] theorem State.setWg_chip (s : State) (w : Nat) (x : Wg) : (s.setWg w x).chip = s.chip := rfl
@[simp] theorem State.setWg_planes (s : State) (w : Nat) (x : Wg) : (s.setWg w x).planes = s.planes := rfl
@[simp] theorem State.setWg_links (s : State) (w : Nat) (x : Wg) : (s.setWg w x).links = s.links := rfl
@[simp] theorem State.setWg_allow (s : State) (w : Nat) (x : Wg) : (s.setWg w x).allow = s.allow := rfl
@[simp] theorem State.setWg_ranges (s : State) (w : Nat) (x : Wg) : (s.setWg w x).ranges = s.ranges := rfl
@[simp] theorem State.setWg_mcr (s : State) (w : Nat) (x : Wg) : (s.setWg w x).mcr = s.mcr := rfl
@[simp] theorem State.setWg_members (s : State) (w : Nat) (x : Wg) : (s.setWg w x).members = s.members := rfl
@[simp] theorem State.setWg_sendSeq (s : State) (w : Nat) (x : Wg) : (s.setWg w x).sendSeq = s.sendSeq := rfl
@[simp] theorem State.setWg_recvSeq (s : State) (w : Nat) (x : Wg) : (s.setWg w x).recvSeq = s.recvSeq := rfl
@[simp] theorem State.setWg_rcache (s : State) (w : Nat) (x : Wg) : (s.setWg w x).rcache = s.rcache := rfl
@[simp] theorem State.setWg_pkts (s : State) (w : Nat) (x : Wg) : (s.setWg w x).pkts = s.pkts := rfl
@[simp] theorem State.setWg_tcs (s : State) (w : Nat) (x : Wg) : (s.setWg w x).tcs = s.tcs := rfl
@[simp] theorem State.setWg_replies (s : State) (w : Nat) (x : Wg) : (s.setWg w x).replies = s.replies := rfl
@[simp] theorem State.setWg_unrouted (s : State) (w : Nat) (x : Wg) : (s.setWg w x).unrouted = s.unrouted := rfl
@[simp] theorem State.setWg_routes (s : State) (w : Nat) (x : Wg) : (s.setWg w x).routes = s.routes := rfl
@[simp] theorem State.setWg_boot (s : State) (w : Nat) (x : Wg) : (s.setWg w x).boot = s.boot := rfl
@[simp] theorem State.setWg_bootHalted (s : State) (w : Nat) (x : Wg) : (s.setWg w x).bootHalted = s.bootHalted := rfl
@[simp] theorem State.setWg_meas (s : State) (w : Nat) (x : Wg) : (s.setWg w x).meas = s.meas := rfl
@[simp] theorem State.setWg_policy (s : State) (w : Nat) (x : Wg) : (s.setWg w x).policy = s.policy := rfl
@[simp] theorem State.setWg_memEncrypt (s : State) (w : Nat) (x : Wg) : (s.setWg w x).memEncrypt = s.memEncrypt := rfl
@[simp] theorem State.setWg_spare (s : State) (w : Nat) (x : Wg) : (s.setWg w x).spare = s.spare := rfl
@[simp] theorem State.setWg_replaced (s : State) (w : Nat) (x : Wg) : (s.setWg w x).replaced = s.replaced := rfl
@[simp] theorem State.setWg_lost (s : State) (w : Nat) (x : Wg) : (s.setWg w x).lost = s.lost := rfl
@[simp] theorem State.setWg_signIndex (s : State) (w : Nat) (x : Wg) : (s.setWg w x).signIndex = s.signIndex := rfl
@[simp] theorem State.setWg_spdm (s : State) (w : Nat) (x : Wg) : (s.setWg w x).spdm = s.spdm := rfl
@[simp] theorem State.setWg_alarm (s : State) (w : Nat) (x : Wg) : (s.setWg w x).alarm = s.alarm := rfl
@[simp] theorem State.setWg_pufRefused (s : State) (w : Nat) (x : Wg) : (s.setWg w x).pufRefused = s.pufRefused := rfl
@[simp] theorem State.setWg_secrets (s : State) (w : Nat) (x : Wg) : (s.setWg w x).secrets = s.secrets := rfl
@[simp] theorem State.setWg_stopped (s : State) (w : Nat) (x : Wg) : (s.setWg w x).stopped = s.stopped := rfl
@[simp] theorem State.setWg_volts (s : State) (w : Nat) (x : Wg) : (s.setWg w x).volts = s.volts := rfl
@[simp] theorem State.setWg_services (s : State) (w : Nat) (x : Wg) : (s.setWg w x).services = s.services := rfl
@[simp] theorem State.setWg_svcDown (s : State) (w : Nat) (x : Wg) : (s.setWg w x).svcDown = s.svcDown := rfl
@[simp] theorem State.setWg_linkUp (s : State) (w : Nat) (x : Wg) : (s.setWg w x).linkUp = s.linkUp := rfl
@[simp] theorem State.setWg_msixTab (s : State) (w : Nat) (x : Wg) : (s.setWg w x).msixTab = s.msixTab := rfl
@[simp] theorem State.setWg_msixPend (s : State) (w : Nat) (x : Wg) : (s.setWg w x).msixPend = s.msixPend := rfl
@[simp] theorem State.setWg_msixSent (s : State) (w : Nat) (x : Wg) : (s.setWg w x).msixSent = s.msixSent := rfl
@[simp] theorem State.setWg_apw (s : State) (w : Nat) (x : Wg) : (s.setWg w x).apw = s.apw := rfl
@[simp] theorem State.setWg_srq (s : State) (w : Nat) (x : Wg) : (s.setWg w x).srq = s.srq := rfl
@[simp] theorem State.setWg_hostResp (s : State) (w : Nat) (x : Wg) : (s.setWg w x).hostResp = s.hostResp := rfl
@[simp] theorem State.setWg_evict (s : State) (w : Nat) (x : Wg) : (s.setWg w x).evict = s.evict := rfl
@[simp] theorem State.setWg_latchOk (s : State) (w : Nat) (x : Wg) : (s.setWg w x).latchOk = s.latchOk := rfl
@[simp] theorem State.setWg_evNeighbour (s : State) (w : Nat) (x : Wg) : (s.setWg w x).evNeighbour = s.evNeighbour := rfl
@[simp] theorem State.setWg_evStandby (s : State) (w : Nat) (x : Wg) : (s.setWg w x).evStandby = s.evStandby := rfl
@[simp] theorem State.setWg_eeprom (s : State) (w : Nat) (x : Wg) : (s.setWg w x).eeprom = s.eeprom := rfl
@[simp] theorem State.setWg_eepromOut (s : State) (w : Nat) (x : Wg) : (s.setWg w x).eepromOut = s.eepromOut := rfl
@[simp] theorem State.setWg_mgmt (s : State) (w : Nat) (x : Wg) : (s.setWg w x).mgmt = s.mgmt := rfl
@[simp] theorem State.setWg_lanesSpared (s : State) (w : Nat) (x : Wg) : (s.setWg w x).lanesSpared = s.lanesSpared := rfl

/-! ## setCtx -/

@[simp] theorem State.setCtx_agenda (s : State) (c : Nat) (x : Ctx) : (s.setCtx c x).agenda = s.agenda := rfl
@[simp] theorem State.setCtx_free (s : State) (c : Nat) (x : Ctx) : (s.setCtx c x).free = s.free := rfl
@[simp] theorem State.setCtx_cursor (s : State) (c : Nat) (x : Ctx) : (s.setCtx c x).cursor = s.cursor := rfl
@[simp] theorem State.setCtx_issued (s : State) (c : Nat) (x : Ctx) : (s.setCtx c x).issued = s.issued := rfl
@[simp] theorem State.setCtx_nextId (s : State) (c : Nat) (x : Ctx) : (s.setCtx c x).nextId = s.nextId := rfl
@[simp] theorem State.setCtx_cycles (s : State) (c : Nat) (x : Ctx) : (s.setCtx c x).cycles = s.cycles := rfl
@[simp] theorem State.setCtx_groups (s : State) (c : Nat) (x : Ctx) : (s.setCtx c x).groups = s.groups := rfl
@[simp] theorem State.setCtx_wgs (s : State) (c : Nat) (x : Ctx) : (s.setCtx c x).wgs = s.wgs := rfl
@[simp] theorem State.setCtx_cores (s : State) (c : Nat) (x : Ctx) : (s.setCtx c x).cores = s.cores := rfl
@[simp] theorem State.setCtx_clusters (s : State) (c : Nat) (x : Ctx) : (s.setCtx c x).clusters = s.clusters := rfl
@[simp] theorem State.setCtx_reqs (s : State) (c : Nat) (x : Ctx) : (s.setCtx c x).reqs = s.reqs := rfl
@[simp] theorem State.setCtx_arrived (s : State) (c : Nat) (x : Ctx) : (s.setCtx c x).arrived = s.arrived := rfl
@[simp] theorem State.setCtx_resps (s : State) (c : Nat) (x : Ctx) : (s.setCtx c x).resps = s.resps := rfl
@[simp] theorem State.setCtx_watches (s : State) (c : Nat) (x : Ctx) : (s.setCtx c x).watches = s.watches := rfl
@[simp] theorem State.setCtx_mem (s : State) (c : Nat) (x : Ctx) : (s.setCtx c x).mem = s.mem := rfl
@[simp] theorem State.setCtx_llc (s : State) (c : Nat) (x : Ctx) : (s.setCtx c x).llc = s.llc := rfl
@[simp] theorem State.setCtx_poison (s : State) (c : Nat) (x : Ctx) : (s.setCtx c x).poison = s.poison := rfl
@[simp] theorem State.setCtx_failed (s : State) (c : Nat) (x : Ctx) : (s.setCtx c x).failed = s.failed := rfl
@[simp] theorem State.setCtx_corrected (s : State) (c : Nat) (x : Ctx) : (s.setCtx c x).corrected = s.corrected := rfl
@[simp] theorem State.setCtx_frames (s : State) (c : Nat) (x : Ctx) : (s.setCtx c x).frames = s.frames := rfl
@[simp] theorem State.setCtx_hbmSpared (s : State) (c : Nat) (x : Ctx) : (s.setCtx c x).hbmSpared = s.hbmSpared := rfl
@[simp] theorem State.setCtx_chip (s : State) (c : Nat) (x : Ctx) : (s.setCtx c x).chip = s.chip := rfl
@[simp] theorem State.setCtx_planes (s : State) (c : Nat) (x : Ctx) : (s.setCtx c x).planes = s.planes := rfl
@[simp] theorem State.setCtx_links (s : State) (c : Nat) (x : Ctx) : (s.setCtx c x).links = s.links := rfl
@[simp] theorem State.setCtx_allow (s : State) (c : Nat) (x : Ctx) : (s.setCtx c x).allow = s.allow := rfl
@[simp] theorem State.setCtx_ranges (s : State) (c : Nat) (x : Ctx) : (s.setCtx c x).ranges = s.ranges := rfl
@[simp] theorem State.setCtx_mcr (s : State) (c : Nat) (x : Ctx) : (s.setCtx c x).mcr = s.mcr := rfl
@[simp] theorem State.setCtx_members (s : State) (c : Nat) (x : Ctx) : (s.setCtx c x).members = s.members := rfl
@[simp] theorem State.setCtx_sendSeq (s : State) (c : Nat) (x : Ctx) : (s.setCtx c x).sendSeq = s.sendSeq := rfl
@[simp] theorem State.setCtx_recvSeq (s : State) (c : Nat) (x : Ctx) : (s.setCtx c x).recvSeq = s.recvSeq := rfl
@[simp] theorem State.setCtx_rcache (s : State) (c : Nat) (x : Ctx) : (s.setCtx c x).rcache = s.rcache := rfl
@[simp] theorem State.setCtx_pkts (s : State) (c : Nat) (x : Ctx) : (s.setCtx c x).pkts = s.pkts := rfl
@[simp] theorem State.setCtx_tcs (s : State) (c : Nat) (x : Ctx) : (s.setCtx c x).tcs = s.tcs := rfl
@[simp] theorem State.setCtx_replies (s : State) (c : Nat) (x : Ctx) : (s.setCtx c x).replies = s.replies := rfl
@[simp] theorem State.setCtx_unrouted (s : State) (c : Nat) (x : Ctx) : (s.setCtx c x).unrouted = s.unrouted := rfl
@[simp] theorem State.setCtx_routes (s : State) (c : Nat) (x : Ctx) : (s.setCtx c x).routes = s.routes := rfl
@[simp] theorem State.setCtx_boot (s : State) (c : Nat) (x : Ctx) : (s.setCtx c x).boot = s.boot := rfl
@[simp] theorem State.setCtx_bootHalted (s : State) (c : Nat) (x : Ctx) : (s.setCtx c x).bootHalted = s.bootHalted := rfl
@[simp] theorem State.setCtx_meas (s : State) (c : Nat) (x : Ctx) : (s.setCtx c x).meas = s.meas := rfl
@[simp] theorem State.setCtx_policy (s : State) (c : Nat) (x : Ctx) : (s.setCtx c x).policy = s.policy := rfl
@[simp] theorem State.setCtx_memEncrypt (s : State) (c : Nat) (x : Ctx) : (s.setCtx c x).memEncrypt = s.memEncrypt := rfl
@[simp] theorem State.setCtx_spare (s : State) (c : Nat) (x : Ctx) : (s.setCtx c x).spare = s.spare := rfl
@[simp] theorem State.setCtx_replaced (s : State) (c : Nat) (x : Ctx) : (s.setCtx c x).replaced = s.replaced := rfl
@[simp] theorem State.setCtx_lost (s : State) (c : Nat) (x : Ctx) : (s.setCtx c x).lost = s.lost := rfl
@[simp] theorem State.setCtx_signIndex (s : State) (c : Nat) (x : Ctx) : (s.setCtx c x).signIndex = s.signIndex := rfl
@[simp] theorem State.setCtx_spdm (s : State) (c : Nat) (x : Ctx) : (s.setCtx c x).spdm = s.spdm := rfl
@[simp] theorem State.setCtx_alarm (s : State) (c : Nat) (x : Ctx) : (s.setCtx c x).alarm = s.alarm := rfl
@[simp] theorem State.setCtx_pufRefused (s : State) (c : Nat) (x : Ctx) : (s.setCtx c x).pufRefused = s.pufRefused := rfl
@[simp] theorem State.setCtx_secrets (s : State) (c : Nat) (x : Ctx) : (s.setCtx c x).secrets = s.secrets := rfl
@[simp] theorem State.setCtx_stopped (s : State) (c : Nat) (x : Ctx) : (s.setCtx c x).stopped = s.stopped := rfl
@[simp] theorem State.setCtx_volts (s : State) (c : Nat) (x : Ctx) : (s.setCtx c x).volts = s.volts := rfl
@[simp] theorem State.setCtx_services (s : State) (c : Nat) (x : Ctx) : (s.setCtx c x).services = s.services := rfl
@[simp] theorem State.setCtx_svcDown (s : State) (c : Nat) (x : Ctx) : (s.setCtx c x).svcDown = s.svcDown := rfl
@[simp] theorem State.setCtx_linkUp (s : State) (c : Nat) (x : Ctx) : (s.setCtx c x).linkUp = s.linkUp := rfl
@[simp] theorem State.setCtx_msixTab (s : State) (c : Nat) (x : Ctx) : (s.setCtx c x).msixTab = s.msixTab := rfl
@[simp] theorem State.setCtx_msixPend (s : State) (c : Nat) (x : Ctx) : (s.setCtx c x).msixPend = s.msixPend := rfl
@[simp] theorem State.setCtx_msixSent (s : State) (c : Nat) (x : Ctx) : (s.setCtx c x).msixSent = s.msixSent := rfl
@[simp] theorem State.setCtx_apw (s : State) (c : Nat) (x : Ctx) : (s.setCtx c x).apw = s.apw := rfl
@[simp] theorem State.setCtx_srq (s : State) (c : Nat) (x : Ctx) : (s.setCtx c x).srq = s.srq := rfl
@[simp] theorem State.setCtx_hostResp (s : State) (c : Nat) (x : Ctx) : (s.setCtx c x).hostResp = s.hostResp := rfl
@[simp] theorem State.setCtx_evict (s : State) (c : Nat) (x : Ctx) : (s.setCtx c x).evict = s.evict := rfl
@[simp] theorem State.setCtx_latchOk (s : State) (c : Nat) (x : Ctx) : (s.setCtx c x).latchOk = s.latchOk := rfl
@[simp] theorem State.setCtx_evNeighbour (s : State) (c : Nat) (x : Ctx) : (s.setCtx c x).evNeighbour = s.evNeighbour := rfl
@[simp] theorem State.setCtx_evStandby (s : State) (c : Nat) (x : Ctx) : (s.setCtx c x).evStandby = s.evStandby := rfl
@[simp] theorem State.setCtx_eeprom (s : State) (c : Nat) (x : Ctx) : (s.setCtx c x).eeprom = s.eeprom := rfl
@[simp] theorem State.setCtx_eepromOut (s : State) (c : Nat) (x : Ctx) : (s.setCtx c x).eepromOut = s.eepromOut := rfl
@[simp] theorem State.setCtx_mgmt (s : State) (c : Nat) (x : Ctx) : (s.setCtx c x).mgmt = s.mgmt := rfl
@[simp] theorem State.setCtx_lanesSpared (s : State) (c : Nat) (x : Ctx) : (s.setCtx c x).lanesSpared = s.lanesSpared := rfl

/-! ## fresh -/

@[simp] theorem State.fresh_agenda (s : State) : (s.fresh.2).agenda = s.agenda := rfl
@[simp] theorem State.fresh_free (s : State) : (s.fresh.2).free = s.free := rfl
@[simp] theorem State.fresh_cursor (s : State) : (s.fresh.2).cursor = s.cursor := rfl
@[simp] theorem State.fresh_issued (s : State) : (s.fresh.2).issued = s.issued := rfl
@[simp] theorem State.fresh_groups (s : State) : (s.fresh.2).groups = s.groups := rfl
@[simp] theorem State.fresh_wgs (s : State) : (s.fresh.2).wgs = s.wgs := rfl
@[simp] theorem State.fresh_cores (s : State) : (s.fresh.2).cores = s.cores := rfl
@[simp] theorem State.fresh_clusters (s : State) : (s.fresh.2).clusters = s.clusters := rfl
@[simp] theorem State.fresh_ctxs (s : State) : (s.fresh.2).ctxs = s.ctxs := rfl
@[simp] theorem State.fresh_reqs (s : State) : (s.fresh.2).reqs = s.reqs := rfl
@[simp] theorem State.fresh_arrived (s : State) : (s.fresh.2).arrived = s.arrived := rfl
@[simp] theorem State.fresh_resps (s : State) : (s.fresh.2).resps = s.resps := rfl
@[simp] theorem State.fresh_watches (s : State) : (s.fresh.2).watches = s.watches := rfl
@[simp] theorem State.fresh_mem (s : State) : (s.fresh.2).mem = s.mem := rfl
@[simp] theorem State.fresh_llc (s : State) : (s.fresh.2).llc = s.llc := rfl
@[simp] theorem State.fresh_poison (s : State) : (s.fresh.2).poison = s.poison := rfl
@[simp] theorem State.fresh_failed (s : State) : (s.fresh.2).failed = s.failed := rfl
@[simp] theorem State.fresh_corrected (s : State) : (s.fresh.2).corrected = s.corrected := rfl
@[simp] theorem State.fresh_frames (s : State) : (s.fresh.2).frames = s.frames := rfl
@[simp] theorem State.fresh_hbmSpared (s : State) : (s.fresh.2).hbmSpared = s.hbmSpared := rfl
@[simp] theorem State.fresh_chip (s : State) : (s.fresh.2).chip = s.chip := rfl
@[simp] theorem State.fresh_planes (s : State) : (s.fresh.2).planes = s.planes := rfl
@[simp] theorem State.fresh_links (s : State) : (s.fresh.2).links = s.links := rfl
@[simp] theorem State.fresh_allow (s : State) : (s.fresh.2).allow = s.allow := rfl
@[simp] theorem State.fresh_ranges (s : State) : (s.fresh.2).ranges = s.ranges := rfl
@[simp] theorem State.fresh_mcr (s : State) : (s.fresh.2).mcr = s.mcr := rfl
@[simp] theorem State.fresh_members (s : State) : (s.fresh.2).members = s.members := rfl
@[simp] theorem State.fresh_sendSeq (s : State) : (s.fresh.2).sendSeq = s.sendSeq := rfl
@[simp] theorem State.fresh_recvSeq (s : State) : (s.fresh.2).recvSeq = s.recvSeq := rfl
@[simp] theorem State.fresh_rcache (s : State) : (s.fresh.2).rcache = s.rcache := rfl
@[simp] theorem State.fresh_pkts (s : State) : (s.fresh.2).pkts = s.pkts := rfl
@[simp] theorem State.fresh_tcs (s : State) : (s.fresh.2).tcs = s.tcs := rfl
@[simp] theorem State.fresh_replies (s : State) : (s.fresh.2).replies = s.replies := rfl
@[simp] theorem State.fresh_unrouted (s : State) : (s.fresh.2).unrouted = s.unrouted := rfl
@[simp] theorem State.fresh_routes (s : State) : (s.fresh.2).routes = s.routes := rfl
@[simp] theorem State.fresh_boot (s : State) : (s.fresh.2).boot = s.boot := rfl
@[simp] theorem State.fresh_bootHalted (s : State) : (s.fresh.2).bootHalted = s.bootHalted := rfl
@[simp] theorem State.fresh_meas (s : State) : (s.fresh.2).meas = s.meas := rfl
@[simp] theorem State.fresh_policy (s : State) : (s.fresh.2).policy = s.policy := rfl
@[simp] theorem State.fresh_memEncrypt (s : State) : (s.fresh.2).memEncrypt = s.memEncrypt := rfl
@[simp] theorem State.fresh_spare (s : State) : (s.fresh.2).spare = s.spare := rfl
@[simp] theorem State.fresh_replaced (s : State) : (s.fresh.2).replaced = s.replaced := rfl
@[simp] theorem State.fresh_lost (s : State) : (s.fresh.2).lost = s.lost := rfl
@[simp] theorem State.fresh_signIndex (s : State) : (s.fresh.2).signIndex = s.signIndex := rfl
@[simp] theorem State.fresh_spdm (s : State) : (s.fresh.2).spdm = s.spdm := rfl
@[simp] theorem State.fresh_alarm (s : State) : (s.fresh.2).alarm = s.alarm := rfl
@[simp] theorem State.fresh_pufRefused (s : State) : (s.fresh.2).pufRefused = s.pufRefused := rfl
@[simp] theorem State.fresh_secrets (s : State) : (s.fresh.2).secrets = s.secrets := rfl
@[simp] theorem State.fresh_stopped (s : State) : (s.fresh.2).stopped = s.stopped := rfl
@[simp] theorem State.fresh_volts (s : State) : (s.fresh.2).volts = s.volts := rfl
@[simp] theorem State.fresh_services (s : State) : (s.fresh.2).services = s.services := rfl
@[simp] theorem State.fresh_svcDown (s : State) : (s.fresh.2).svcDown = s.svcDown := rfl
@[simp] theorem State.fresh_linkUp (s : State) : (s.fresh.2).linkUp = s.linkUp := rfl
@[simp] theorem State.fresh_msixTab (s : State) : (s.fresh.2).msixTab = s.msixTab := rfl
@[simp] theorem State.fresh_msixPend (s : State) : (s.fresh.2).msixPend = s.msixPend := rfl
@[simp] theorem State.fresh_msixSent (s : State) : (s.fresh.2).msixSent = s.msixSent := rfl
@[simp] theorem State.fresh_apw (s : State) : (s.fresh.2).apw = s.apw := rfl
@[simp] theorem State.fresh_srq (s : State) : (s.fresh.2).srq = s.srq := rfl
@[simp] theorem State.fresh_hostResp (s : State) : (s.fresh.2).hostResp = s.hostResp := rfl
@[simp] theorem State.fresh_evict (s : State) : (s.fresh.2).evict = s.evict := rfl
@[simp] theorem State.fresh_latchOk (s : State) : (s.fresh.2).latchOk = s.latchOk := rfl
@[simp] theorem State.fresh_evNeighbour (s : State) : (s.fresh.2).evNeighbour = s.evNeighbour := rfl
@[simp] theorem State.fresh_evStandby (s : State) : (s.fresh.2).evStandby = s.evStandby := rfl
@[simp] theorem State.fresh_eeprom (s : State) : (s.fresh.2).eeprom = s.eeprom := rfl
@[simp] theorem State.fresh_eepromOut (s : State) : (s.fresh.2).eepromOut = s.eepromOut := rfl
@[simp] theorem State.fresh_mgmt (s : State) : (s.fresh.2).mgmt = s.mgmt := rfl
@[simp] theorem State.fresh_lanesSpared (s : State) : (s.fresh.2).lanesSpared = s.lanesSpared := rfl

/-! ## modCursor -/

@[simp] theorem State.modCursor_agenda (s : State) (f : Cursor → Cursor) : (s.modCursor f).agenda = s.agenda := rfl
@[simp] theorem State.modCursor_free (s : State) (f : Cursor → Cursor) : (s.modCursor f).free = s.free := rfl
@[simp] theorem State.modCursor_issued (s : State) (f : Cursor → Cursor) : (s.modCursor f).issued = s.issued := rfl
@[simp] theorem State.modCursor_nextId (s : State) (f : Cursor → Cursor) : (s.modCursor f).nextId = s.nextId := rfl
@[simp] theorem State.modCursor_cycles (s : State) (f : Cursor → Cursor) : (s.modCursor f).cycles = s.cycles := rfl
@[simp] theorem State.modCursor_groups (s : State) (f : Cursor → Cursor) : (s.modCursor f).groups = s.groups := rfl
@[simp] theorem State.modCursor_wgs (s : State) (f : Cursor → Cursor) : (s.modCursor f).wgs = s.wgs := rfl
@[simp] theorem State.modCursor_cores (s : State) (f : Cursor → Cursor) : (s.modCursor f).cores = s.cores := rfl
@[simp] theorem State.modCursor_clusters (s : State) (f : Cursor → Cursor) : (s.modCursor f).clusters = s.clusters := rfl
@[simp] theorem State.modCursor_ctxs (s : State) (f : Cursor → Cursor) : (s.modCursor f).ctxs = s.ctxs := rfl
@[simp] theorem State.modCursor_reqs (s : State) (f : Cursor → Cursor) : (s.modCursor f).reqs = s.reqs := rfl
@[simp] theorem State.modCursor_arrived (s : State) (f : Cursor → Cursor) : (s.modCursor f).arrived = s.arrived := rfl
@[simp] theorem State.modCursor_resps (s : State) (f : Cursor → Cursor) : (s.modCursor f).resps = s.resps := rfl
@[simp] theorem State.modCursor_watches (s : State) (f : Cursor → Cursor) : (s.modCursor f).watches = s.watches := rfl
@[simp] theorem State.modCursor_mem (s : State) (f : Cursor → Cursor) : (s.modCursor f).mem = s.mem := rfl
@[simp] theorem State.modCursor_llc (s : State) (f : Cursor → Cursor) : (s.modCursor f).llc = s.llc := rfl
@[simp] theorem State.modCursor_poison (s : State) (f : Cursor → Cursor) : (s.modCursor f).poison = s.poison := rfl
@[simp] theorem State.modCursor_failed (s : State) (f : Cursor → Cursor) : (s.modCursor f).failed = s.failed := rfl
@[simp] theorem State.modCursor_corrected (s : State) (f : Cursor → Cursor) : (s.modCursor f).corrected = s.corrected := rfl
@[simp] theorem State.modCursor_frames (s : State) (f : Cursor → Cursor) : (s.modCursor f).frames = s.frames := rfl
@[simp] theorem State.modCursor_hbmSpared (s : State) (f : Cursor → Cursor) : (s.modCursor f).hbmSpared = s.hbmSpared := rfl
@[simp] theorem State.modCursor_chip (s : State) (f : Cursor → Cursor) : (s.modCursor f).chip = s.chip := rfl
@[simp] theorem State.modCursor_planes (s : State) (f : Cursor → Cursor) : (s.modCursor f).planes = s.planes := rfl
@[simp] theorem State.modCursor_links (s : State) (f : Cursor → Cursor) : (s.modCursor f).links = s.links := rfl
@[simp] theorem State.modCursor_allow (s : State) (f : Cursor → Cursor) : (s.modCursor f).allow = s.allow := rfl
@[simp] theorem State.modCursor_ranges (s : State) (f : Cursor → Cursor) : (s.modCursor f).ranges = s.ranges := rfl
@[simp] theorem State.modCursor_mcr (s : State) (f : Cursor → Cursor) : (s.modCursor f).mcr = s.mcr := rfl
@[simp] theorem State.modCursor_members (s : State) (f : Cursor → Cursor) : (s.modCursor f).members = s.members := rfl
@[simp] theorem State.modCursor_sendSeq (s : State) (f : Cursor → Cursor) : (s.modCursor f).sendSeq = s.sendSeq := rfl
@[simp] theorem State.modCursor_recvSeq (s : State) (f : Cursor → Cursor) : (s.modCursor f).recvSeq = s.recvSeq := rfl
@[simp] theorem State.modCursor_rcache (s : State) (f : Cursor → Cursor) : (s.modCursor f).rcache = s.rcache := rfl
@[simp] theorem State.modCursor_pkts (s : State) (f : Cursor → Cursor) : (s.modCursor f).pkts = s.pkts := rfl
@[simp] theorem State.modCursor_tcs (s : State) (f : Cursor → Cursor) : (s.modCursor f).tcs = s.tcs := rfl
@[simp] theorem State.modCursor_replies (s : State) (f : Cursor → Cursor) : (s.modCursor f).replies = s.replies := rfl
@[simp] theorem State.modCursor_unrouted (s : State) (f : Cursor → Cursor) : (s.modCursor f).unrouted = s.unrouted := rfl
@[simp] theorem State.modCursor_routes (s : State) (f : Cursor → Cursor) : (s.modCursor f).routes = s.routes := rfl
@[simp] theorem State.modCursor_boot (s : State) (f : Cursor → Cursor) : (s.modCursor f).boot = s.boot := rfl
@[simp] theorem State.modCursor_bootHalted (s : State) (f : Cursor → Cursor) : (s.modCursor f).bootHalted = s.bootHalted := rfl
@[simp] theorem State.modCursor_meas (s : State) (f : Cursor → Cursor) : (s.modCursor f).meas = s.meas := rfl
@[simp] theorem State.modCursor_policy (s : State) (f : Cursor → Cursor) : (s.modCursor f).policy = s.policy := rfl
@[simp] theorem State.modCursor_memEncrypt (s : State) (f : Cursor → Cursor) : (s.modCursor f).memEncrypt = s.memEncrypt := rfl
@[simp] theorem State.modCursor_spare (s : State) (f : Cursor → Cursor) : (s.modCursor f).spare = s.spare := rfl
@[simp] theorem State.modCursor_replaced (s : State) (f : Cursor → Cursor) : (s.modCursor f).replaced = s.replaced := rfl
@[simp] theorem State.modCursor_lost (s : State) (f : Cursor → Cursor) : (s.modCursor f).lost = s.lost := rfl
@[simp] theorem State.modCursor_signIndex (s : State) (f : Cursor → Cursor) : (s.modCursor f).signIndex = s.signIndex := rfl
@[simp] theorem State.modCursor_spdm (s : State) (f : Cursor → Cursor) : (s.modCursor f).spdm = s.spdm := rfl
@[simp] theorem State.modCursor_alarm (s : State) (f : Cursor → Cursor) : (s.modCursor f).alarm = s.alarm := rfl
@[simp] theorem State.modCursor_pufRefused (s : State) (f : Cursor → Cursor) : (s.modCursor f).pufRefused = s.pufRefused := rfl
@[simp] theorem State.modCursor_secrets (s : State) (f : Cursor → Cursor) : (s.modCursor f).secrets = s.secrets := rfl
@[simp] theorem State.modCursor_stopped (s : State) (f : Cursor → Cursor) : (s.modCursor f).stopped = s.stopped := rfl
@[simp] theorem State.modCursor_volts (s : State) (f : Cursor → Cursor) : (s.modCursor f).volts = s.volts := rfl
@[simp] theorem State.modCursor_services (s : State) (f : Cursor → Cursor) : (s.modCursor f).services = s.services := rfl
@[simp] theorem State.modCursor_svcDown (s : State) (f : Cursor → Cursor) : (s.modCursor f).svcDown = s.svcDown := rfl
@[simp] theorem State.modCursor_linkUp (s : State) (f : Cursor → Cursor) : (s.modCursor f).linkUp = s.linkUp := rfl
@[simp] theorem State.modCursor_msixTab (s : State) (f : Cursor → Cursor) : (s.modCursor f).msixTab = s.msixTab := rfl
@[simp] theorem State.modCursor_msixPend (s : State) (f : Cursor → Cursor) : (s.modCursor f).msixPend = s.msixPend := rfl
@[simp] theorem State.modCursor_msixSent (s : State) (f : Cursor → Cursor) : (s.modCursor f).msixSent = s.msixSent := rfl
@[simp] theorem State.modCursor_apw (s : State) (f : Cursor → Cursor) : (s.modCursor f).apw = s.apw := rfl
@[simp] theorem State.modCursor_srq (s : State) (f : Cursor → Cursor) : (s.modCursor f).srq = s.srq := rfl
@[simp] theorem State.modCursor_hostResp (s : State) (f : Cursor → Cursor) : (s.modCursor f).hostResp = s.hostResp := rfl
@[simp] theorem State.modCursor_evict (s : State) (f : Cursor → Cursor) : (s.modCursor f).evict = s.evict := rfl
@[simp] theorem State.modCursor_latchOk (s : State) (f : Cursor → Cursor) : (s.modCursor f).latchOk = s.latchOk := rfl
@[simp] theorem State.modCursor_evNeighbour (s : State) (f : Cursor → Cursor) : (s.modCursor f).evNeighbour = s.evNeighbour := rfl
@[simp] theorem State.modCursor_evStandby (s : State) (f : Cursor → Cursor) : (s.modCursor f).evStandby = s.evStandby := rfl
@[simp] theorem State.modCursor_eeprom (s : State) (f : Cursor → Cursor) : (s.modCursor f).eeprom = s.eeprom := rfl
@[simp] theorem State.modCursor_eepromOut (s : State) (f : Cursor → Cursor) : (s.modCursor f).eepromOut = s.eepromOut := rfl
@[simp] theorem State.modCursor_mgmt (s : State) (f : Cursor → Cursor) : (s.modCursor f).mgmt = s.mgmt := rfl
@[simp] theorem State.modCursor_lanesSpared (s : State) (f : Cursor → Cursor) : (s.modCursor f).lanesSpared = s.lanesSpared := rfl

/-! ## modGrp -/

@[simp] theorem State.modGrp_agenda (s : State) (g : Nat) (f : Group → Group) : (s.modGrp g f).agenda = s.agenda := rfl
@[simp] theorem State.modGrp_free (s : State) (g : Nat) (f : Group → Group) : (s.modGrp g f).free = s.free := rfl
@[simp] theorem State.modGrp_cursor (s : State) (g : Nat) (f : Group → Group) : (s.modGrp g f).cursor = s.cursor := rfl
@[simp] theorem State.modGrp_issued (s : State) (g : Nat) (f : Group → Group) : (s.modGrp g f).issued = s.issued := rfl
@[simp] theorem State.modGrp_nextId (s : State) (g : Nat) (f : Group → Group) : (s.modGrp g f).nextId = s.nextId := rfl
@[simp] theorem State.modGrp_cycles (s : State) (g : Nat) (f : Group → Group) : (s.modGrp g f).cycles = s.cycles := rfl
@[simp] theorem State.modGrp_wgs (s : State) (g : Nat) (f : Group → Group) : (s.modGrp g f).wgs = s.wgs := rfl
@[simp] theorem State.modGrp_cores (s : State) (g : Nat) (f : Group → Group) : (s.modGrp g f).cores = s.cores := rfl
@[simp] theorem State.modGrp_clusters (s : State) (g : Nat) (f : Group → Group) : (s.modGrp g f).clusters = s.clusters := rfl
@[simp] theorem State.modGrp_ctxs (s : State) (g : Nat) (f : Group → Group) : (s.modGrp g f).ctxs = s.ctxs := rfl
@[simp] theorem State.modGrp_reqs (s : State) (g : Nat) (f : Group → Group) : (s.modGrp g f).reqs = s.reqs := rfl
@[simp] theorem State.modGrp_arrived (s : State) (g : Nat) (f : Group → Group) : (s.modGrp g f).arrived = s.arrived := rfl
@[simp] theorem State.modGrp_resps (s : State) (g : Nat) (f : Group → Group) : (s.modGrp g f).resps = s.resps := rfl
@[simp] theorem State.modGrp_watches (s : State) (g : Nat) (f : Group → Group) : (s.modGrp g f).watches = s.watches := rfl
@[simp] theorem State.modGrp_mem (s : State) (g : Nat) (f : Group → Group) : (s.modGrp g f).mem = s.mem := rfl
@[simp] theorem State.modGrp_llc (s : State) (g : Nat) (f : Group → Group) : (s.modGrp g f).llc = s.llc := rfl
@[simp] theorem State.modGrp_poison (s : State) (g : Nat) (f : Group → Group) : (s.modGrp g f).poison = s.poison := rfl
@[simp] theorem State.modGrp_failed (s : State) (g : Nat) (f : Group → Group) : (s.modGrp g f).failed = s.failed := rfl
@[simp] theorem State.modGrp_corrected (s : State) (g : Nat) (f : Group → Group) : (s.modGrp g f).corrected = s.corrected := rfl
@[simp] theorem State.modGrp_frames (s : State) (g : Nat) (f : Group → Group) : (s.modGrp g f).frames = s.frames := rfl
@[simp] theorem State.modGrp_hbmSpared (s : State) (g : Nat) (f : Group → Group) : (s.modGrp g f).hbmSpared = s.hbmSpared := rfl
@[simp] theorem State.modGrp_chip (s : State) (g : Nat) (f : Group → Group) : (s.modGrp g f).chip = s.chip := rfl
@[simp] theorem State.modGrp_planes (s : State) (g : Nat) (f : Group → Group) : (s.modGrp g f).planes = s.planes := rfl
@[simp] theorem State.modGrp_links (s : State) (g : Nat) (f : Group → Group) : (s.modGrp g f).links = s.links := rfl
@[simp] theorem State.modGrp_allow (s : State) (g : Nat) (f : Group → Group) : (s.modGrp g f).allow = s.allow := rfl
@[simp] theorem State.modGrp_ranges (s : State) (g : Nat) (f : Group → Group) : (s.modGrp g f).ranges = s.ranges := rfl
@[simp] theorem State.modGrp_mcr (s : State) (g : Nat) (f : Group → Group) : (s.modGrp g f).mcr = s.mcr := rfl
@[simp] theorem State.modGrp_members (s : State) (g : Nat) (f : Group → Group) : (s.modGrp g f).members = s.members := rfl
@[simp] theorem State.modGrp_sendSeq (s : State) (g : Nat) (f : Group → Group) : (s.modGrp g f).sendSeq = s.sendSeq := rfl
@[simp] theorem State.modGrp_recvSeq (s : State) (g : Nat) (f : Group → Group) : (s.modGrp g f).recvSeq = s.recvSeq := rfl
@[simp] theorem State.modGrp_rcache (s : State) (g : Nat) (f : Group → Group) : (s.modGrp g f).rcache = s.rcache := rfl
@[simp] theorem State.modGrp_pkts (s : State) (g : Nat) (f : Group → Group) : (s.modGrp g f).pkts = s.pkts := rfl
@[simp] theorem State.modGrp_tcs (s : State) (g : Nat) (f : Group → Group) : (s.modGrp g f).tcs = s.tcs := rfl
@[simp] theorem State.modGrp_replies (s : State) (g : Nat) (f : Group → Group) : (s.modGrp g f).replies = s.replies := rfl
@[simp] theorem State.modGrp_unrouted (s : State) (g : Nat) (f : Group → Group) : (s.modGrp g f).unrouted = s.unrouted := rfl
@[simp] theorem State.modGrp_routes (s : State) (g : Nat) (f : Group → Group) : (s.modGrp g f).routes = s.routes := rfl
@[simp] theorem State.modGrp_boot (s : State) (g : Nat) (f : Group → Group) : (s.modGrp g f).boot = s.boot := rfl
@[simp] theorem State.modGrp_bootHalted (s : State) (g : Nat) (f : Group → Group) : (s.modGrp g f).bootHalted = s.bootHalted := rfl
@[simp] theorem State.modGrp_meas (s : State) (g : Nat) (f : Group → Group) : (s.modGrp g f).meas = s.meas := rfl
@[simp] theorem State.modGrp_policy (s : State) (g : Nat) (f : Group → Group) : (s.modGrp g f).policy = s.policy := rfl
@[simp] theorem State.modGrp_memEncrypt (s : State) (g : Nat) (f : Group → Group) : (s.modGrp g f).memEncrypt = s.memEncrypt := rfl
@[simp] theorem State.modGrp_spare (s : State) (g : Nat) (f : Group → Group) : (s.modGrp g f).spare = s.spare := rfl
@[simp] theorem State.modGrp_replaced (s : State) (g : Nat) (f : Group → Group) : (s.modGrp g f).replaced = s.replaced := rfl
@[simp] theorem State.modGrp_lost (s : State) (g : Nat) (f : Group → Group) : (s.modGrp g f).lost = s.lost := rfl
@[simp] theorem State.modGrp_signIndex (s : State) (g : Nat) (f : Group → Group) : (s.modGrp g f).signIndex = s.signIndex := rfl
@[simp] theorem State.modGrp_spdm (s : State) (g : Nat) (f : Group → Group) : (s.modGrp g f).spdm = s.spdm := rfl
@[simp] theorem State.modGrp_alarm (s : State) (g : Nat) (f : Group → Group) : (s.modGrp g f).alarm = s.alarm := rfl
@[simp] theorem State.modGrp_pufRefused (s : State) (g : Nat) (f : Group → Group) : (s.modGrp g f).pufRefused = s.pufRefused := rfl
@[simp] theorem State.modGrp_secrets (s : State) (g : Nat) (f : Group → Group) : (s.modGrp g f).secrets = s.secrets := rfl
@[simp] theorem State.modGrp_stopped (s : State) (g : Nat) (f : Group → Group) : (s.modGrp g f).stopped = s.stopped := rfl
@[simp] theorem State.modGrp_volts (s : State) (g : Nat) (f : Group → Group) : (s.modGrp g f).volts = s.volts := rfl
@[simp] theorem State.modGrp_services (s : State) (g : Nat) (f : Group → Group) : (s.modGrp g f).services = s.services := rfl
@[simp] theorem State.modGrp_svcDown (s : State) (g : Nat) (f : Group → Group) : (s.modGrp g f).svcDown = s.svcDown := rfl
@[simp] theorem State.modGrp_linkUp (s : State) (g : Nat) (f : Group → Group) : (s.modGrp g f).linkUp = s.linkUp := rfl
@[simp] theorem State.modGrp_msixTab (s : State) (g : Nat) (f : Group → Group) : (s.modGrp g f).msixTab = s.msixTab := rfl
@[simp] theorem State.modGrp_msixPend (s : State) (g : Nat) (f : Group → Group) : (s.modGrp g f).msixPend = s.msixPend := rfl
@[simp] theorem State.modGrp_msixSent (s : State) (g : Nat) (f : Group → Group) : (s.modGrp g f).msixSent = s.msixSent := rfl
@[simp] theorem State.modGrp_apw (s : State) (g : Nat) (f : Group → Group) : (s.modGrp g f).apw = s.apw := rfl
@[simp] theorem State.modGrp_srq (s : State) (g : Nat) (f : Group → Group) : (s.modGrp g f).srq = s.srq := rfl
@[simp] theorem State.modGrp_hostResp (s : State) (g : Nat) (f : Group → Group) : (s.modGrp g f).hostResp = s.hostResp := rfl
@[simp] theorem State.modGrp_evict (s : State) (g : Nat) (f : Group → Group) : (s.modGrp g f).evict = s.evict := rfl
@[simp] theorem State.modGrp_latchOk (s : State) (g : Nat) (f : Group → Group) : (s.modGrp g f).latchOk = s.latchOk := rfl
@[simp] theorem State.modGrp_evNeighbour (s : State) (g : Nat) (f : Group → Group) : (s.modGrp g f).evNeighbour = s.evNeighbour := rfl
@[simp] theorem State.modGrp_evStandby (s : State) (g : Nat) (f : Group → Group) : (s.modGrp g f).evStandby = s.evStandby := rfl
@[simp] theorem State.modGrp_eeprom (s : State) (g : Nat) (f : Group → Group) : (s.modGrp g f).eeprom = s.eeprom := rfl
@[simp] theorem State.modGrp_eepromOut (s : State) (g : Nat) (f : Group → Group) : (s.modGrp g f).eepromOut = s.eepromOut := rfl
@[simp] theorem State.modGrp_mgmt (s : State) (g : Nat) (f : Group → Group) : (s.modGrp g f).mgmt = s.mgmt := rfl
@[simp] theorem State.modGrp_lanesSpared (s : State) (g : Nat) (f : Group → Group) : (s.modGrp g f).lanesSpared = s.lanesSpared := rfl

/-! ## modSlot -/

@[simp] theorem State.modSlot_agenda (s : State) (g : Nat) (b : Bool) (f : Slot → Slot) : (s.modSlot g b f).agenda = s.agenda := rfl
@[simp] theorem State.modSlot_free (s : State) (g : Nat) (b : Bool) (f : Slot → Slot) : (s.modSlot g b f).free = s.free := rfl
@[simp] theorem State.modSlot_cursor (s : State) (g : Nat) (b : Bool) (f : Slot → Slot) : (s.modSlot g b f).cursor = s.cursor := rfl
@[simp] theorem State.modSlot_issued (s : State) (g : Nat) (b : Bool) (f : Slot → Slot) : (s.modSlot g b f).issued = s.issued := rfl
@[simp] theorem State.modSlot_nextId (s : State) (g : Nat) (b : Bool) (f : Slot → Slot) : (s.modSlot g b f).nextId = s.nextId := rfl
@[simp] theorem State.modSlot_cycles (s : State) (g : Nat) (b : Bool) (f : Slot → Slot) : (s.modSlot g b f).cycles = s.cycles := rfl
@[simp] theorem State.modSlot_wgs (s : State) (g : Nat) (b : Bool) (f : Slot → Slot) : (s.modSlot g b f).wgs = s.wgs := rfl
@[simp] theorem State.modSlot_cores (s : State) (g : Nat) (b : Bool) (f : Slot → Slot) : (s.modSlot g b f).cores = s.cores := rfl
@[simp] theorem State.modSlot_clusters (s : State) (g : Nat) (b : Bool) (f : Slot → Slot) : (s.modSlot g b f).clusters = s.clusters := rfl
@[simp] theorem State.modSlot_ctxs (s : State) (g : Nat) (b : Bool) (f : Slot → Slot) : (s.modSlot g b f).ctxs = s.ctxs := rfl
@[simp] theorem State.modSlot_reqs (s : State) (g : Nat) (b : Bool) (f : Slot → Slot) : (s.modSlot g b f).reqs = s.reqs := rfl
@[simp] theorem State.modSlot_arrived (s : State) (g : Nat) (b : Bool) (f : Slot → Slot) : (s.modSlot g b f).arrived = s.arrived := rfl
@[simp] theorem State.modSlot_resps (s : State) (g : Nat) (b : Bool) (f : Slot → Slot) : (s.modSlot g b f).resps = s.resps := rfl
@[simp] theorem State.modSlot_watches (s : State) (g : Nat) (b : Bool) (f : Slot → Slot) : (s.modSlot g b f).watches = s.watches := rfl
@[simp] theorem State.modSlot_mem (s : State) (g : Nat) (b : Bool) (f : Slot → Slot) : (s.modSlot g b f).mem = s.mem := rfl
@[simp] theorem State.modSlot_llc (s : State) (g : Nat) (b : Bool) (f : Slot → Slot) : (s.modSlot g b f).llc = s.llc := rfl
@[simp] theorem State.modSlot_poison (s : State) (g : Nat) (b : Bool) (f : Slot → Slot) : (s.modSlot g b f).poison = s.poison := rfl
@[simp] theorem State.modSlot_failed (s : State) (g : Nat) (b : Bool) (f : Slot → Slot) : (s.modSlot g b f).failed = s.failed := rfl
@[simp] theorem State.modSlot_corrected (s : State) (g : Nat) (b : Bool) (f : Slot → Slot) : (s.modSlot g b f).corrected = s.corrected := rfl
@[simp] theorem State.modSlot_frames (s : State) (g : Nat) (b : Bool) (f : Slot → Slot) : (s.modSlot g b f).frames = s.frames := rfl
@[simp] theorem State.modSlot_hbmSpared (s : State) (g : Nat) (b : Bool) (f : Slot → Slot) : (s.modSlot g b f).hbmSpared = s.hbmSpared := rfl
@[simp] theorem State.modSlot_chip (s : State) (g : Nat) (b : Bool) (f : Slot → Slot) : (s.modSlot g b f).chip = s.chip := rfl
@[simp] theorem State.modSlot_planes (s : State) (g : Nat) (b : Bool) (f : Slot → Slot) : (s.modSlot g b f).planes = s.planes := rfl
@[simp] theorem State.modSlot_links (s : State) (g : Nat) (b : Bool) (f : Slot → Slot) : (s.modSlot g b f).links = s.links := rfl
@[simp] theorem State.modSlot_allow (s : State) (g : Nat) (b : Bool) (f : Slot → Slot) : (s.modSlot g b f).allow = s.allow := rfl
@[simp] theorem State.modSlot_ranges (s : State) (g : Nat) (b : Bool) (f : Slot → Slot) : (s.modSlot g b f).ranges = s.ranges := rfl
@[simp] theorem State.modSlot_mcr (s : State) (g : Nat) (b : Bool) (f : Slot → Slot) : (s.modSlot g b f).mcr = s.mcr := rfl
@[simp] theorem State.modSlot_members (s : State) (g : Nat) (b : Bool) (f : Slot → Slot) : (s.modSlot g b f).members = s.members := rfl
@[simp] theorem State.modSlot_sendSeq (s : State) (g : Nat) (b : Bool) (f : Slot → Slot) : (s.modSlot g b f).sendSeq = s.sendSeq := rfl
@[simp] theorem State.modSlot_recvSeq (s : State) (g : Nat) (b : Bool) (f : Slot → Slot) : (s.modSlot g b f).recvSeq = s.recvSeq := rfl
@[simp] theorem State.modSlot_rcache (s : State) (g : Nat) (b : Bool) (f : Slot → Slot) : (s.modSlot g b f).rcache = s.rcache := rfl
@[simp] theorem State.modSlot_pkts (s : State) (g : Nat) (b : Bool) (f : Slot → Slot) : (s.modSlot g b f).pkts = s.pkts := rfl
@[simp] theorem State.modSlot_tcs (s : State) (g : Nat) (b : Bool) (f : Slot → Slot) : (s.modSlot g b f).tcs = s.tcs := rfl
@[simp] theorem State.modSlot_replies (s : State) (g : Nat) (b : Bool) (f : Slot → Slot) : (s.modSlot g b f).replies = s.replies := rfl
@[simp] theorem State.modSlot_unrouted (s : State) (g : Nat) (b : Bool) (f : Slot → Slot) : (s.modSlot g b f).unrouted = s.unrouted := rfl
@[simp] theorem State.modSlot_routes (s : State) (g : Nat) (b : Bool) (f : Slot → Slot) : (s.modSlot g b f).routes = s.routes := rfl
@[simp] theorem State.modSlot_boot (s : State) (g : Nat) (b : Bool) (f : Slot → Slot) : (s.modSlot g b f).boot = s.boot := rfl
@[simp] theorem State.modSlot_bootHalted (s : State) (g : Nat) (b : Bool) (f : Slot → Slot) : (s.modSlot g b f).bootHalted = s.bootHalted := rfl
@[simp] theorem State.modSlot_meas (s : State) (g : Nat) (b : Bool) (f : Slot → Slot) : (s.modSlot g b f).meas = s.meas := rfl
@[simp] theorem State.modSlot_policy (s : State) (g : Nat) (b : Bool) (f : Slot → Slot) : (s.modSlot g b f).policy = s.policy := rfl
@[simp] theorem State.modSlot_memEncrypt (s : State) (g : Nat) (b : Bool) (f : Slot → Slot) : (s.modSlot g b f).memEncrypt = s.memEncrypt := rfl
@[simp] theorem State.modSlot_spare (s : State) (g : Nat) (b : Bool) (f : Slot → Slot) : (s.modSlot g b f).spare = s.spare := rfl
@[simp] theorem State.modSlot_replaced (s : State) (g : Nat) (b : Bool) (f : Slot → Slot) : (s.modSlot g b f).replaced = s.replaced := rfl
@[simp] theorem State.modSlot_lost (s : State) (g : Nat) (b : Bool) (f : Slot → Slot) : (s.modSlot g b f).lost = s.lost := rfl
@[simp] theorem State.modSlot_signIndex (s : State) (g : Nat) (b : Bool) (f : Slot → Slot) : (s.modSlot g b f).signIndex = s.signIndex := rfl
@[simp] theorem State.modSlot_spdm (s : State) (g : Nat) (b : Bool) (f : Slot → Slot) : (s.modSlot g b f).spdm = s.spdm := rfl
@[simp] theorem State.modSlot_alarm (s : State) (g : Nat) (b : Bool) (f : Slot → Slot) : (s.modSlot g b f).alarm = s.alarm := rfl
@[simp] theorem State.modSlot_pufRefused (s : State) (g : Nat) (b : Bool) (f : Slot → Slot) : (s.modSlot g b f).pufRefused = s.pufRefused := rfl
@[simp] theorem State.modSlot_secrets (s : State) (g : Nat) (b : Bool) (f : Slot → Slot) : (s.modSlot g b f).secrets = s.secrets := rfl
@[simp] theorem State.modSlot_stopped (s : State) (g : Nat) (b : Bool) (f : Slot → Slot) : (s.modSlot g b f).stopped = s.stopped := rfl
@[simp] theorem State.modSlot_volts (s : State) (g : Nat) (b : Bool) (f : Slot → Slot) : (s.modSlot g b f).volts = s.volts := rfl
@[simp] theorem State.modSlot_services (s : State) (g : Nat) (b : Bool) (f : Slot → Slot) : (s.modSlot g b f).services = s.services := rfl
@[simp] theorem State.modSlot_svcDown (s : State) (g : Nat) (b : Bool) (f : Slot → Slot) : (s.modSlot g b f).svcDown = s.svcDown := rfl
@[simp] theorem State.modSlot_linkUp (s : State) (g : Nat) (b : Bool) (f : Slot → Slot) : (s.modSlot g b f).linkUp = s.linkUp := rfl
@[simp] theorem State.modSlot_msixTab (s : State) (g : Nat) (b : Bool) (f : Slot → Slot) : (s.modSlot g b f).msixTab = s.msixTab := rfl
@[simp] theorem State.modSlot_msixPend (s : State) (g : Nat) (b : Bool) (f : Slot → Slot) : (s.modSlot g b f).msixPend = s.msixPend := rfl
@[simp] theorem State.modSlot_msixSent (s : State) (g : Nat) (b : Bool) (f : Slot → Slot) : (s.modSlot g b f).msixSent = s.msixSent := rfl
@[simp] theorem State.modSlot_apw (s : State) (g : Nat) (b : Bool) (f : Slot → Slot) : (s.modSlot g b f).apw = s.apw := rfl
@[simp] theorem State.modSlot_srq (s : State) (g : Nat) (b : Bool) (f : Slot → Slot) : (s.modSlot g b f).srq = s.srq := rfl
@[simp] theorem State.modSlot_hostResp (s : State) (g : Nat) (b : Bool) (f : Slot → Slot) : (s.modSlot g b f).hostResp = s.hostResp := rfl
@[simp] theorem State.modSlot_evict (s : State) (g : Nat) (b : Bool) (f : Slot → Slot) : (s.modSlot g b f).evict = s.evict := rfl
@[simp] theorem State.modSlot_latchOk (s : State) (g : Nat) (b : Bool) (f : Slot → Slot) : (s.modSlot g b f).latchOk = s.latchOk := rfl
@[simp] theorem State.modSlot_evNeighbour (s : State) (g : Nat) (b : Bool) (f : Slot → Slot) : (s.modSlot g b f).evNeighbour = s.evNeighbour := rfl
@[simp] theorem State.modSlot_evStandby (s : State) (g : Nat) (b : Bool) (f : Slot → Slot) : (s.modSlot g b f).evStandby = s.evStandby := rfl
@[simp] theorem State.modSlot_eeprom (s : State) (g : Nat) (b : Bool) (f : Slot → Slot) : (s.modSlot g b f).eeprom = s.eeprom := rfl
@[simp] theorem State.modSlot_eepromOut (s : State) (g : Nat) (b : Bool) (f : Slot → Slot) : (s.modSlot g b f).eepromOut = s.eepromOut := rfl
@[simp] theorem State.modSlot_mgmt (s : State) (g : Nat) (b : Bool) (f : Slot → Slot) : (s.modSlot g b f).mgmt = s.mgmt := rfl
@[simp] theorem State.modSlot_lanesSpared (s : State) (g : Nat) (b : Bool) (f : Slot → Slot) : (s.modSlot g b f).lanesSpared = s.lanesSpared := rfl

/-! ## modCore -/

@[simp] theorem State.modCore_agenda (s : State) (c : Nat) (f : Core → Core) : (s.modCore c f).agenda = s.agenda := rfl
@[simp] theorem State.modCore_free (s : State) (c : Nat) (f : Core → Core) : (s.modCore c f).free = s.free := rfl
@[simp] theorem State.modCore_cursor (s : State) (c : Nat) (f : Core → Core) : (s.modCore c f).cursor = s.cursor := rfl
@[simp] theorem State.modCore_issued (s : State) (c : Nat) (f : Core → Core) : (s.modCore c f).issued = s.issued := rfl
@[simp] theorem State.modCore_nextId (s : State) (c : Nat) (f : Core → Core) : (s.modCore c f).nextId = s.nextId := rfl
@[simp] theorem State.modCore_cycles (s : State) (c : Nat) (f : Core → Core) : (s.modCore c f).cycles = s.cycles := rfl
@[simp] theorem State.modCore_groups (s : State) (c : Nat) (f : Core → Core) : (s.modCore c f).groups = s.groups := rfl
@[simp] theorem State.modCore_wgs (s : State) (c : Nat) (f : Core → Core) : (s.modCore c f).wgs = s.wgs := rfl
@[simp] theorem State.modCore_clusters (s : State) (c : Nat) (f : Core → Core) : (s.modCore c f).clusters = s.clusters := rfl
@[simp] theorem State.modCore_ctxs (s : State) (c : Nat) (f : Core → Core) : (s.modCore c f).ctxs = s.ctxs := rfl
@[simp] theorem State.modCore_reqs (s : State) (c : Nat) (f : Core → Core) : (s.modCore c f).reqs = s.reqs := rfl
@[simp] theorem State.modCore_arrived (s : State) (c : Nat) (f : Core → Core) : (s.modCore c f).arrived = s.arrived := rfl
@[simp] theorem State.modCore_resps (s : State) (c : Nat) (f : Core → Core) : (s.modCore c f).resps = s.resps := rfl
@[simp] theorem State.modCore_watches (s : State) (c : Nat) (f : Core → Core) : (s.modCore c f).watches = s.watches := rfl
@[simp] theorem State.modCore_mem (s : State) (c : Nat) (f : Core → Core) : (s.modCore c f).mem = s.mem := rfl
@[simp] theorem State.modCore_llc (s : State) (c : Nat) (f : Core → Core) : (s.modCore c f).llc = s.llc := rfl
@[simp] theorem State.modCore_poison (s : State) (c : Nat) (f : Core → Core) : (s.modCore c f).poison = s.poison := rfl
@[simp] theorem State.modCore_failed (s : State) (c : Nat) (f : Core → Core) : (s.modCore c f).failed = s.failed := rfl
@[simp] theorem State.modCore_corrected (s : State) (c : Nat) (f : Core → Core) : (s.modCore c f).corrected = s.corrected := rfl
@[simp] theorem State.modCore_frames (s : State) (c : Nat) (f : Core → Core) : (s.modCore c f).frames = s.frames := rfl
@[simp] theorem State.modCore_hbmSpared (s : State) (c : Nat) (f : Core → Core) : (s.modCore c f).hbmSpared = s.hbmSpared := rfl
@[simp] theorem State.modCore_chip (s : State) (c : Nat) (f : Core → Core) : (s.modCore c f).chip = s.chip := rfl
@[simp] theorem State.modCore_planes (s : State) (c : Nat) (f : Core → Core) : (s.modCore c f).planes = s.planes := rfl
@[simp] theorem State.modCore_links (s : State) (c : Nat) (f : Core → Core) : (s.modCore c f).links = s.links := rfl
@[simp] theorem State.modCore_allow (s : State) (c : Nat) (f : Core → Core) : (s.modCore c f).allow = s.allow := rfl
@[simp] theorem State.modCore_ranges (s : State) (c : Nat) (f : Core → Core) : (s.modCore c f).ranges = s.ranges := rfl
@[simp] theorem State.modCore_mcr (s : State) (c : Nat) (f : Core → Core) : (s.modCore c f).mcr = s.mcr := rfl
@[simp] theorem State.modCore_members (s : State) (c : Nat) (f : Core → Core) : (s.modCore c f).members = s.members := rfl
@[simp] theorem State.modCore_sendSeq (s : State) (c : Nat) (f : Core → Core) : (s.modCore c f).sendSeq = s.sendSeq := rfl
@[simp] theorem State.modCore_recvSeq (s : State) (c : Nat) (f : Core → Core) : (s.modCore c f).recvSeq = s.recvSeq := rfl
@[simp] theorem State.modCore_rcache (s : State) (c : Nat) (f : Core → Core) : (s.modCore c f).rcache = s.rcache := rfl
@[simp] theorem State.modCore_pkts (s : State) (c : Nat) (f : Core → Core) : (s.modCore c f).pkts = s.pkts := rfl
@[simp] theorem State.modCore_tcs (s : State) (c : Nat) (f : Core → Core) : (s.modCore c f).tcs = s.tcs := rfl
@[simp] theorem State.modCore_replies (s : State) (c : Nat) (f : Core → Core) : (s.modCore c f).replies = s.replies := rfl
@[simp] theorem State.modCore_unrouted (s : State) (c : Nat) (f : Core → Core) : (s.modCore c f).unrouted = s.unrouted := rfl
@[simp] theorem State.modCore_routes (s : State) (c : Nat) (f : Core → Core) : (s.modCore c f).routes = s.routes := rfl
@[simp] theorem State.modCore_boot (s : State) (c : Nat) (f : Core → Core) : (s.modCore c f).boot = s.boot := rfl
@[simp] theorem State.modCore_bootHalted (s : State) (c : Nat) (f : Core → Core) : (s.modCore c f).bootHalted = s.bootHalted := rfl
@[simp] theorem State.modCore_meas (s : State) (c : Nat) (f : Core → Core) : (s.modCore c f).meas = s.meas := rfl
@[simp] theorem State.modCore_policy (s : State) (c : Nat) (f : Core → Core) : (s.modCore c f).policy = s.policy := rfl
@[simp] theorem State.modCore_memEncrypt (s : State) (c : Nat) (f : Core → Core) : (s.modCore c f).memEncrypt = s.memEncrypt := rfl
@[simp] theorem State.modCore_spare (s : State) (c : Nat) (f : Core → Core) : (s.modCore c f).spare = s.spare := rfl
@[simp] theorem State.modCore_replaced (s : State) (c : Nat) (f : Core → Core) : (s.modCore c f).replaced = s.replaced := rfl
@[simp] theorem State.modCore_lost (s : State) (c : Nat) (f : Core → Core) : (s.modCore c f).lost = s.lost := rfl
@[simp] theorem State.modCore_signIndex (s : State) (c : Nat) (f : Core → Core) : (s.modCore c f).signIndex = s.signIndex := rfl
@[simp] theorem State.modCore_spdm (s : State) (c : Nat) (f : Core → Core) : (s.modCore c f).spdm = s.spdm := rfl
@[simp] theorem State.modCore_alarm (s : State) (c : Nat) (f : Core → Core) : (s.modCore c f).alarm = s.alarm := rfl
@[simp] theorem State.modCore_pufRefused (s : State) (c : Nat) (f : Core → Core) : (s.modCore c f).pufRefused = s.pufRefused := rfl
@[simp] theorem State.modCore_secrets (s : State) (c : Nat) (f : Core → Core) : (s.modCore c f).secrets = s.secrets := rfl
@[simp] theorem State.modCore_stopped (s : State) (c : Nat) (f : Core → Core) : (s.modCore c f).stopped = s.stopped := rfl
@[simp] theorem State.modCore_volts (s : State) (c : Nat) (f : Core → Core) : (s.modCore c f).volts = s.volts := rfl
@[simp] theorem State.modCore_services (s : State) (c : Nat) (f : Core → Core) : (s.modCore c f).services = s.services := rfl
@[simp] theorem State.modCore_svcDown (s : State) (c : Nat) (f : Core → Core) : (s.modCore c f).svcDown = s.svcDown := rfl
@[simp] theorem State.modCore_linkUp (s : State) (c : Nat) (f : Core → Core) : (s.modCore c f).linkUp = s.linkUp := rfl
@[simp] theorem State.modCore_msixTab (s : State) (c : Nat) (f : Core → Core) : (s.modCore c f).msixTab = s.msixTab := rfl
@[simp] theorem State.modCore_msixPend (s : State) (c : Nat) (f : Core → Core) : (s.modCore c f).msixPend = s.msixPend := rfl
@[simp] theorem State.modCore_msixSent (s : State) (c : Nat) (f : Core → Core) : (s.modCore c f).msixSent = s.msixSent := rfl
@[simp] theorem State.modCore_apw (s : State) (c : Nat) (f : Core → Core) : (s.modCore c f).apw = s.apw := rfl
@[simp] theorem State.modCore_srq (s : State) (c : Nat) (f : Core → Core) : (s.modCore c f).srq = s.srq := rfl
@[simp] theorem State.modCore_hostResp (s : State) (c : Nat) (f : Core → Core) : (s.modCore c f).hostResp = s.hostResp := rfl
@[simp] theorem State.modCore_evict (s : State) (c : Nat) (f : Core → Core) : (s.modCore c f).evict = s.evict := rfl
@[simp] theorem State.modCore_latchOk (s : State) (c : Nat) (f : Core → Core) : (s.modCore c f).latchOk = s.latchOk := rfl
@[simp] theorem State.modCore_evNeighbour (s : State) (c : Nat) (f : Core → Core) : (s.modCore c f).evNeighbour = s.evNeighbour := rfl
@[simp] theorem State.modCore_evStandby (s : State) (c : Nat) (f : Core → Core) : (s.modCore c f).evStandby = s.evStandby := rfl
@[simp] theorem State.modCore_eeprom (s : State) (c : Nat) (f : Core → Core) : (s.modCore c f).eeprom = s.eeprom := rfl
@[simp] theorem State.modCore_eepromOut (s : State) (c : Nat) (f : Core → Core) : (s.modCore c f).eepromOut = s.eepromOut := rfl
@[simp] theorem State.modCore_mgmt (s : State) (c : Nat) (f : Core → Core) : (s.modCore c f).mgmt = s.mgmt := rfl
@[simp] theorem State.modCore_lanesSpared (s : State) (c : Nat) (f : Core → Core) : (s.modCore c f).lanesSpared = s.lanesSpared := rfl

/-! ## modCtx -/

@[simp] theorem State.modCtx_agenda (s : State) (c : Nat) (f : Ctx → Ctx) : (s.modCtx c f).agenda = s.agenda := by unfold State.modCtx; split <;> rfl
@[simp] theorem State.modCtx_free (s : State) (c : Nat) (f : Ctx → Ctx) : (s.modCtx c f).free = s.free := by unfold State.modCtx; split <;> rfl
@[simp] theorem State.modCtx_cursor (s : State) (c : Nat) (f : Ctx → Ctx) : (s.modCtx c f).cursor = s.cursor := by unfold State.modCtx; split <;> rfl
@[simp] theorem State.modCtx_issued (s : State) (c : Nat) (f : Ctx → Ctx) : (s.modCtx c f).issued = s.issued := by unfold State.modCtx; split <;> rfl
@[simp] theorem State.modCtx_nextId (s : State) (c : Nat) (f : Ctx → Ctx) : (s.modCtx c f).nextId = s.nextId := by unfold State.modCtx; split <;> rfl
@[simp] theorem State.modCtx_cycles (s : State) (c : Nat) (f : Ctx → Ctx) : (s.modCtx c f).cycles = s.cycles := by unfold State.modCtx; split <;> rfl
@[simp] theorem State.modCtx_groups (s : State) (c : Nat) (f : Ctx → Ctx) : (s.modCtx c f).groups = s.groups := by unfold State.modCtx; split <;> rfl
@[simp] theorem State.modCtx_wgs (s : State) (c : Nat) (f : Ctx → Ctx) : (s.modCtx c f).wgs = s.wgs := by unfold State.modCtx; split <;> rfl
@[simp] theorem State.modCtx_cores (s : State) (c : Nat) (f : Ctx → Ctx) : (s.modCtx c f).cores = s.cores := by unfold State.modCtx; split <;> rfl
@[simp] theorem State.modCtx_clusters (s : State) (c : Nat) (f : Ctx → Ctx) : (s.modCtx c f).clusters = s.clusters := by unfold State.modCtx; split <;> rfl
@[simp] theorem State.modCtx_reqs (s : State) (c : Nat) (f : Ctx → Ctx) : (s.modCtx c f).reqs = s.reqs := by unfold State.modCtx; split <;> rfl
@[simp] theorem State.modCtx_arrived (s : State) (c : Nat) (f : Ctx → Ctx) : (s.modCtx c f).arrived = s.arrived := by unfold State.modCtx; split <;> rfl
@[simp] theorem State.modCtx_resps (s : State) (c : Nat) (f : Ctx → Ctx) : (s.modCtx c f).resps = s.resps := by unfold State.modCtx; split <;> rfl
@[simp] theorem State.modCtx_watches (s : State) (c : Nat) (f : Ctx → Ctx) : (s.modCtx c f).watches = s.watches := by unfold State.modCtx; split <;> rfl
@[simp] theorem State.modCtx_mem (s : State) (c : Nat) (f : Ctx → Ctx) : (s.modCtx c f).mem = s.mem := by unfold State.modCtx; split <;> rfl
@[simp] theorem State.modCtx_llc (s : State) (c : Nat) (f : Ctx → Ctx) : (s.modCtx c f).llc = s.llc := by unfold State.modCtx; split <;> rfl
@[simp] theorem State.modCtx_poison (s : State) (c : Nat) (f : Ctx → Ctx) : (s.modCtx c f).poison = s.poison := by unfold State.modCtx; split <;> rfl
@[simp] theorem State.modCtx_failed (s : State) (c : Nat) (f : Ctx → Ctx) : (s.modCtx c f).failed = s.failed := by unfold State.modCtx; split <;> rfl
@[simp] theorem State.modCtx_corrected (s : State) (c : Nat) (f : Ctx → Ctx) : (s.modCtx c f).corrected = s.corrected := by unfold State.modCtx; split <;> rfl
@[simp] theorem State.modCtx_frames (s : State) (c : Nat) (f : Ctx → Ctx) : (s.modCtx c f).frames = s.frames := by unfold State.modCtx; split <;> rfl
@[simp] theorem State.modCtx_hbmSpared (s : State) (c : Nat) (f : Ctx → Ctx) : (s.modCtx c f).hbmSpared = s.hbmSpared := by unfold State.modCtx; split <;> rfl
@[simp] theorem State.modCtx_chip (s : State) (c : Nat) (f : Ctx → Ctx) : (s.modCtx c f).chip = s.chip := by unfold State.modCtx; split <;> rfl
@[simp] theorem State.modCtx_planes (s : State) (c : Nat) (f : Ctx → Ctx) : (s.modCtx c f).planes = s.planes := by unfold State.modCtx; split <;> rfl
@[simp] theorem State.modCtx_links (s : State) (c : Nat) (f : Ctx → Ctx) : (s.modCtx c f).links = s.links := by unfold State.modCtx; split <;> rfl
@[simp] theorem State.modCtx_allow (s : State) (c : Nat) (f : Ctx → Ctx) : (s.modCtx c f).allow = s.allow := by unfold State.modCtx; split <;> rfl
@[simp] theorem State.modCtx_ranges (s : State) (c : Nat) (f : Ctx → Ctx) : (s.modCtx c f).ranges = s.ranges := by unfold State.modCtx; split <;> rfl
@[simp] theorem State.modCtx_mcr (s : State) (c : Nat) (f : Ctx → Ctx) : (s.modCtx c f).mcr = s.mcr := by unfold State.modCtx; split <;> rfl
@[simp] theorem State.modCtx_members (s : State) (c : Nat) (f : Ctx → Ctx) : (s.modCtx c f).members = s.members := by unfold State.modCtx; split <;> rfl
@[simp] theorem State.modCtx_sendSeq (s : State) (c : Nat) (f : Ctx → Ctx) : (s.modCtx c f).sendSeq = s.sendSeq := by unfold State.modCtx; split <;> rfl
@[simp] theorem State.modCtx_recvSeq (s : State) (c : Nat) (f : Ctx → Ctx) : (s.modCtx c f).recvSeq = s.recvSeq := by unfold State.modCtx; split <;> rfl
@[simp] theorem State.modCtx_rcache (s : State) (c : Nat) (f : Ctx → Ctx) : (s.modCtx c f).rcache = s.rcache := by unfold State.modCtx; split <;> rfl
@[simp] theorem State.modCtx_pkts (s : State) (c : Nat) (f : Ctx → Ctx) : (s.modCtx c f).pkts = s.pkts := by unfold State.modCtx; split <;> rfl
@[simp] theorem State.modCtx_tcs (s : State) (c : Nat) (f : Ctx → Ctx) : (s.modCtx c f).tcs = s.tcs := by unfold State.modCtx; split <;> rfl
@[simp] theorem State.modCtx_replies (s : State) (c : Nat) (f : Ctx → Ctx) : (s.modCtx c f).replies = s.replies := by unfold State.modCtx; split <;> rfl
@[simp] theorem State.modCtx_unrouted (s : State) (c : Nat) (f : Ctx → Ctx) : (s.modCtx c f).unrouted = s.unrouted := by unfold State.modCtx; split <;> rfl
@[simp] theorem State.modCtx_routes (s : State) (c : Nat) (f : Ctx → Ctx) : (s.modCtx c f).routes = s.routes := by unfold State.modCtx; split <;> rfl
@[simp] theorem State.modCtx_boot (s : State) (c : Nat) (f : Ctx → Ctx) : (s.modCtx c f).boot = s.boot := by unfold State.modCtx; split <;> rfl
@[simp] theorem State.modCtx_bootHalted (s : State) (c : Nat) (f : Ctx → Ctx) : (s.modCtx c f).bootHalted = s.bootHalted := by unfold State.modCtx; split <;> rfl
@[simp] theorem State.modCtx_meas (s : State) (c : Nat) (f : Ctx → Ctx) : (s.modCtx c f).meas = s.meas := by unfold State.modCtx; split <;> rfl
@[simp] theorem State.modCtx_policy (s : State) (c : Nat) (f : Ctx → Ctx) : (s.modCtx c f).policy = s.policy := by unfold State.modCtx; split <;> rfl
@[simp] theorem State.modCtx_memEncrypt (s : State) (c : Nat) (f : Ctx → Ctx) : (s.modCtx c f).memEncrypt = s.memEncrypt := by unfold State.modCtx; split <;> rfl
@[simp] theorem State.modCtx_spare (s : State) (c : Nat) (f : Ctx → Ctx) : (s.modCtx c f).spare = s.spare := by unfold State.modCtx; split <;> rfl
@[simp] theorem State.modCtx_replaced (s : State) (c : Nat) (f : Ctx → Ctx) : (s.modCtx c f).replaced = s.replaced := by unfold State.modCtx; split <;> rfl
@[simp] theorem State.modCtx_lost (s : State) (c : Nat) (f : Ctx → Ctx) : (s.modCtx c f).lost = s.lost := by unfold State.modCtx; split <;> rfl
@[simp] theorem State.modCtx_signIndex (s : State) (c : Nat) (f : Ctx → Ctx) : (s.modCtx c f).signIndex = s.signIndex := by unfold State.modCtx; split <;> rfl
@[simp] theorem State.modCtx_spdm (s : State) (c : Nat) (f : Ctx → Ctx) : (s.modCtx c f).spdm = s.spdm := by unfold State.modCtx; split <;> rfl
@[simp] theorem State.modCtx_alarm (s : State) (c : Nat) (f : Ctx → Ctx) : (s.modCtx c f).alarm = s.alarm := by unfold State.modCtx; split <;> rfl
@[simp] theorem State.modCtx_pufRefused (s : State) (c : Nat) (f : Ctx → Ctx) : (s.modCtx c f).pufRefused = s.pufRefused := by unfold State.modCtx; split <;> rfl
@[simp] theorem State.modCtx_secrets (s : State) (c : Nat) (f : Ctx → Ctx) : (s.modCtx c f).secrets = s.secrets := by unfold State.modCtx; split <;> rfl
@[simp] theorem State.modCtx_stopped (s : State) (c : Nat) (f : Ctx → Ctx) : (s.modCtx c f).stopped = s.stopped := by unfold State.modCtx; split <;> rfl
@[simp] theorem State.modCtx_volts (s : State) (c : Nat) (f : Ctx → Ctx) : (s.modCtx c f).volts = s.volts := by unfold State.modCtx; split <;> rfl
@[simp] theorem State.modCtx_services (s : State) (c : Nat) (f : Ctx → Ctx) : (s.modCtx c f).services = s.services := by unfold State.modCtx; split <;> rfl
@[simp] theorem State.modCtx_svcDown (s : State) (c : Nat) (f : Ctx → Ctx) : (s.modCtx c f).svcDown = s.svcDown := by unfold State.modCtx; split <;> rfl
@[simp] theorem State.modCtx_linkUp (s : State) (c : Nat) (f : Ctx → Ctx) : (s.modCtx c f).linkUp = s.linkUp := by unfold State.modCtx; split <;> rfl
@[simp] theorem State.modCtx_msixTab (s : State) (c : Nat) (f : Ctx → Ctx) : (s.modCtx c f).msixTab = s.msixTab := by unfold State.modCtx; split <;> rfl
@[simp] theorem State.modCtx_msixPend (s : State) (c : Nat) (f : Ctx → Ctx) : (s.modCtx c f).msixPend = s.msixPend := by unfold State.modCtx; split <;> rfl
@[simp] theorem State.modCtx_msixSent (s : State) (c : Nat) (f : Ctx → Ctx) : (s.modCtx c f).msixSent = s.msixSent := by unfold State.modCtx; split <;> rfl
@[simp] theorem State.modCtx_apw (s : State) (c : Nat) (f : Ctx → Ctx) : (s.modCtx c f).apw = s.apw := by unfold State.modCtx; split <;> rfl
@[simp] theorem State.modCtx_srq (s : State) (c : Nat) (f : Ctx → Ctx) : (s.modCtx c f).srq = s.srq := by unfold State.modCtx; split <;> rfl
@[simp] theorem State.modCtx_hostResp (s : State) (c : Nat) (f : Ctx → Ctx) : (s.modCtx c f).hostResp = s.hostResp := by unfold State.modCtx; split <;> rfl
@[simp] theorem State.modCtx_evict (s : State) (c : Nat) (f : Ctx → Ctx) : (s.modCtx c f).evict = s.evict := by unfold State.modCtx; split <;> rfl
@[simp] theorem State.modCtx_latchOk (s : State) (c : Nat) (f : Ctx → Ctx) : (s.modCtx c f).latchOk = s.latchOk := by unfold State.modCtx; split <;> rfl
@[simp] theorem State.modCtx_evNeighbour (s : State) (c : Nat) (f : Ctx → Ctx) : (s.modCtx c f).evNeighbour = s.evNeighbour := by unfold State.modCtx; split <;> rfl
@[simp] theorem State.modCtx_evStandby (s : State) (c : Nat) (f : Ctx → Ctx) : (s.modCtx c f).evStandby = s.evStandby := by unfold State.modCtx; split <;> rfl
@[simp] theorem State.modCtx_eeprom (s : State) (c : Nat) (f : Ctx → Ctx) : (s.modCtx c f).eeprom = s.eeprom := by unfold State.modCtx; split <;> rfl
@[simp] theorem State.modCtx_eepromOut (s : State) (c : Nat) (f : Ctx → Ctx) : (s.modCtx c f).eepromOut = s.eepromOut := by unfold State.modCtx; split <;> rfl
@[simp] theorem State.modCtx_mgmt (s : State) (c : Nat) (f : Ctx → Ctx) : (s.modCtx c f).mgmt = s.mgmt := by unfold State.modCtx; split <;> rfl
@[simp] theorem State.modCtx_lanesSpared (s : State) (c : Nat) (f : Ctx → Ctx) : (s.modCtx c f).lanesSpared = s.lanesSpared := by unfold State.modCtx; split <;> rfl

/-! ## postR -/

@[simp] theorem State.postR_agenda (s : State) (g : Nat) (x : Result) : (s.postR g x).agenda = s.agenda := rfl
@[simp] theorem State.postR_free (s : State) (g : Nat) (x : Result) : (s.postR g x).free = s.free := rfl
@[simp] theorem State.postR_cursor (s : State) (g : Nat) (x : Result) : (s.postR g x).cursor = s.cursor := rfl
@[simp] theorem State.postR_issued (s : State) (g : Nat) (x : Result) : (s.postR g x).issued = s.issued := rfl
@[simp] theorem State.postR_nextId (s : State) (g : Nat) (x : Result) : (s.postR g x).nextId = s.nextId := rfl
@[simp] theorem State.postR_cycles (s : State) (g : Nat) (x : Result) : (s.postR g x).cycles = s.cycles := rfl
@[simp] theorem State.postR_wgs (s : State) (g : Nat) (x : Result) : (s.postR g x).wgs = s.wgs := rfl
@[simp] theorem State.postR_cores (s : State) (g : Nat) (x : Result) : (s.postR g x).cores = s.cores := rfl
@[simp] theorem State.postR_clusters (s : State) (g : Nat) (x : Result) : (s.postR g x).clusters = s.clusters := rfl
@[simp] theorem State.postR_ctxs (s : State) (g : Nat) (x : Result) : (s.postR g x).ctxs = s.ctxs := rfl
@[simp] theorem State.postR_reqs (s : State) (g : Nat) (x : Result) : (s.postR g x).reqs = s.reqs := rfl
@[simp] theorem State.postR_arrived (s : State) (g : Nat) (x : Result) : (s.postR g x).arrived = s.arrived := rfl
@[simp] theorem State.postR_resps (s : State) (g : Nat) (x : Result) : (s.postR g x).resps = s.resps := rfl
@[simp] theorem State.postR_watches (s : State) (g : Nat) (x : Result) : (s.postR g x).watches = s.watches := rfl
@[simp] theorem State.postR_mem (s : State) (g : Nat) (x : Result) : (s.postR g x).mem = s.mem := rfl
@[simp] theorem State.postR_llc (s : State) (g : Nat) (x : Result) : (s.postR g x).llc = s.llc := rfl
@[simp] theorem State.postR_poison (s : State) (g : Nat) (x : Result) : (s.postR g x).poison = s.poison := rfl
@[simp] theorem State.postR_failed (s : State) (g : Nat) (x : Result) : (s.postR g x).failed = s.failed := rfl
@[simp] theorem State.postR_corrected (s : State) (g : Nat) (x : Result) : (s.postR g x).corrected = s.corrected := rfl
@[simp] theorem State.postR_frames (s : State) (g : Nat) (x : Result) : (s.postR g x).frames = s.frames := rfl
@[simp] theorem State.postR_hbmSpared (s : State) (g : Nat) (x : Result) : (s.postR g x).hbmSpared = s.hbmSpared := rfl
@[simp] theorem State.postR_chip (s : State) (g : Nat) (x : Result) : (s.postR g x).chip = s.chip := rfl
@[simp] theorem State.postR_planes (s : State) (g : Nat) (x : Result) : (s.postR g x).planes = s.planes := rfl
@[simp] theorem State.postR_links (s : State) (g : Nat) (x : Result) : (s.postR g x).links = s.links := rfl
@[simp] theorem State.postR_allow (s : State) (g : Nat) (x : Result) : (s.postR g x).allow = s.allow := rfl
@[simp] theorem State.postR_ranges (s : State) (g : Nat) (x : Result) : (s.postR g x).ranges = s.ranges := rfl
@[simp] theorem State.postR_mcr (s : State) (g : Nat) (x : Result) : (s.postR g x).mcr = s.mcr := rfl
@[simp] theorem State.postR_members (s : State) (g : Nat) (x : Result) : (s.postR g x).members = s.members := rfl
@[simp] theorem State.postR_sendSeq (s : State) (g : Nat) (x : Result) : (s.postR g x).sendSeq = s.sendSeq := rfl
@[simp] theorem State.postR_recvSeq (s : State) (g : Nat) (x : Result) : (s.postR g x).recvSeq = s.recvSeq := rfl
@[simp] theorem State.postR_rcache (s : State) (g : Nat) (x : Result) : (s.postR g x).rcache = s.rcache := rfl
@[simp] theorem State.postR_pkts (s : State) (g : Nat) (x : Result) : (s.postR g x).pkts = s.pkts := rfl
@[simp] theorem State.postR_tcs (s : State) (g : Nat) (x : Result) : (s.postR g x).tcs = s.tcs := rfl
@[simp] theorem State.postR_replies (s : State) (g : Nat) (x : Result) : (s.postR g x).replies = s.replies := rfl
@[simp] theorem State.postR_unrouted (s : State) (g : Nat) (x : Result) : (s.postR g x).unrouted = s.unrouted := rfl
@[simp] theorem State.postR_routes (s : State) (g : Nat) (x : Result) : (s.postR g x).routes = s.routes := rfl
@[simp] theorem State.postR_boot (s : State) (g : Nat) (x : Result) : (s.postR g x).boot = s.boot := rfl
@[simp] theorem State.postR_bootHalted (s : State) (g : Nat) (x : Result) : (s.postR g x).bootHalted = s.bootHalted := rfl
@[simp] theorem State.postR_meas (s : State) (g : Nat) (x : Result) : (s.postR g x).meas = s.meas := rfl
@[simp] theorem State.postR_policy (s : State) (g : Nat) (x : Result) : (s.postR g x).policy = s.policy := rfl
@[simp] theorem State.postR_memEncrypt (s : State) (g : Nat) (x : Result) : (s.postR g x).memEncrypt = s.memEncrypt := rfl
@[simp] theorem State.postR_spare (s : State) (g : Nat) (x : Result) : (s.postR g x).spare = s.spare := rfl
@[simp] theorem State.postR_replaced (s : State) (g : Nat) (x : Result) : (s.postR g x).replaced = s.replaced := rfl
@[simp] theorem State.postR_lost (s : State) (g : Nat) (x : Result) : (s.postR g x).lost = s.lost := rfl
@[simp] theorem State.postR_signIndex (s : State) (g : Nat) (x : Result) : (s.postR g x).signIndex = s.signIndex := rfl
@[simp] theorem State.postR_spdm (s : State) (g : Nat) (x : Result) : (s.postR g x).spdm = s.spdm := rfl
@[simp] theorem State.postR_alarm (s : State) (g : Nat) (x : Result) : (s.postR g x).alarm = s.alarm := rfl
@[simp] theorem State.postR_pufRefused (s : State) (g : Nat) (x : Result) : (s.postR g x).pufRefused = s.pufRefused := rfl
@[simp] theorem State.postR_secrets (s : State) (g : Nat) (x : Result) : (s.postR g x).secrets = s.secrets := rfl
@[simp] theorem State.postR_stopped (s : State) (g : Nat) (x : Result) : (s.postR g x).stopped = s.stopped := rfl
@[simp] theorem State.postR_volts (s : State) (g : Nat) (x : Result) : (s.postR g x).volts = s.volts := rfl
@[simp] theorem State.postR_services (s : State) (g : Nat) (x : Result) : (s.postR g x).services = s.services := rfl
@[simp] theorem State.postR_svcDown (s : State) (g : Nat) (x : Result) : (s.postR g x).svcDown = s.svcDown := rfl
@[simp] theorem State.postR_linkUp (s : State) (g : Nat) (x : Result) : (s.postR g x).linkUp = s.linkUp := rfl
@[simp] theorem State.postR_msixTab (s : State) (g : Nat) (x : Result) : (s.postR g x).msixTab = s.msixTab := rfl
@[simp] theorem State.postR_msixPend (s : State) (g : Nat) (x : Result) : (s.postR g x).msixPend = s.msixPend := rfl
@[simp] theorem State.postR_msixSent (s : State) (g : Nat) (x : Result) : (s.postR g x).msixSent = s.msixSent := rfl
@[simp] theorem State.postR_apw (s : State) (g : Nat) (x : Result) : (s.postR g x).apw = s.apw := rfl
@[simp] theorem State.postR_srq (s : State) (g : Nat) (x : Result) : (s.postR g x).srq = s.srq := rfl
@[simp] theorem State.postR_hostResp (s : State) (g : Nat) (x : Result) : (s.postR g x).hostResp = s.hostResp := rfl
@[simp] theorem State.postR_evict (s : State) (g : Nat) (x : Result) : (s.postR g x).evict = s.evict := rfl
@[simp] theorem State.postR_latchOk (s : State) (g : Nat) (x : Result) : (s.postR g x).latchOk = s.latchOk := rfl
@[simp] theorem State.postR_evNeighbour (s : State) (g : Nat) (x : Result) : (s.postR g x).evNeighbour = s.evNeighbour := rfl
@[simp] theorem State.postR_evStandby (s : State) (g : Nat) (x : Result) : (s.postR g x).evStandby = s.evStandby := rfl
@[simp] theorem State.postR_eeprom (s : State) (g : Nat) (x : Result) : (s.postR g x).eeprom = s.eeprom := rfl
@[simp] theorem State.postR_eepromOut (s : State) (g : Nat) (x : Result) : (s.postR g x).eepromOut = s.eepromOut := rfl
@[simp] theorem State.postR_mgmt (s : State) (g : Nat) (x : Result) : (s.postR g x).mgmt = s.mgmt := rfl
@[simp] theorem State.postR_lanesSpared (s : State) (g : Nat) (x : Result) : (s.postR g x).lanesSpared = s.lanesSpared := rfl

/-! ## Groups and slots -/

@[simp] theorem Group.setSlot_wg (g : Group) (b : Bool) (x : Slot) : (g.setSlot b x).wg = g.wg := by cases b <;> rfl
@[simp] theorem Group.setSlot_idx (g : Group) (b : Bool) (x : Slot) : (g.setSlot b x).idx = g.idx := by cases b <;> rfl
@[simp] theorem Group.setSlot_regs (g : Group) (b : Bool) (x : Slot) : (g.setSlot b x).regs = g.regs := by cases b <;> rfl
@[simp] theorem Group.setSlot_trapRegs (g : Group) (b : Bool) (x : Slot) : (g.setSlot b x).trapRegs = g.trapRegs := by cases b <;> rfl
@[simp] theorem Group.setSlot_priv (g : Group) (b : Bool) (x : Slot) : (g.setSlot b x).priv = g.priv := by cases b <;> rfl
@[simp] theorem Group.setSlot_privB (g : Group) (b : Bool) (x : Slot) : (g.setSlot b x).privB = g.privB := by cases b <;> rfl
@[simp] theorem Group.setSlot_privI (g : Group) (b : Bool) (x : Slot) : (g.setSlot b x).privI = g.privI := by cases b <;> rfl
@[simp] theorem Group.setSlot_trap (g : Group) (b : Bool) (x : Slot) : (g.setSlot b x).trap = g.trap := by cases b <;> rfl
@[simp] theorem Group.setSlot_dsp (g : Group) (b : Bool) (x : Slot) : (g.setSlot b x).dsp = g.dsp := by cases b <;> rfl
@[simp] theorem Group.setSlot_out (g : Group) (b : Bool) (x : Slot) : (g.setSlot b x).out = g.out := by cases b <;> rfl
@[simp] theorem Group.setSlot_hid (g : Group) (b : Bool) (x : Slot) : (g.setSlot b x).hid = g.hid := by cases b <;> rfl
@[simp] theorem Group.setSlot_replays (g : Group) (b : Bool) (x : Slot) : (g.setSlot b x).replays = g.replays := by cases b <;> rfl
@[simp] theorem Group.setSlot_wroteA (g : Group) (b : Bool) (x : Slot) : (g.setSlot b x).wroteA = g.wroteA := by cases b <;> rfl
@[simp] theorem Group.setSlot_wroteB (g : Group) (b : Bool) (x : Slot) : (g.setSlot b x).wroteB = g.wroteB := by cases b <;> rfl
@[simp] theorem Group.setSlot_sync (g : Group) (b : Bool) (x : Slot) : (g.setSlot b x).sync = g.sync := by cases b <;> rfl
@[simp] theorem Group.setSlot_queue (g : Group) (b : Bool) (x : Slot) : (g.setSlot b x).queue = g.queue := by cases b <;> rfl
@[simp] theorem Group.setSlot_flights (g : Group) (b : Bool) (x : Slot) : (g.setSlot b x).flights = g.flights := by cases b <;> rfl
@[simp] theorem Group.setSlot_deferred (g : Group) (b : Bool) (x : Slot) : (g.setSlot b x).deferred = g.deferred := by cases b <;> rfl
@[simp] theorem Group.setSlot_spec (g : Group) (b : Bool) (x : Slot) : (g.setSlot b x).spec = g.spec := by cases b <;> rfl
@[simp] theorem Group.setSlot_tryR (g : Group) (b : Bool) (x : Slot) : (g.setSlot b x).tryR = g.tryR := by cases b <;> rfl
@[simp] theorem Group.setSlot_tstat (g : Group) (b : Bool) (x : Slot) : (g.setSlot b x).tstat = g.tstat := by cases b <;> rfl
@[simp] theorem Group.setSlot_troll (g : Group) (b : Bool) (x : Slot) : (g.setSlot b x).troll = g.troll := by cases b <;> rfl
@[simp] theorem Group.setSlot_phi (g : Group) (b : Bool) (x : Slot) : (g.setSlot b x).phi = g.phi := by cases b <;> rfl
@[simp] theorem Group.setSlot_tmld (g : Group) (b : Bool) (x : Slot) : (g.setSlot b x).tmld = g.tmld := by cases b <;> rfl
@[simp] theorem Group.setSlot_dead (g : Group) (b : Bool) (x : Slot) : (g.setSlot b x).dead = g.dead := by cases b <;> rfl
@[simp] theorem Group.setSlot_slot (g : Group) (b : Bool) (x : Slot) : (g.setSlot b x).slot b = x := by cases b <;> rfl
@[simp] theorem Group.setSlot_other (g : Group) (b : Bool) (x : Slot) : (g.setSlot b x).slot (!b) = g.slot (!b) := by
  cases b <;> rfl

end Sys2Proof.Machine
end

