-- ==== Sys2Proof/Laws/Memory.lean ====
section
/-! SUPPORT. Laws of tables and of memories: a read after a write, the writes that leave a key alone, and the canonical
form, which every memory operation keeps. -/

namespace Sys2Proof.Machine

/-! ## Tables -/

@[simp] theorem tget_tset_self {α : Type} (t : Table α) (k : Nat) (v : α) : tget (tset t k v) k = some v := by
  induction t with
  | nil => simp [tset, tget]
  | cons e r ih =>
    obtain ⟨k', v'⟩ := e
    unfold tset
    split
    · simp [tget]
    · split
      · simp [tget]
      · next h => simp only [tget, if_neg (Ne.symm h), ih]

theorem tget_tset_ne {α : Type} (t : Table α) (k : Nat) (v : α) {h : Nat} (hk : h ≠ k) :
    tget (tset t k v) h = tget t h := by
  induction t with
  | nil => simp [tset, tget, Ne.symm hk]
  | cons e r ih =>
    obtain ⟨k', v'⟩ := e
    unfold tset
    split
    · simp [tget, Ne.symm hk]
    · split
      · next h' => subst h'; simp [tget, Ne.symm hk]
      · simp only [tget, ih]

@[simp] theorem tgetD_tset_self {α : Type} (t : Table α) (k : Nat) (v d : α) : tgetD (tset t k v) k d = v := by
  simp [tgetD]

theorem tgetD_tset_ne {α : Type} (t : Table α) (k : Nat) (v d : α) {h : Nat} (hk : h ≠ k) :
    tgetD (tset t k v) h d = tgetD t h d := by simp [tgetD, tget_tset_ne t k v hk]

/-- Every entry of a table with a key set is the new entry or an old one. -/
theorem mem_tset {α : Type} {t : Table α} {k : Nat} {v : α} {e : Nat × α} (h : e ∈ tset t k v) :
    e = (k, v) ∨ e ∈ t := by
  induction t with
  | nil => simpa [tset] using h
  | cons x r ih =>
    obtain ⟨k', v'⟩ := x
    unfold tset at h
    split at h
    · simpa using h
    · split at h
      · rcases List.mem_cons.1 h with h | h
        · exact .inl h
        · exact .inr (List.mem_cons_of_mem _ h)
      · rcases List.mem_cons.1 h with h | h
        · exact .inr (h ▸ List.mem_cons_self ..)
        · exact (ih h).imp_right (List.mem_cons_of_mem _)

/-- A value of a table, or its default. -/
theorem tgetD_mem {α : Type} (t : Table α) (k : Nat) (d : α) : tgetD t k d = d ∨ (k, tgetD t k d) ∈ t := by
  induction t with
  | nil => exact .inl rfl
  | cons x r ih =>
    obtain ⟨k', v'⟩ := x
    by_cases h : k' = k
    · subst h; right; simp [tgetD, tget]
    · have e : tgetD ((k', v') :: r) k d = tgetD r k d := by simp [tgetD, tget, h]
      rw [e]
      exact ih.imp_right (List.mem_cons_of_mem _)

/-! ## The parts of the state by key -/

@[simp] theorem State.setGrp_grp (s : State) (g : Nat) (x : Group) : (s.setGrp g x).grp g = x := tgetD_tset_self ..
theorem State.setGrp_grp_ne (s : State) (g : Nat) (x : Group) {h : Nat} (hg : h ≠ g) :
    (s.setGrp g x).grp h = s.grp h := tgetD_tset_ne _ _ _ _ hg
@[simp] theorem State.modGrp_grp (s : State) (g : Nat) (f : Group → Group) : (s.modGrp g f).grp g = f (s.grp g) :=
  State.setGrp_grp ..
theorem State.modGrp_grp_ne (s : State) (g : Nat) (f : Group → Group) {h : Nat} (hg : h ≠ g) :
    (s.modGrp g f).grp h = s.grp h := State.setGrp_grp_ne _ _ _ hg
@[simp] theorem State.setCore_core (s : State) (c : Nat) (x : Core) : (s.setCore c x).core c = x := tgetD_tset_self ..
theorem State.setCore_core_ne (s : State) (c : Nat) (x : Core) {h : Nat} (hc : h ≠ c) :
    (s.setCore c x).core h = s.core h := tgetD_tset_ne _ _ _ _ hc
@[simp] theorem State.setCluster_cluster (s : State) (c : Nat) (x : Cluster) : (s.setCluster c x).cluster c = x :=
  tgetD_tset_self ..
@[simp] theorem State.setWg_wg (s : State) (w : Nat) (x : Wg) : (s.setWg w x).wg w = x := tgetD_tset_self ..
@[simp] theorem State.setCtx_ctx (s : State) (c : Nat) (x : Ctx) : (s.setCtx c x).ctx c = x := tgetD_tset_self ..
theorem State.setCtx_ctx_ne (s : State) (c : Nat) (x : Ctx) {h : Nat} (hc : h ≠ c) :
    (s.setCtx c x).ctx h = s.ctx h := tgetD_tset_ne _ _ _ _ hc

/-- Setting a key twice is setting it once. -/
@[simp] theorem tset_tset {α : Type} (t : Table α) (k : Nat) (v w : α) : tset (tset t k v) k w = tset t k w := by
  induction t with
  | nil => simp [tset]
  | cons x r ih =>
    obtain ⟨k', v'⟩ := x
    by_cases h : k < k'
    · simp [tset, h]
    · by_cases h2 : k = k'
      · subst h2; simp [tset]
      · simp [tset, h, h2, ih]

@[simp] theorem State.setGrp_setGrp (s : State) (g : Nat) (x y : Group) : (s.setGrp g x).setGrp g y = s.setGrp g y := by
  simp [State.setGrp]

/-! ## Memories -/

theorem cell_setCell_self (m : List Host.Cell) (a : Nat) (b : Byte) (h : cellsFrom 0 m = true) :
    cell (setCell m a b) a = b := by
  suffices H : ∀ lo, cellsFrom lo m = true → cell (setCell m a b) a = b from H 0 h
  clear h
  have none_below : ∀ (m : List Host.Cell) lo, cellsFrom lo m = true → a < lo → cell m a = unlisted := by
    intro m
    induction m with
    | nil => intros; rfl
    | cons e r ih =>
      intro lo h hl
      obtain ⟨a', b'⟩ := e
      simp only [cellsFrom, Bool.and_eq_true, decide_eq_true_eq] at h
      have : a' ≠ a := by omega
      simp only [cell, if_neg this]
      exact ih (a' + 1) h.2 (by omega)
  induction m with
  | nil => intro lo _; unfold setCell; split <;> simp_all [cell, unlisted]
  | cons e r ih =>
    intro lo h
    obtain ⟨a', b'⟩ := e
    simp only [cellsFrom, Bool.and_eq_true, decide_eq_true_eq] at h
    unfold setCell
    split
    · next hlt =>
      split
      · next hb =>
        have : a' ≠ a := by omega
        simp only [cell, if_neg this, hb]
        exact none_below r (a' + 1) h.2 (by omega)
      · simp [cell]
    · split
      · next h1 h2 =>
        subst h2
        split
        · next hb => rw [hb]; exact none_below r _ h.2 (by omega)
        · simp [cell]
      · next h1 h2 =>
        simp only [cell, if_neg (Ne.symm h2)]
        exact ih _ h.2

theorem cell_setCell_ne (m : List Host.Cell) (a : Nat) (b : Byte) {x : Nat} (hx : x ≠ a) :
    cell (setCell m a b) x = cell m x := by
  induction m with
  | nil => unfold setCell; split <;> simp [cell, Ne.symm hx]
  | cons e r ih =>
    obtain ⟨a', b'⟩ := e
    unfold setCell
    split
    · split
      · rfl
      · simp only [cell, if_neg (Ne.symm hx)]
    · split
      · next h1 h2 =>
        subst h2
        split
        · simp only [cell, if_neg (Ne.symm hx)]
        · simp only [cell, if_neg (Ne.symm hx)]
      · simp only [cell, ih]

/-- One byte written from `lo` on keeps the form. -/
theorem cellsFrom_setCell (m : List Host.Cell) (a : Nat) (b : Byte) :
    ∀ lo, cellsFrom lo m = true → lo ≤ a → cellsFrom lo (setCell m a b) = true := by
  have weaken : ∀ (m : List Host.Cell) lo lo', cellsFrom lo m = true → lo' ≤ lo → cellsFrom lo' m = true := by
    intro m lo lo' h hl
    cases m with
    | nil => rfl
    | cons e r =>
      obtain ⟨a', b'⟩ := e
      simp only [cellsFrom, Bool.and_eq_true, decide_eq_true_eq] at h ⊢
      exact ⟨⟨by omega, h.1.2⟩, h.2⟩
  induction m with
  | nil =>
    intro lo _ hl
    unfold setCell
    split
    · rfl
    · simp_all [cellsFrom]
  | cons e r ih =>
    intro lo h hl
    obtain ⟨a', b'⟩ := e
    have h0 := h
    simp only [cellsFrom, Bool.and_eq_true, decide_eq_true_eq] at h
    unfold setCell
    split
    · split
      · exact h0
      · next hb =>
        simp only [cellsFrom, Bool.and_eq_true, decide_eq_true_eq]
        exact ⟨⟨hl, by simpa using hb⟩, ⟨by omega, h.1.2⟩, h.2⟩
    · split
      · next h1 h2 =>
        subst h2
        split
        · exact weaken r _ _ h.2 (by omega)
        · next hb =>
          simp only [cellsFrom, Bool.and_eq_true, decide_eq_true_eq]
          exact ⟨⟨hl, by simpa using hb⟩, h.2⟩
      · next h1 h2 =>
        simp only [cellsFrom, Bool.and_eq_true, decide_eq_true_eq]
        exact ⟨h.1, ih _ h.2 (by omega)⟩

theorem wf_setCell (m : List Host.Cell) (a : Nat) (b : Byte) (h : Memory.wf m = true) : Memory.wf (setCell m a b) = true :=
  cellsFrom_setCell m a b 0 h (Nat.zero_le _)

theorem wf_setCells (bs : List Byte) : ∀ (m : List Host.Cell) (a : Nat), Memory.wf m = true → Memory.wf (setCells m a bs) = true := by
  induction bs with
  | nil => intro m a h; exact h
  | cons b r ih => intro m a h; exact ih _ _ (wf_setCell m a b h)

/-- Bytes written in a fold, each where its index says. -/
theorem wf_foldl {α : Type} (f : List Host.Cell → α → List Host.Cell) (hf : ∀ m x, Memory.wf m = true → Memory.wf (f m x) = true)
    (xs : List α) : ∀ m, Memory.wf m = true → Memory.wf (xs.foldl f m) = true := by
  induction xs with
  | nil => intro m h; exact h
  | cons x r ih => intro m h; exact ih _ (hf m x h)

theorem cell_setCells_lo (bs : List Byte) : ∀ (m : List Host.Cell) (a x : Nat), x < a → cell (setCells m a bs) x = cell m x := by
  induction bs with
  | nil => intros; rfl
  | cons b r ih =>
    intro m a x h
    show cell (setCells (setCell m a b) (a + 1) r) x = _
    rw [ih _ _ _ (by omega), cell_setCell_ne _ _ _ (by omega)]

theorem cell_setCells_hi (bs : List Byte) : ∀ (m : List Host.Cell) (a x : Nat), a + bs.length ≤ x →
    cell (setCells m a bs) x = cell m x := by
  induction bs with
  | nil => intros; rfl
  | cons b r ih =>
    intro m a x h
    simp only [List.length_cons] at h
    show cell (setCells (setCell m a b) (a + 1) r) x = _
    rw [ih _ _ _ (by omega), cell_setCell_ne _ _ _ (by omega)]

theorem cell_setCells (bs : List Byte) : ∀ (m : List Host.Cell) (a k : Nat), Memory.wf m = true → (h : k < bs.length) →
    cell (setCells m a bs) (a + k) = bs[k] := by
  induction bs with
  | nil => intro _ _ _ _ h; exact absurd h (Nat.not_lt_zero _)
  | cons b r ih =>
    intro m a k hm h
    show cell (setCells (setCell m a b) (a + 1) r) (a + k) = _
    cases k with
    | zero => rw [cell_setCells_lo _ _ _ _ (by omega)]; exact cell_setCell_self m a b hm
    | succ k =>
      have e : a + (k + 1) = a + 1 + k := by omega
      rw [e, ih _ _ _ (wf_setCell m a b hm) (by simpa using h)]
      rfl

/-! ## The operations on the machine's memories -/

@[simp] theorem State.staleFills_mem (s : State) (core ctx : Nat) (p : Nat → Bool) : (s.staleFills core ctx p).mem = s.mem := by
  unfold State.staleFills State.invalidateAll; simp only; split <;> rfl

/-- Keeping fills out of an L1 leaves package memory alone. -/
@[simp] theorem State.noInstall_mem (s : State) (core ctx : Nat) (p : Nat → Bool) : (s.noInstall core ctx p).mem = s.mem := by
  unfold State.noInstall; simp only
  split
  · exact State.staleFills_mem ..
  · exact (State.staleFills_mem ..).trans rfl

@[simp] theorem State.dropClean_mem (s : State) (core ctx line : Nat) : (s.dropClean core ctx line).mem = s.mem :=
  (State.noInstall_mem ..).trans rfl

@[simp] theorem State.hitWatch_mem (s : State) (w : Watch) : (s.hitWatch w).mem = s.mem := by
  unfold State.hitWatch; simp only
  split
  · rfl
  · exact (State.dropClean_mem ..).trans rfl

@[simp] theorem State.written_mem (s : State) (bank : Bool) (ctx line : Nat) (w : Option Nat) :
    (s.written bank ctx line w).mem = s.mem := by
  have H : ∀ (l : List Watch) (t : State), (l.foldl State.hitWatch t).mem = t.mem := by
    intro l
    induction l with
    | nil => intro t; rfl
    | cons x r ih => intro t; rw [List.foldl_cons, ih, State.hitWatch_mem]
  exact H _ _

@[simp] theorem State.setSpad_mem (s : State) (core p : Nat) (bs : List Byte) (w : Option Nat) :
    (s.setSpad core p bs w).mem = s.mem := by
  have H : ∀ (l : List Nat) (t : State), (l.foldl (fun s i => s.written true 0 (2048 * core + p / 128 + i) w) t).mem = t.mem := by
    intro l
    induction l with
    | nil => intro t; rfl
    | cons x r ih => intro t; rw [List.foldl_cons, ih, State.written_mem]
  exact H _ _

@[simp] theorem State.touchPins_mem (s : State) (ctx va : Nat) : (s.touchPins ctx va).mem = s.mem := by
  unfold State.touchPins; simp only; split <;> rfl

/-- The dirty bytes of an LLC line go below in the canonical form. -/
theorem State.cleanLlc_wf (s : State) (ctx line : Nat) (h : s.MemOk) : (s.cleanLlc ctx line).MemOk := by
  have go (l : LlcLine) (pa : Nat) : Memory.wf ((List.range 128).foldl
      (fun m i => if l.dirty.getLsbD i then setCell m (pa + i) (l.data.getD i 0) else m) s.mem) = true := by
    refine wf_foldl _ ?_ _ _ h
    intro m i hm
    split
    · exact wf_setCell _ _ _ hm
    · exact hm
  unfold State.cleanLlc
  split
  · next l e _ _ =>
    split
    · exact h
    · have := go l (leafPa e (128 * line))
      simp only
      split
      · exact this
      · rw [State.MemOk, State.touchPins_mem]; exact this
  · exact h

end Sys2Proof.Machine
end

