-- ==== Sys2Proof/Laws/Ops.lean ====
section
/-! SUPPORT. Laws of the shared operations: what the frame of a word answers, what a posted result and a landed one
change. -/

namespace Sys2Proof.Machine

/-! ## The frame of a word -/

/-- A word that is ready runs with its own effect. -/
theorem word_ready {s : State} {c : Cursor} {i : Instr} (h : Ready s c i) (f : Cursor → State → State) :
    word i s f = .next (f c (s.noted c i)) := by
  unfold word State.noted
  rw [h.cursor]
  simp only [h.going, h.legal, Bool.false_eq_true, if_false]
  cases hr : (s.grp c.grp).tryR with
  | none => rfl
  | some r => simp [h.allowed r hr]

/-- All that a word can do at a cursor: nothing in a bundle that has ended, a class I cause, an abort of the open region,
or its own effect. -/
theorem word_cases {s : State} {i : Instr} {f : Cursor → State → State} {t : State} (h : word i s f = .next t) :
    ∃ c, s.cursor = some c ∧
      ((c.void = true ∧ t = s) ∨
       (∃ k info, s.issueCause c.grp c.slotB c.lit c.raw i = some (k, info) ∧ t = s.raiseIssue c k info) ∨
       (∃ r code cause, (s.grp c.grp).tryR = some r ∧ r.stops i = some (code, cause) ∧ t = s.abortTry c.grp code cause 0) ∨
       (Ready s c i ∧ t = f c (s.noted c i))) := by
  unfold word at h
  split at h
  · cases h
  · next c hc =>
    refine ⟨c, hc, ?_⟩
    split at h
    · next hv => cases h; exact .inl ⟨hv, rfl⟩
    · next hv =>
      split at h
      · next k info hk => cases h; exact .inr (.inl ⟨k, info, hk, rfl⟩)
      · next hk =>
        split at h
        · next hr =>
          cases h
          refine .inr (.inr (.inr ⟨⟨hc, by simpa using hv, hk, by simp [hr]⟩, ?_⟩))
          simp [State.noted, hr]
        · next r hr =>
          split at h
          · next code cause hs => cases h; exact .inr (.inr (.inl ⟨r, code, cause, hr, hs, rfl⟩))
          · next hs =>
            cases h
            refine .inr (.inr (.inr ⟨⟨hc, by simpa using hv, hk, ?_⟩, by simp [State.noted, hr]⟩))
            intro r' hr'
            rw [hr] at hr'
            cases hr'
            exact hs

/-- A word stops with a fault only where no slot has issued it. -/
theorem word_safe {s : State} {i : Instr} {f : Cursor → State → State} (h : s.cursor ≠ none) : Safe (word i s f) := by
  unfold word
  split
  · contradiction
  · split
    · exact ⟨_, rfl⟩
    · split
      · exact ⟨_, rfl⟩
      · split
        · exact ⟨_, rfl⟩
        · split <;> exact ⟨_, rfl⟩

/-! ## What an open region notes -/

/-- Noting a word touches the region's record alone. -/
theorem State.noted_grp (s : State) (c : Cursor) (i : Instr) (g : Nat) :
    (s.noted c i).grp g = { s.grp g with tryR := ((s.noted c i).grp g).tryR } := by
  unfold State.noted State.noteCombine
  split
  · split
    · by_cases h : g = c.grp
      · subst h; simp
      · simp [State.modGrp_grp_ne _ _ _ h]
    · rfl
  · rfl

theorem State.noted_groups (s : State) (c : Cursor) (i : Instr) : s.noted c i = { s with groups := (s.noted c i).groups } := by
  unfold State.noted State.noteCombine
  split
  · split <;> rfl
  · rfl

@[simp] theorem State.noted_closed (s : State) (c : Cursor) (i : Instr) (h : (s.grp c.grp).tryR = none) :
    s.noted c i = s := by simp [State.noted, h]

@[simp] theorem State.noted_v (s : State) (c : Cursor) (i : Instr) (g n l : Nat) :
    ((s.noted c i).grp g).v n l = (s.grp g).v n l := by rw [State.noted_grp]; rfl
@[simp] theorem State.noted_vp (s : State) (c : Cursor) (i : Instr) (g n l : Nat) :
    ((s.noted c i).grp g).vp n l = (s.grp g).vp n l := by rw [State.noted_grp]; rfl
@[simp] theorem State.noted_s (s : State) (c : Cursor) (i : Instr) (g : Nat) (b : Bool) (n : Nat) :
    ((s.noted c i).grp g).s b n = (s.grp g).s b n := by rw [State.noted_grp]; rfl
@[simp] theorem State.noted_sp (s : State) (c : Cursor) (i : Instr) (g : Nat) (b : Bool) (n : Nat) :
    ((s.noted c i).grp g).sp b n = (s.grp g).sp b n := by rw [State.noted_grp]; rfl
@[simp] theorem State.noted_sc (s : State) (c : Cursor) (i : Instr) (g : Nat) (b : Bool) (n : Nat) :
    ((s.noted c i).grp g).sc b n = (s.grp g).sc b n := by rw [State.noted_grp]; rfl
@[simp] theorem State.noted_scp (s : State) (c : Cursor) (i : Instr) (g : Nat) (b : Bool) (n : Nat) :
    ((s.noted c i).grp g).scp b n = (s.grp g).scp b n := by rw [State.noted_grp]; rfl
@[simp] theorem State.noted_q (s : State) (c : Cursor) (i : Instr) (g : Nat) (b : Bool) (n : Nat) :
    ((s.noted c i).grp g).q b n = (s.grp g).q b n := by rw [State.noted_grp]; rfl
@[simp] theorem State.noted_slot (s : State) (c : Cursor) (i : Instr) (g : Nat) (b : Bool) :
    ((s.noted c i).grp g).slot b = (s.grp g).slot b := by rw [State.noted_grp]; rfl
@[simp] theorem State.noted_regs (s : State) (c : Cursor) (i : Instr) (g : Nat) :
    ((s.noted c i).grp g).regs = (s.grp g).regs := by rw [State.noted_grp]
@[simp] theorem State.noted_cursor (s : State) (c : Cursor) (i : Instr) : (s.noted c i).cursor = s.cursor := by
  rw [State.noted_groups]
@[simp] theorem State.noted_mem (s : State) (c : Cursor) (i : Instr) : (s.noted c i).mem = s.mem := by
  rw [State.noted_groups]

/-! ## Touches of pinned windows (R233) -/

theorem OnlyPins.refl (s : State) : OnlyPins s s := ⟨rfl, fun _ => rfl⟩

theorem OnlyPins.trans {s t u : State} (h : OnlyPins s t) (k : OnlyPins t u) : OnlyPins s u :=
  ⟨by rw [k.1, h.1], fun n => by rw [k.2, h.2]⟩

theorem OnlyPins.foldl {α : Type} {f : State → α → State} (h : ∀ s a, OnlyPins s (f s a)) (l : List α) :
    ∀ s, OnlyPins s (l.foldl f s) := by
  induction l with
  | nil => exact OnlyPins.refl
  | cons a l ih => exact fun s => (h s a).trans (ih _)

theorem State.touchPins_pins (s : State) (ctx va : Nat) : OnlyPins s (s.touchPins ctx va) := by
  unfold State.touchPins
  extract_lets c f
  split
  · refine ⟨rfl, fun k => ?_⟩
    by_cases hk : k = ctx
    · subst hk; rw [State.setCtx_ctx]
    · rw [State.setCtx_ctx_ne _ _ _ hk]
  · exact OnlyPins.refl s

theorem State.touchRead_pins (s : State) (ctx va n : Nat) : OnlyPins s (s.touchRead ctx va n) :=
  OnlyPins.foldl (fun s i => by
    dsimp only
    split
    · split
      · exact State.touchPins_pins ..
      · exact OnlyPins.refl s
    · exact OnlyPins.refl s) _ s

theorem State.seenAt_pins (s : State) (g va n : Nat) : OnlyPins s (s.seenAt g va n) :=
  OnlyPins.foldl (fun s l => by
    split
    · exact OnlyPins.refl s
    · exact State.touchRead_pins ..) _ s

theorem State.seenCard_pins (s : State) (g : Nat) (c : Card) : OnlyPins s (s.seenCard g c) := by
  unfold State.seenCard
  extract_lets va
  split <;> split <;> first | exact State.seenAt_pins .. | exact OnlyPins.refl s

/-! ## Posted results -/

/-- A posted result joins the group's outstanding results, unless it is of no lane (R18); an open region keeps the old value of a vector
register that it sees written for the first time (R143), and a scalar's number is noted for its slot (R19). -/
theorem Group.post_eq (g : Group) (x : Result) :
    g.post x = { g with out := (g.post x).out, tryR := (g.post x).tryR, wroteA := (g.post x).wroteA, wroteB := (g.post x).wroteB } := by
  unfold Group.post
  split
  · rfl
  · split <;> rfl

@[simp] theorem Group.post_regs (g : Group) (x : Result) : (g.post x).regs = g.regs := by rw [Group.post_eq]
@[simp] theorem Group.post_v (g : Group) (x : Result) (n l : Nat) : (g.post x).v n l = g.v n l := by
  rw [Group.post_eq]; rfl
@[simp] theorem Group.post_out (g : Group) (x : Result) : (g.post x).out = if x.mask = 0 then g.out else g.out ++ [x] := by
  unfold Group.post
  by_cases h : x.mask = 0
  · simp [h]
  · simp only [h, beq_iff_eq, if_false]
    split <;> rfl
@[simp] theorem Group.post_trap (g : Group) (x : Result) : (g.post x).trap = g.trap := by rw [Group.post_eq]
@[simp] theorem Group.post_priv (g : Group) (x : Result) : (g.post x).priv = g.priv := by rw [Group.post_eq]

theorem State.posting_nil (s : State) (g : Nat) : s.posting g [] = s := rfl
theorem State.posting_cons (s : State) (g : Nat) (r : Result) (rs : List Result) :
    s.posting g (r :: rs) = (s.postR g r).posting g rs := rfl

/-- Posting changes nothing but the outstanding results and the region's notes. -/
theorem State.posting_onlyResults (rs : List Result) : ∀ (s : State) (g : Nat), OnlyResults g s (s.posting g rs) := by
  induction rs with
  | nil => intro s g; exact ⟨⟨rfl, fun _ _ => rfl⟩, rfl⟩
  | cons r rs ih =>
    intro s g
    have h := ih (s.postR g r) g
    rw [State.posting_cons]
    refine ⟨⟨?_, ?_⟩, ?_⟩
    · rw [h.1.1]; rfl
    · intro k hk
      rw [h.1.2 k hk]
      exact State.modGrp_grp_ne _ _ _ hk
    · have e : (s.postR g r).grp g = (s.grp g).post r := State.modGrp_grp ..
      rw [h.2, e, Group.post_eq]

theorem State.posting_out (rs : List Result) :
    ∀ (s : State) (g : Nat), ((s.posting g rs).grp g).out = (s.grp g).out ++ rs.filter fun r => r.mask != 0 := by
  induction rs with
  | nil => intro s g; simp [State.posting]
  | cons r rs ih =>
    intro s g
    have e : (s.postR g r).grp g = (s.grp g).post r := State.modGrp_grp ..
    rw [State.posting_cons, ih, e, Group.post_out]
    by_cases h : r.mask = 0
    · simp [h]
    · rw [if_neg h, List.filter_cons_of_pos (by simpa using h), List.append_assoc, List.singleton_append]

end Sys2Proof.Machine
end

