-- ==== Sys2Proof/Laws/PerInstr.lean ====
section
/-! SUPPORT. Statements about each instruction as syntax. `BodyFits`: the encoded fields of an instruction lie in bits 29
to 0 of its word, below the chain bit and the sync marker (R26). -/

namespace Sys2Proof.Laws

/-- The fields of the instruction fit below the chain bit and the sync marker. -/
def BodyFits.Statement (i : Instr) : Prop := i.body < 1073741824

/-! ## Codes of the enumerated fields -/

theorem cond_code (x : Cond) : x.code < 8 := by cases x <;> decide
theorem fcond_code (x : FCond) : x.code < 8 := by cases x <;> decide
theorem rm_code (x : Rm) : x.code < 8 := by cases x <;> decide
theorem space_code (x : Space) : x.code < 4 := by cases x <;> decide
theorem size_code (x : Size) : x.code < 8 := by cases x <;> decide
theorem aop_code (x : AOp) : x.code < 8 := by cases x <;> decide
theorem xop_code (x : XOp) : x.code < 8 := by cases x <;> decide
theorem rop_code (x : ROp) : x.code < 8 := by cases x <;> decide
theorem level_code (x : Level) : x.code < 4 := by cases x <;> decide
theorem fkind_code (x : FKind) : x.code < 4 := by cases x <;> decide
theorem scope_code (x : Scope) : x.code < 8 := by cases x <;> decide

namespace BodyFits

theorem iadd (d : BitVec 7) (a : BitVec 7) (b : BitVec 7) : Statement (.iadd d a b) := by have := d.isLt; have := a.isLt; have := b.isLt; show 0x01000000 + d.toNat * 131072 + a.toNat * 1024 + b.toNat * 8 < _; omega
theorem isub (d : BitVec 7) (a : BitVec 7) (b : BitVec 7) : Statement (.isub d a b) := by have := d.isLt; have := a.isLt; have := b.isLt; show 0x01000001 + d.toNat * 131072 + a.toNat * 1024 + b.toNat * 8 < _; omega
theorem imul (d : BitVec 7) (a : BitVec 7) (b : BitVec 7) : Statement (.imul d a b) := by have := d.isLt; have := a.isLt; have := b.isLt; show 0x01000002 + d.toNat * 131072 + a.toNat * 1024 + b.toNat * 8 < _; omega
theorem imulh (d : BitVec 7) (a : BitVec 7) (b : BitVec 7) : Statement (.imulh d a b) := by have := d.isLt; have := a.isLt; have := b.isLt; show 0x01000003 + d.toNat * 131072 + a.toNat * 1024 + b.toNat * 8 < _; omega
theorem imulhn (d : BitVec 7) (a : BitVec 7) (b : BitVec 7) : Statement (.imulhn d a b) := by have := d.isLt; have := a.isLt; have := b.isLt; show 0x01000004 + d.toNat * 131072 + a.toNat * 1024 + b.toNat * 8 < _; omega
theorem imin (d : BitVec 7) (a : BitVec 7) (b : BitVec 7) : Statement (.imin d a b) := by have := d.isLt; have := a.isLt; have := b.isLt; show 0x01000005 + d.toNat * 131072 + a.toNat * 1024 + b.toNat * 8 < _; omega
theorem imax (d : BitVec 7) (a : BitVec 7) (b : BitVec 7) : Statement (.imax d a b) := by have := d.isLt; have := a.isLt; have := b.isLt; show 0x01000006 + d.toNat * 131072 + a.toNat * 1024 + b.toNat * 8 < _; omega
theorem iabsd (d : BitVec 7) (a : BitVec 7) (b : BitVec 7) : Statement (.iabsd d a b) := by have := d.isLt; have := a.isLt; have := b.isLt; show 0x01000007 + d.toNat * 131072 + a.toNat * 1024 + b.toNat * 8 < _; omega
theorem and (d : BitVec 7) (a : BitVec 7) (b : BitVec 7) : Statement (.and d a b) := by have := d.isLt; have := a.isLt; have := b.isLt; show 0x02000000 + d.toNat * 131072 + a.toNat * 1024 + b.toNat * 8 < _; omega
theorem or (d : BitVec 7) (a : BitVec 7) (b : BitVec 7) : Statement (.or d a b) := by have := d.isLt; have := a.isLt; have := b.isLt; show 0x02000001 + d.toNat * 131072 + a.toNat * 1024 + b.toNat * 8 < _; omega
theorem xor (d : BitVec 7) (a : BitVec 7) (b : BitVec 7) : Statement (.xor d a b) := by have := d.isLt; have := a.isLt; have := b.isLt; show 0x02000002 + d.toNat * 131072 + a.toNat * 1024 + b.toNat * 8 < _; omega
theorem andn (d : BitVec 7) (a : BitVec 7) (b : BitVec 7) : Statement (.andn d a b) := by have := d.isLt; have := a.isLt; have := b.isLt; show 0x02000003 + d.toNat * 131072 + a.toNat * 1024 + b.toNat * 8 < _; omega
theorem shl (d : BitVec 7) (a : BitVec 7) (b : BitVec 7) : Statement (.shl d a b) := by have := d.isLt; have := a.isLt; have := b.isLt; show 0x02000004 + d.toNat * 131072 + a.toNat * 1024 + b.toNat * 8 < _; omega
theorem shr (d : BitVec 7) (a : BitVec 7) (b : BitVec 7) : Statement (.shr d a b) := by have := d.isLt; have := a.isLt; have := b.isLt; show 0x02000005 + d.toNat * 131072 + a.toNat * 1024 + b.toNat * 8 < _; omega
theorem sar (d : BitVec 7) (a : BitVec 7) (b : BitVec 7) : Statement (.sar d a b) := by have := d.isLt; have := a.isLt; have := b.isLt; show 0x02000006 + d.toNat * 131072 + a.toNat * 1024 + b.toNat * 8 < _; omega
theorem rotl (d : BitVec 7) (a : BitVec 7) (b : BitVec 7) : Statement (.rotl d a b) := by have := d.isLt; have := a.isLt; have := b.isLt; show 0x02000007 + d.toNat * 131072 + a.toNat * 1024 + b.toNat * 8 < _; omega
theorem iminn (d : BitVec 7) (a : BitVec 7) (b : BitVec 7) : Statement (.iminn d a b) := by have := d.isLt; have := a.isLt; have := b.isLt; show 0x03000000 + d.toNat * 131072 + a.toNat * 1024 + b.toNat * 8 < _; omega
theorem imaxn (d : BitVec 7) (a : BitVec 7) (b : BitVec 7) : Statement (.imaxn d a b) := by have := d.isLt; have := a.isLt; have := b.isLt; show 0x03000001 + d.toNat * 131072 + a.toNat * 1024 + b.toNat * 8 < _; omega
theorem popc (d : BitVec 7) (a : BitVec 7) : Statement (.popc d a) := by have := d.isLt; have := a.isLt; show 0x03000002 + d.toNat * 131072 + a.toNat * 1024 < _; omega
theorem clz (d : BitVec 7) (a : BitVec 7) : Statement (.clz d a) := by have := d.isLt; have := a.isLt; show 0x03000003 + d.toNat * 131072 + a.toNat * 1024 < _; omega
theorem brev (d : BitVec 7) (a : BitVec 7) : Statement (.brev d a) := by have := d.isLt; have := a.isLt; show 0x03000004 + d.toNat * 131072 + a.toNat * 1024 < _; omega
theorem bfx (d : BitVec 7) (a : BitVec 7) (b : BitVec 7) : Statement (.bfx d a b) := by have := d.isLt; have := a.isLt; have := b.isLt; show 0x03000005 + d.toNat * 131072 + a.toNat * 1024 + b.toNat * 8 < _; omega
theorem bfi (d : BitVec 7) (a : BitVec 7) (b : BitVec 7) : Statement (.bfi d a b) := by have := d.isLt; have := a.isLt; have := b.isLt; show 0x03000006 + d.toNat * 131072 + a.toNat * 1024 + b.toNat * 8 < _; omega
theorem prmt (d : BitVec 7) (a : BitVec 7) (b : BitVec 7) : Statement (.prmt d a b) := by have := d.isLt; have := a.isLt; have := b.isLt; show 0x03000007 + d.toNat * 131072 + a.toNat * 1024 + b.toNat * 8 < _; omega
theorem iaddi (d : BitVec 7) (a : BitVec 7) (i : BitVec 8) : Statement (.iaddi d a i) := by have := d.isLt; have := a.isLt; have := i.isLt; show 0x04000000 + d.toNat * 131072 + a.toNat * 1024 + i.toNat < _; omega
theorem andi (d : BitVec 7) (a : BitVec 7) (i : BitVec 8) : Statement (.andi d a i) := by have := d.isLt; have := a.isLt; have := i.isLt; show 0x04000100 + d.toNat * 131072 + a.toNat * 1024 + i.toNat < _; omega
theorem ori (d : BitVec 7) (a : BitVec 7) (i : BitVec 8) : Statement (.ori d a i) := by have := d.isLt; have := a.isLt; have := i.isLt; show 0x04000200 + d.toNat * 131072 + a.toNat * 1024 + i.toNat < _; omega
theorem xori (d : BitVec 7) (a : BitVec 7) (i : BitVec 8) : Statement (.xori d a i) := by have := d.isLt; have := a.isLt; have := i.isLt; show 0x04000300 + d.toNat * 131072 + a.toNat * 1024 + i.toNat < _; omega
theorem shli (d : BitVec 7) (a : BitVec 7) (i : BitVec 8) : Statement (.shli d a i) := by have := d.isLt; have := a.isLt; have := i.isLt; show 0x05000000 + d.toNat * 131072 + a.toNat * 1024 + i.toNat < _; omega
theorem shri (d : BitVec 7) (a : BitVec 7) (i : BitVec 8) : Statement (.shri d a i) := by have := d.isLt; have := a.isLt; have := i.isLt; show 0x05000100 + d.toNat * 131072 + a.toNat * 1024 + i.toNat < _; omega
theorem sari (d : BitVec 7) (a : BitVec 7) (i : BitVec 8) : Statement (.sari d a i) := by have := d.isLt; have := a.isLt; have := i.isLt; show 0x05000200 + d.toNat * 131072 + a.toNat * 1024 + i.toNat < _; omega
theorem imuli (d : BitVec 7) (a : BitVec 7) (i : BitVec 8) : Statement (.imuli d a i) := by have := d.isLt; have := a.isLt; have := i.isLt; show 0x05000300 + d.toNat * 131072 + a.toNat * 1024 + i.toNat < _; omega
theorem icmp (d : BitVec 7) (a : BitVec 7) (b : BitVec 7) (k : Cond) : Statement (.icmp d a b k) := by have := d.isLt; have := a.isLt; have := b.isLt; have := cond_code k; show 0x06000000 + d.toNat * 131072 + a.toNat * 1024 + b.toNat * 8 + k.code < _; omega
theorem sel (d : BitVec 6) (a : BitVec 6) (b : BitVec 6) (q : BitVec 6) : Statement (.sel d a b q) := by have := d.isLt; have := a.isLt; have := b.isLt; have := q.isLt; show 0x07000000 + d.toNat * 262144 + a.toNat * 4096 + b.toNat * 64 + q.toNat < _; omega
theorem mov (d : BitVec 7) (a : BitVec 7) : Statement (.mov d a) := by have := d.isLt; have := a.isLt; show 0x08000000 + d.toNat * 131072 + a.toNat * 1024 < _; omega
theorem vbc (d : BitVec 7) (a : BitVec 7) : Statement (.vbc d a) := by have := d.isLt; have := a.isLt; show 0x08000001 + d.toNat * 131072 + a.toNat * 1024 < _; omega
theorem vtos (d : BitVec 7) (a : BitVec 7) (n : BitVec 7) : Statement (.vtos d a n) := by have := d.isLt; have := a.isLt; have := n.isLt; show 0x08000002 + d.toNat * 131072 + a.toNat * 1024 + n.toNat * 8 < _; omega
theorem lane (d : BitVec 7) : Statement (.lane d) := by have := d.isLt; show 0x08000003 + d.toNat * 131072 < _; omega
theorem shfl (d : BitVec 7) (a : BitVec 7) (b : BitVec 7) : Statement (.shfl d a b) := by have := d.isLt; have := a.isLt; have := b.isLt; show 0x08000004 + d.toNat * 131072 + a.toNat * 1024 + b.toNat * 8 < _; omega
theorem shflx (d : BitVec 7) (a : BitVec 7) (b : BitVec 7) : Statement (.shflx d a b) := by have := d.isLt; have := a.isLt; have := b.isLt; show 0x08000005 + d.toNat * 131072 + a.toNat * 1024 + b.toNat * 8 < _; omega
theorem shflup (d : BitVec 7) (a : BitVec 7) (b : BitVec 7) : Statement (.shflup d a b) := by have := d.isLt; have := a.isLt; have := b.isLt; show 0x08000006 + d.toNat * 131072 + a.toNat * 1024 + b.toNat * 8 < _; omega
theorem shfldn (d : BitVec 7) (a : BitVec 7) (b : BitVec 7) : Statement (.shfldn d a b) := by have := d.isLt; have := a.isLt; have := b.isLt; show 0x08000007 + d.toNat * 131072 + a.toNat * 1024 + b.toNat * 8 < _; omega
theorem redadd (d : BitVec 7) (a : BitVec 7) : Statement (.redadd d a) := by have := d.isLt; have := a.isLt; show 0x09000000 + d.toNat * 131072 + a.toNat * 1024 < _; omega
theorem redmin (d : BitVec 7) (a : BitVec 7) : Statement (.redmin d a) := by have := d.isLt; have := a.isLt; show 0x09000001 + d.toNat * 131072 + a.toNat * 1024 < _; omega
theorem redmax (d : BitVec 7) (a : BitVec 7) : Statement (.redmax d a) := by have := d.isLt; have := a.isLt; show 0x09000002 + d.toNat * 131072 + a.toNat * 1024 < _; omega
theorem redor (d : BitVec 7) (a : BitVec 7) : Statement (.redor d a) := by have := d.isLt; have := a.isLt; show 0x09000003 + d.toNat * 131072 + a.toNat * 1024 < _; omega
theorem scanadd (d : BitVec 7) (a : BitVec 7) : Statement (.scanadd d a) := by have := d.isLt; have := a.isLt; show 0x09000004 + d.toNat * 131072 + a.toNat * 1024 < _; omega
theorem scanaddx (d : BitVec 7) (a : BitVec 7) : Statement (.scanaddx d a) := by have := d.isLt; have := a.isLt; show 0x09000005 + d.toNat * 131072 + a.toNat * 1024 < _; omega
theorem matchLead (d : BitVec 7) (a : BitVec 7) : Statement (.matchLead d a) := by have := d.isLt; have := a.isLt; show 0x09000006 + d.toNat * 131072 + a.toNat * 1024 < _; omega
theorem matchCount (d : BitVec 7) (a : BitVec 7) : Statement (.matchCount d a) := by have := d.isLt; have := a.isLt; show 0x09000007 + d.toNat * 131072 + a.toNat * 1024 < _; omega
theorem sadd (d : BitVec 7) (a : BitVec 7) (b : BitVec 7) : Statement (.sadd d a b) := by have := d.isLt; have := a.isLt; have := b.isLt; show 0x0A000000 + d.toNat * 131072 + a.toNat * 1024 + b.toNat * 8 < _; omega
theorem ssub (d : BitVec 7) (a : BitVec 7) (b : BitVec 7) : Statement (.ssub d a b) := by have := d.isLt; have := a.isLt; have := b.isLt; show 0x0A000001 + d.toNat * 131072 + a.toNat * 1024 + b.toNat * 8 < _; omega
theorem smul (d : BitVec 7) (a : BitVec 7) (b : BitVec 7) : Statement (.smul d a b) := by have := d.isLt; have := a.isLt; have := b.isLt; show 0x0A000002 + d.toNat * 131072 + a.toNat * 1024 + b.toNat * 8 < _; omega
theorem sand (d : BitVec 7) (a : BitVec 7) (b : BitVec 7) : Statement (.sand d a b) := by have := d.isLt; have := a.isLt; have := b.isLt; show 0x0A000003 + d.toNat * 131072 + a.toNat * 1024 + b.toNat * 8 < _; omega
theorem sor (d : BitVec 7) (a : BitVec 7) (b : BitVec 7) : Statement (.sor d a b) := by have := d.isLt; have := a.isLt; have := b.isLt; show 0x0A000004 + d.toNat * 131072 + a.toNat * 1024 + b.toNat * 8 < _; omega
theorem sxor (d : BitVec 7) (a : BitVec 7) (b : BitVec 7) : Statement (.sxor d a b) := by have := d.isLt; have := a.isLt; have := b.isLt; show 0x0A000005 + d.toNat * 131072 + a.toNat * 1024 + b.toNat * 8 < _; omega
theorem sshl (d : BitVec 7) (a : BitVec 7) (b : BitVec 7) : Statement (.sshl d a b) := by have := d.isLt; have := a.isLt; have := b.isLt; show 0x0A000006 + d.toNat * 131072 + a.toNat * 1024 + b.toNat * 8 < _; omega
theorem sshr (d : BitVec 7) (a : BitVec 7) (b : BitVec 7) : Statement (.sshr d a b) := by have := d.isLt; have := a.isLt; have := b.isLt; show 0x0A000007 + d.toNat * 131072 + a.toNat * 1024 + b.toNat * 8 < _; omega
theorem saddi (d : BitVec 7) (a : BitVec 7) (i : BitVec 8) : Statement (.saddi d a i) := by have := d.isLt; have := a.isLt; have := i.isLt; show 0x0B000000 + d.toNat * 131072 + a.toNat * 1024 + i.toNat < _; omega
theorem sandi (d : BitVec 7) (a : BitVec 7) (i : BitVec 8) : Statement (.sandi d a i) := by have := d.isLt; have := a.isLt; have := i.isLt; show 0x0B000100 + d.toNat * 131072 + a.toNat * 1024 + i.toNat < _; omega
theorem sori (d : BitVec 7) (a : BitVec 7) (i : BitVec 8) : Statement (.sori d a i) := by have := d.isLt; have := a.isLt; have := i.isLt; show 0x0B000200 + d.toNat * 131072 + a.toNat * 1024 + i.toNat < _; omega
theorem sshli (d : BitVec 7) (a : BitVec 7) (i : BitVec 8) : Statement (.sshli d a i) := by have := d.isLt; have := a.isLt; have := i.isLt; show 0x0B000300 + d.toNat * 131072 + a.toNat * 1024 + i.toNat < _; omega
theorem scmp (d : BitVec 7) (a : BitVec 7) (b : BitVec 7) (k : Cond) : Statement (.scmp d a b k) := by have := d.isLt; have := a.isLt; have := b.isLt; have := cond_code k; show 0x0C000000 + d.toNat * 131072 + a.toNat * 1024 + b.toNat * 8 + k.code < _; omega
theorem sadd64 (d : BitVec 7) (a : BitVec 7) (b : BitVec 7) : Statement (.sadd64 d a b) := by have := d.isLt; have := a.isLt; have := b.isLt; show 0x0D000000 + d.toNat * 131072 + a.toNat * 1024 + b.toNat * 8 < _; omega
theorem ssub64 (d : BitVec 7) (a : BitVec 7) (b : BitVec 7) : Statement (.ssub64 d a b) := by have := d.isLt; have := a.isLt; have := b.isLt; show 0x0D000001 + d.toNat * 131072 + a.toNat * 1024 + b.toNat * 8 < _; omega
theorem iadd64 (d : BitVec 7) (a : BitVec 7) (b : BitVec 7) : Statement (.iadd64 d a b) := by have := d.isLt; have := a.isLt; have := b.isLt; show 0x0D000002 + d.toNat * 131072 + a.toNat * 1024 + b.toNat * 8 < _; omega
theorem isub64 (d : BitVec 7) (a : BitVec 7) (b : BitVec 7) : Statement (.isub64 d a b) := by have := d.isLt; have := a.isLt; have := b.isLt; show 0x0D000003 + d.toNat * 131072 + a.toNat * 1024 + b.toNat * 8 < _; omega
theorem isext (d : BitVec 7) (a : BitVec 7) : Statement (.isext d a) := by have := d.isLt; have := a.isLt; show 0x0D000004 + d.toNat * 131072 + a.toNat * 1024 < _; omega
theorem izext (d : BitVec 7) (a : BitVec 7) : Statement (.izext d a) := by have := d.isLt; have := a.isLt; show 0x0D000005 + d.toNat * 131072 + a.toNat * 1024 < _; omega
theorem imulw (d : BitVec 7) (a : BitVec 7) (b : BitVec 7) : Statement (.imulw d a b) := by have := d.isLt; have := a.isLt; have := b.isLt; show 0x0D000006 + d.toNat * 131072 + a.toNat * 1024 + b.toNat * 8 < _; omega
theorem imulwn (d : BitVec 7) (a : BitVec 7) (b : BitVec 7) : Statement (.imulwn d a b) := by have := d.isLt; have := a.isLt; have := b.isLt; show 0x0D000007 + d.toNat * 131072 + a.toNat * 1024 + b.toNat * 8 < _; omega
theorem mand (d : BitVec 7) (a : BitVec 7) (b : BitVec 7) : Statement (.mand d a b) := by have := d.isLt; have := a.isLt; have := b.isLt; show 0x0E000000 + d.toNat * 131072 + a.toNat * 1024 + b.toNat * 8 < _; omega
theorem mor (d : BitVec 7) (a : BitVec 7) (b : BitVec 7) : Statement (.mor d a b) := by have := d.isLt; have := a.isLt; have := b.isLt; show 0x0E000001 + d.toNat * 131072 + a.toNat * 1024 + b.toNat * 8 < _; omega
theorem mxor (d : BitVec 7) (a : BitVec 7) (b : BitVec 7) : Statement (.mxor d a b) := by have := d.isLt; have := a.isLt; have := b.isLt; show 0x0E000002 + d.toNat * 131072 + a.toNat * 1024 + b.toNat * 8 < _; omega
theorem mandn (d : BitVec 7) (a : BitVec 7) (b : BitVec 7) : Statement (.mandn d a b) := by have := d.isLt; have := a.isLt; have := b.isLt; show 0x0E000003 + d.toNat * 131072 + a.toNat * 1024 + b.toNat * 8 < _; omega
theorem mnot (d : BitVec 7) (a : BitVec 7) : Statement (.mnot d a) := by have := d.isLt; have := a.isLt; show 0x0E000004 + d.toNat * 131072 + a.toNat * 1024 < _; omega
theorem mpopc (d : BitVec 7) (a : BitVec 7) : Statement (.mpopc d a) := by have := d.isLt; have := a.isLt; show 0x0E000005 + d.toNat * 131072 + a.toNat * 1024 < _; omega
theorem mffs (d : BitVec 7) (a : BitVec 7) : Statement (.mffs d a) := by have := d.isLt; have := a.isLt; show 0x0E000006 + d.toNat * 131072 + a.toNat * 1024 < _; omega
theorem mseta (d : BitVec 7) : Statement (.mseta d) := by have := d.isLt; show 0x0E000007 + d.toNat * 131072 < _; omega
theorem fadd (d : BitVec 7) (a : BitVec 7) (b : BitVec 7) (r : Rm) : Statement (.fadd d a b r) := by have := d.isLt; have := a.isLt; have := b.isLt; have := rm_code r; show 0x10000000 + d.toNat * 131072 + a.toNat * 1024 + b.toNat * 8 + r.code < _; omega
theorem fsub (d : BitVec 7) (a : BitVec 7) (b : BitVec 7) (r : Rm) : Statement (.fsub d a b r) := by have := d.isLt; have := a.isLt; have := b.isLt; have := rm_code r; show 0x11000000 + d.toNat * 131072 + a.toNat * 1024 + b.toNat * 8 + r.code < _; omega
theorem fmul (d : BitVec 7) (a : BitVec 7) (b : BitVec 7) (r : Rm) : Statement (.fmul d a b r) := by have := d.isLt; have := a.isLt; have := b.isLt; have := rm_code r; show 0x12000000 + d.toNat * 131072 + a.toNat * 1024 + b.toNat * 8 + r.code < _; omega
theorem fmac (d : BitVec 7) (a : BitVec 7) (b : BitVec 7) (r : Rm) : Statement (.fmac d a b r) := by have := d.isLt; have := a.isLt; have := b.isLt; have := rm_code r; show 0x13000000 + d.toNat * 131072 + a.toNat * 1024 + b.toNat * 8 + r.code < _; omega
theorem fma (d : BitVec 6) (a : BitVec 6) (b : BitVec 6) (e : BitVec 6) : Statement (.fma d a b e) := by have := d.isLt; have := a.isLt; have := b.isLt; have := e.isLt; show 0x14000000 + d.toNat * 262144 + a.toNat * 4096 + b.toNat * 64 + e.toNat < _; omega
theorem fmin (d : BitVec 7) (a : BitVec 7) (b : BitVec 7) : Statement (.fmin d a b) := by have := d.isLt; have := a.isLt; have := b.isLt; show 0x15000000 + d.toNat * 131072 + a.toNat * 1024 + b.toNat * 8 < _; omega
theorem fmax (d : BitVec 7) (a : BitVec 7) (b : BitVec 7) : Statement (.fmax d a b) := by have := d.isLt; have := a.isLt; have := b.isLt; show 0x15000001 + d.toNat * 131072 + a.toNat * 1024 + b.toNat * 8 < _; omega
theorem fminm (d : BitVec 7) (a : BitVec 7) (b : BitVec 7) : Statement (.fminm d a b) := by have := d.isLt; have := a.isLt; have := b.isLt; show 0x15000002 + d.toNat * 131072 + a.toNat * 1024 + b.toNat * 8 < _; omega
theorem fmaxm (d : BitVec 7) (a : BitVec 7) (b : BitVec 7) : Statement (.fmaxm d a b) := by have := d.isLt; have := a.isLt; have := b.isLt; show 0x15000003 + d.toNat * 131072 + a.toNat * 1024 + b.toNat * 8 < _; omega
theorem fabs (d : BitVec 7) (a : BitVec 7) : Statement (.fabs d a) := by have := d.isLt; have := a.isLt; show 0x15000004 + d.toNat * 131072 + a.toNat * 1024 < _; omega
theorem fneg (d : BitVec 7) (a : BitVec 7) : Statement (.fneg d a) := by have := d.isLt; have := a.isLt; show 0x15000005 + d.toNat * 131072 + a.toNat * 1024 < _; omega
theorem fcpsgn (d : BitVec 7) (a : BitVec 7) (b : BitVec 7) : Statement (.fcpsgn d a b) := by have := d.isLt; have := a.isLt; have := b.isLt; show 0x15000006 + d.toNat * 131072 + a.toNat * 1024 + b.toNat * 8 < _; omega
theorem fclass (d : BitVec 7) (a : BitVec 7) : Statement (.fclass d a) := by have := d.isLt; have := a.isLt; show 0x15000007 + d.toNat * 131072 + a.toNat * 1024 < _; omega
theorem fcmp (d : BitVec 7) (a : BitVec 7) (b : BitVec 7) (k : FCond) : Statement (.fcmp d a b k) := by have := d.isLt; have := a.isLt; have := b.isLt; have := fcond_code k; show 0x16000000 + d.toNat * 131072 + a.toNat * 1024 + b.toNat * 8 + k.code < _; omega
theorem fcvt (d : BitVec 7) (a : BitVec 7) (t : BitVec 4) (u : BitVec 3) (r : Rm) : Statement (.fcvt d a t u r) := by have := d.isLt; have := a.isLt; have := t.isLt; have := u.isLt; have := rm_code r; show 0x17000000 + d.toNat * 131072 + a.toNat * 1024 + t.toNat * 64 + u.toNat * 8 + r.code < _; omega
theorem ex2 (d : BitVec 7) (a : BitVec 7) : Statement (.ex2 d a) := by have := d.isLt; have := a.isLt; show 0x18000000 + d.toNat * 131072 + a.toNat * 1024 < _; omega
theorem lg2 (d : BitVec 7) (a : BitVec 7) : Statement (.lg2 d a) := by have := d.isLt; have := a.isLt; show 0x18000001 + d.toNat * 131072 + a.toNat * 1024 < _; omega
theorem rcp (d : BitVec 7) (a : BitVec 7) : Statement (.rcp d a) := by have := d.isLt; have := a.isLt; show 0x18000002 + d.toNat * 131072 + a.toNat * 1024 < _; omega
theorem rsq (d : BitVec 7) (a : BitVec 7) : Statement (.rsq d a) := by have := d.isLt; have := a.isLt; show 0x18000003 + d.toNat * 131072 + a.toNat * 1024 < _; omega
theorem sqrt (d : BitVec 7) (a : BitVec 7) : Statement (.sqrt d a) := by have := d.isLt; have := a.isLt; show 0x18000004 + d.toNat * 131072 + a.toNat * 1024 < _; omega
theorem sin (d : BitVec 7) (a : BitVec 7) : Statement (.sin d a) := by have := d.isLt; have := a.isLt; show 0x18000005 + d.toNat * 131072 + a.toNat * 1024 < _; omega
theorem cos (d : BitVec 7) (a : BitVec 7) : Statement (.cos d a) := by have := d.isLt; have := a.isLt; show 0x18000006 + d.toNat * 131072 + a.toNat * 1024 < _; omega
theorem tanh (d : BitVec 7) (a : BitVec 7) : Statement (.tanh d a) := by have := d.isLt; have := a.isLt; show 0x18000007 + d.toNat * 131072 + a.toNat * 1024 < _; omega
theorem hadd2Bf16 (d : BitVec 7) (a : BitVec 7) (b : BitVec 7) : Statement (.hadd2Bf16 d a b) := by have := d.isLt; have := a.isLt; have := b.isLt; show 0x19000000 + d.toNat * 131072 + a.toNat * 1024 + b.toNat * 8 < _; omega
theorem hmul2Bf16 (d : BitVec 7) (a : BitVec 7) (b : BitVec 7) : Statement (.hmul2Bf16 d a b) := by have := d.isLt; have := a.isLt; have := b.isLt; show 0x19000001 + d.toNat * 131072 + a.toNat * 1024 + b.toNat * 8 < _; omega
theorem hmac2Bf16 (d : BitVec 7) (a : BitVec 7) (b : BitVec 7) : Statement (.hmac2Bf16 d a b) := by have := d.isLt; have := a.isLt; have := b.isLt; show 0x19000002 + d.toNat * 131072 + a.toNat * 1024 + b.toNat * 8 < _; omega
theorem hadd2F16 (d : BitVec 7) (a : BitVec 7) (b : BitVec 7) : Statement (.hadd2F16 d a b) := by have := d.isLt; have := a.isLt; have := b.isLt; show 0x19000003 + d.toNat * 131072 + a.toNat * 1024 + b.toNat * 8 < _; omega
theorem hmul2F16 (d : BitVec 7) (a : BitVec 7) (b : BitVec 7) : Statement (.hmul2F16 d a b) := by have := d.isLt; have := a.isLt; have := b.isLt; show 0x19000004 + d.toNat * 131072 + a.toNat * 1024 + b.toNat * 8 < _; omega
theorem hmac2F16 (d : BitVec 7) (a : BitVec 7) (b : BitVec 7) : Statement (.hmac2F16 d a b) := by have := d.isLt; have := a.isLt; have := b.isLt; show 0x19000005 + d.toNat * 131072 + a.toNat * 1024 + b.toNat * 8 < _; omega
theorem hpack (d : BitVec 7) (a : BitVec 7) (b : BitVec 7) : Statement (.hpack d a b) := by have := d.isLt; have := a.isLt; have := b.isLt; show 0x19000006 + d.toNat * 131072 + a.toNat * 1024 + b.toNat * 8 < _; omega
theorem fdiv (d : BitVec 7) (a : BitVec 7) (b : BitVec 7) (r : Rm) : Statement (.fdiv d a b r) := by have := d.isLt; have := a.isLt; have := b.isLt; have := rm_code r; show 0x1A000000 + d.toNat * 131072 + a.toNat * 1024 + b.toNat * 8 + r.code < _; omega
theorem tment (d : BitVec 7) (a : BitVec 7) : Statement (.tment d a) := by have := d.isLt; have := a.isLt; show 0x1B000000 + d.toNat * 131072 + a.toNat * 1024 < _; omega
theorem tmmrg (d : BitVec 7) (a : BitVec 7) (b : BitVec 7) : Statement (.tmmrg d a b) := by have := d.isLt; have := a.isLt; have := b.isLt; show 0x1B000001 + d.toNat * 131072 + a.toNat * 1024 + b.toNat * 8 < _; omega
theorem tmext (d : BitVec 7) (a : BitVec 7) : Statement (.tmext d a) := by have := d.isLt; have := a.isLt; show 0x1B000002 + d.toNat * 131072 + a.toNat * 1024 < _; omega
theorem tmld (a : BitVec 7) (k : BitVec 7) : Statement (.tmld a k) := by have := a.isLt; have := k.isLt; show 0x1B000003 + a.toNat * 1024 + k.toNat * 8 < _; omega
theorem tmred (d : BitVec 7) (a : BitVec 7) : Statement (.tmred d a) := by have := d.isLt; have := a.isLt; show 0x1B000004 + d.toNat * 131072 + a.toNat * 1024 < _; omega
theorem skdef (a : BitVec 7) (b : BitVec 7) : Statement (.skdef a b) := by have := a.isLt; have := b.isLt; show 0x1C000000 + a.toNat * 1024 + b.toNat * 8 < _; omega
theorem skundef (a : BitVec 7) : Statement (.skundef a) := by have := a.isLt; show 0x1C000001 + a.toNat * 1024 < _; omega
theorem skmerge (a : BitVec 7) (b : BitVec 7) : Statement (.skmerge a b) := by have := a.isLt; have := b.isLt; show 0x1C000002 + a.toNat * 1024 + b.toNat * 8 < _; omega
theorem skfold (a : BitVec 7) (b : BitVec 7) : Statement (.skfold a b) := by have := a.isLt; have := b.isLt; show 0x1C000003 + a.toNat * 1024 + b.toNat * 8 < _; omega
theorem skclr (a : BitVec 7) : Statement (.skclr a) := by have := a.isLt; show 0x1C000004 + a.toNat * 1024 < _; omega
theorem skstat (d : BitVec 7) (a : BitVec 7) : Statement (.skstat d a) := by have := d.isLt; have := a.isLt; show 0x1C000005 + d.toNat * 131072 + a.toNat * 1024 < _; omega
theorem sksnap (a : BitVec 7) (b : BitVec 7) : Statement (.sksnap a b) := by have := a.isLt; have := b.isLt; show 0x1C000006 + a.toNat * 1024 + b.toNat * 8 < _; omega
theorem skqv (d : BitVec 7) (a : BitVec 7) (b : BitVec 7) : Statement (.skqv d a b) := by have := d.isLt; have := a.isLt; have := b.isLt; show 0x1C000007 + d.toNat * 131072 + a.toNat * 1024 + b.toNat * 8 < _; omega
theorem pin (d : BitVec 7) (a : BitVec 7) (b : BitVec 7) : Statement (.pin d a b) := by have := d.isLt; have := a.isLt; have := b.isLt; show 0x1D000000 + d.toNat * 131072 + a.toNat * 1024 + b.toNat * 8 < _; omega
theorem unpin (a : BitVec 7) : Statement (.unpin a) := by have := a.isLt; show 0x1D000001 + a.toNat * 1024 < _; omega
theorem ptouch (a : BitVec 7) : Statement (.ptouch a) := by have := a.isLt; show 0x1D000002 + a.toNat * 1024 < _; omega
theorem pstat (d : BitVec 7) (a : BitVec 7) : Statement (.pstat d a) := by have := d.isLt; have := a.isLt; show 0x1D000003 + d.toNat * 131072 + a.toNat * 1024 < _; omega
theorem spawn (a : BitVec 7) : Statement (.spawn a) := by have := a.isLt; show 0x1E000000 + a.toNat * 1024 < _; omega
theorem spawnr (a : BitVec 7) : Statement (.spawnr a) := by have := a.isLt; show 0x1E000001 + a.toNat * 1024 < _; omega
theorem jdec (a : BitVec 7) : Statement (.jdec a) := by have := a.isLt; show 0x1E000002 + a.toNat * 1024 < _; omega
theorem qstat (d : BitVec 7) (a : BitVec 7) : Statement (.qstat d a) := by have := d.isLt; have := a.isLt; show 0x1E000003 + d.toNat * 131072 + a.toNat * 1024 < _; omega
theorem frame (d : BitVec 7) (a : BitVec 7) : Statement (.frame d a) := by have := d.isLt; have := a.isLt; show 0x1E000004 + d.toNat * 131072 + a.toNat * 1024 < _; omega
theorem bra (f : BitVec 15) : Statement (.bra f) := by have := f.isLt; show 0x20000000 + f.toNat < _; omega
theorem bz (q : BitVec 6) (f : BitVec 15) : Statement (.bz q f) := by have := q.isLt; have := f.isLt; show 0x20200000 + q.toNat * 32768 + f.toNat < _; omega
theorem bnz (q : BitVec 6) (f : BitVec 15) : Statement (.bnz q f) := by have := q.isLt; have := f.isLt; show 0x20400000 + q.toNat * 32768 + f.toNat < _; omega
theorem brm (q : BitVec 6) (f : BitVec 15) : Statement (.brm q f) := by have := q.isLt; have := f.isLt; show 0x20600000 + q.toNat * 32768 + f.toNat < _; omega
theorem bany (q : BitVec 6) (f : BitVec 15) : Statement (.bany q f) := by have := q.isLt; have := f.isLt; show 0x20800000 + q.toNat * 32768 + f.toNat < _; omega
theorem ball (q : BitVec 6) (f : BitVec 15) : Statement (.ball q f) := by have := q.isLt; have := f.isLt; show 0x20A00000 + q.toNat * 32768 + f.toNat < _; omega
theorem balw (q : BitVec 6) (f : BitVec 15) : Statement (.balw q f) := by have := q.isLt; have := f.isLt; show 0x20C00000 + q.toNat * 32768 + f.toNat < _; omega
theorem bnone (q : BitVec 6) (f : BitVec 15) : Statement (.bnone q f) := by have := q.isLt; have := f.isLt; show 0x20E00000 + q.toNat * 32768 + f.toNat < _; omega
theorem call (o : BitVec 24) : Statement (.call o) := by have := o.isLt; show 0x21000000 + o.toNat < _; omega
theorem calli (a : BitVec 7) : Statement (.calli a) := by have := a.isLt; show 0x22000001 + a.toNat * 1024 < _; omega
theorem jmpi (a : BitVec 7) : Statement (.jmpi a) := by have := a.isLt; show 0x22000002 + a.toNat * 1024 < _; omega
theorem calls (a : BitVec 7) : Statement (.calls a) := by have := a.isLt; show 0x22000003 + a.toNat * 1024 < _; omega
theorem reconv (o : BitVec 24) : Statement (.reconv o) := by have := o.isLt; show 0x23000000 + o.toNat < _; omega
theorem rep (n : BitVec 6) (d : BitVec 1) (a : BitVec 1) (b : BitVec 1) (t : BitVec 2) : Statement (.rep n d a b t) := by have := n.isLt; have := d.isLt; have := a.isLt; have := b.isLt; have := t.isLt; show 0x24000000 + n.toNat * 262144 + d.toNat * 131072 + a.toNat * 65536 + b.toNat * 32768 + t.toNat * 8192 < _; omega
theorem lit (v : BitVec 24) : Statement (.lit v) := by have := v.isLt; show 0x25000000 + v.toNat < _; omega
theorem xwr (d : BitVec 7) (a : BitVec 7) (b : BitVec 7) : Statement (.xwr d a b) := by have := d.isLt; have := a.isLt; have := b.isLt; show 0x26000000 + d.toNat * 131072 + a.toNat * 1024 + b.toNat * 8 < _; omega
theorem xrd (d : BitVec 7) (a : BitVec 7) (b : BitVec 7) : Statement (.xrd d a b) := by have := d.isLt; have := a.isLt; have := b.isLt; show 0x26000001 + d.toNat * 131072 + a.toNat * 1024 + b.toNat * 8 < _; omega
theorem xred (d : BitVec 7) (a : BitVec 7) (b : BitVec 7) : Statement (.xred d a b) := by have := d.isLt; have := a.isLt; have := b.isLt; show 0x26000002 + d.toNat * 131072 + a.toNat * 1024 + b.toNat * 8 < _; omega
theorem xatom (d : BitVec 7) (a : BitVec 7) (b : BitVec 7) : Statement (.xatom d a b) := by have := d.isLt; have := a.isLt; have := b.isLt; show 0x26000003 + d.toNat * 131072 + a.toNat * 1024 + b.toNat * 8 < _; omega
theorem xmlr (d : BitVec 7) (a : BitVec 7) (b : BitVec 7) : Statement (.xmlr d a b) := by have := d.isLt; have := a.isLt; have := b.isLt; show 0x26000004 + d.toNat * 131072 + a.toNat * 1024 + b.toNat * 8 < _; omega
theorem xmst (d : BitVec 7) (a : BitVec 7) (b : BitVec 7) : Statement (.xmst d a b) := by have := d.isLt; have := a.isLt; have := b.isLt; show 0x26000005 + d.toNat * 131072 + a.toNat * 1024 + b.toNat * 8 < _; omega
theorem xtrig (a : BitVec 7) (b : BitVec 7) : Statement (.xtrig a b) := by have := a.isLt; have := b.isLt; show 0x26000006 + a.toNat * 1024 + b.toNat * 8 < _; omega
theorem xcnt (d : BitVec 7) (a : BitVec 7) (b : BitVec 7) : Statement (.xcnt d a b) := by have := d.isLt; have := a.isLt; have := b.isLt; show 0x26000007 + d.toNat * 131072 + a.toNat * 1024 + b.toNat * 8 < _; omega
theorem alwr (d : BitVec 7) (a : BitVec 7) : Statement (.alwr d a) := by have := d.isLt; have := a.isLt; show 0x27000000 + d.toNat * 131072 + a.toNat * 1024 < _; omega
theorem coll (d : BitVec 7) (a : BitVec 7) : Statement (.coll d a) := by have := d.isLt; have := a.isLt; show 0x27000001 + d.toNat * 131072 + a.toNat * 1024 < _; omega
theorem xwait (d : BitVec 7) (a : BitVec 7) (b : BitVec 7) : Statement (.xwait d a b) := by have := d.isLt; have := a.isLt; have := b.isLt; show 0x27000002 + d.toNat * 131072 + a.toNat * 1024 + b.toNat * 8 < _; omega
theorem xstat (d : BitVec 7) (a : BitVec 7) (b : BitVec 7) : Statement (.xstat d a b) := by have := d.isLt; have := a.isLt; have := b.isLt; show 0x27000003 + d.toNat * 131072 + a.toNat * 1024 + b.toNat * 8 < _; omega
theorem ld (d : BitVec 7) (a : BitVec 7) (p : Space) (z : Size) (o : BitVec 5) : Statement (.ld d a p z o) := by have := d.isLt; have := a.isLt; have := space_code p; have := size_code z; have := o.isLt; show 0x28000000 + d.toNat * 131072 + a.toNat * 1024 + p.code * 256 + z.code * 32 + o.toNat < _; omega
theorem st (d : BitVec 7) (a : BitVec 7) (p : Space) (z : Size) (o : BitVec 5) : Statement (.st d a p z o) := by have := d.isLt; have := a.isLt; have := space_code p; have := size_code z; have := o.isLt; show 0x29000000 + d.toNat * 131072 + a.toNat * 1024 + p.code * 256 + z.code * 32 + o.toNat < _; omega
theorem lds (d : BitVec 7) (a : BitVec 7) (p : Space) (z : Size) (o : BitVec 5) : Statement (.lds d a p z o) := by have := d.isLt; have := a.isLt; have := space_code p; have := size_code z; have := o.isLt; show 0x2A000000 + d.toNat * 131072 + a.toNat * 1024 + p.code * 256 + z.code * 32 + o.toNat < _; omega
theorem sts (d : BitVec 7) (a : BitVec 7) (p : Space) (z : Size) (o : BitVec 5) : Statement (.sts d a p z o) := by have := d.isLt; have := a.isLt; have := space_code p; have := size_code z; have := o.isLt; show 0x2B000000 + d.toNat * 131072 + a.toNat * 1024 + p.code * 256 + z.code * 32 + o.toNat < _; omega
theorem atom (d : BitVec 7) (a : BitVec 7) (b : BitVec 7) (o : AOp) : Statement (.atom d a b o) := by have := d.isLt; have := a.isLt; have := b.isLt; have := aop_code o; show 0x2C000000 + d.toNat * 131072 + a.toNat * 1024 + b.toNat * 8 + o.code < _; omega
theorem atomc (d : BitVec 7) (a : BitVec 7) (b : BitVec 7) (o : AOp) : Statement (.atomc d a b o) := by have := d.isLt; have := a.isLt; have := b.isLt; have := aop_code o; show 0x2D000000 + d.toNat * 131072 + a.toNat * 1024 + b.toNat * 8 + o.code < _; omega
theorem atomg (d : BitVec 7) (a : BitVec 7) (b : BitVec 7) (o : AOp) : Statement (.atomg d a b o) := by have := d.isLt; have := a.isLt; have := b.isLt; have := aop_code o; show 0x2E000000 + d.toNat * 131072 + a.toNat * 1024 + b.toNat * 8 + o.code < _; omega
theorem atomx (d : BitVec 7) (a : BitVec 7) (b : BitVec 7) (o : XOp) : Statement (.atomx d a b o) := by have := d.isLt; have := a.isLt; have := b.isLt; have := xop_code o; show 0x2F000000 + d.toNat * 131072 + a.toNat * 1024 + b.toNat * 8 + o.code < _; omega
theorem red (p : Space) (a : BitVec 7) (b : BitVec 7) (o : ROp) : Statement (.red p a b o) := by have := space_code p; have := a.isLt; have := b.isLt; have := rop_code o; show 0x30000000 + p.code * 4194304 + a.toNat * 1024 + b.toNat * 8 + o.code < _; omega
theorem cclean (l : Level) (a : BitVec 7) (b : BitVec 7) : Statement (.cclean l a b) := by have := level_code l; have := a.isLt; have := b.isLt; show 0x31000000 + l.code * 4194304 + a.toNat * 1024 + b.toNat * 8 < _; omega
theorem cinv (l : Level) (a : BitVec 7) (b : BitVec 7) : Statement (.cinv l a b) := by have := level_code l; have := a.isLt; have := b.isLt; show 0x31000001 + l.code * 4194304 + a.toNat * 1024 + b.toNat * 8 < _; omega
theorem cflush (l : Level) (a : BitVec 7) (b : BitVec 7) : Statement (.cflush l a b) := by have := level_code l; have := a.isLt; have := b.isLt; show 0x31000002 + l.code * 4194304 + a.toNat * 1024 + b.toNat * 8 < _; omega
theorem pref (l : Level) (a : BitVec 7) (b : BitVec 7) : Statement (.pref l a b) := by have := level_code l; have := a.isLt; have := b.isLt; show 0x31000003 + l.code * 4194304 + a.toNat * 1024 + b.toNat * 8 < _; omega
theorem fence (k : FKind) (t : BitVec 1) (p : Scope) : Statement (.fence k t p) := by have := fkind_code k; have := t.isLt; have := scope_code p; show 0x32000000 + k.code * 4194304 + t.toNat * 131072 + p.code < _; omega
theorem tryBegin (l : BitVec 1) (o : BitVec 23) : Statement (.tryBegin l o) := by have := l.isLt; have := o.isLt; show 0x33000000 + l.toNat * 8388608 + o.toNat < _; omega
theorem abortTry (a : BitVec 7) : Statement (.abortTry a) := by have := a.isLt; show 0x34000001 + a.toNat * 1024 < _; omega
theorem tstat (d : BitVec 7) : Statement (.tstat d) := by have := d.isLt; show 0x34000002 + d.toNat * 131072 < _; omega
theorem tdepth (d : BitVec 7) : Statement (.tdepth d) := by have := d.isLt; show 0x34000003 + d.toNat * 131072 < _; omega
theorem bararv (d : BitVec 7) (a : BitVec 7) : Statement (.bararv d a) := by have := d.isLt; have := a.isLt; show 0x38000000 + d.toNat * 131072 + a.toNat * 1024 < _; omega
theorem barwt (d : BitVec 7) (a : BitVec 7) (b : BitVec 7) : Statement (.barwt d a b) := by have := d.isLt; have := a.isLt; have := b.isLt; show 0x38000001 + d.toNat * 131072 + a.toNat * 1024 + b.toNat * 8 < _; omega
theorem baraw (d : BitVec 7) (a : BitVec 7) : Statement (.baraw d a) := by have := d.isLt; have := a.isLt; show 0x38000002 + d.toNat * 131072 + a.toNat * 1024 < _; omega
theorem barinit (a : BitVec 7) (b : BitVec 7) : Statement (.barinit a b) := by have := a.isLt; have := b.isLt; show 0x38000003 + a.toNat * 1024 + b.toNat * 8 < _; omega
theorem barst (d : BitVec 7) (a : BitVec 7) : Statement (.barst d a) := by have := d.isLt; have := a.isLt; show 0x38000004 + d.toNat * 131072 + a.toNat * 1024 < _; omega
theorem barexp (a : BitVec 7) (b : BitVec 7) : Statement (.barexp a b) := by have := a.isLt; have := b.isLt; show 0x38000005 + a.toNat * 1024 + b.toNat * 8 < _; omega
theorem rginit (a : BitVec 7) (b : BitVec 7) : Statement (.rginit a b) := by have := a.isLt; have := b.isLt; show 0x39000000 + a.toNat * 1024 + b.toNat * 8 < _; omega
theorem rgacq (d : BitVec 7) (a : BitVec 7) (b : BitVec 7) : Statement (.rgacq d a b) := by have := d.isLt; have := a.isLt; have := b.isLt; show 0x39000001 + d.toNat * 131072 + a.toNat * 1024 + b.toNat * 8 < _; omega
theorem rgpub (d : BitVec 7) (a : BitVec 7) (b : BitVec 7) : Statement (.rgpub d a b) := by have := d.isLt; have := a.isLt; have := b.isLt; show 0x39000002 + d.toNat * 131072 + a.toNat * 1024 + b.toNat * 8 < _; omega
theorem rgwait (d : BitVec 7) (a : BitVec 7) (b : BitVec 7) : Statement (.rgwait d a b) := by have := d.isLt; have := a.isLt; have := b.isLt; show 0x39000003 + d.toNat * 131072 + a.toNat * 1024 + b.toNat * 8 < _; omega
theorem rgrel (d : BitVec 7) (a : BitVec 7) (b : BitVec 7) : Statement (.rgrel d a b) := by have := d.isLt; have := a.isLt; have := b.isLt; show 0x39000004 + d.toNat * 131072 + a.toNat * 1024 + b.toNat * 8 < _; omega
theorem rgstat (d : BitVec 7) (a : BitVec 7) : Statement (.rgstat d a) := by have := d.isLt; have := a.isLt; show 0x39000005 + d.toNat * 131072 + a.toNat * 1024 < _; omega
theorem cpy (d : BitVec 7) (a : BitVec 7) (b : BitVec 7) : Statement (.cpy d a b) := by have := d.isLt; have := a.isLt; have := b.isLt; show 0x3A000000 + d.toNat * 131072 + a.toNat * 1024 + b.toNat * 8 < _; omega
theorem cpy2 (d : BitVec 7) (a : BitVec 7) (b : BitVec 7) : Statement (.cpy2 d a b) := by have := d.isLt; have := a.isLt; have := b.isLt; show 0x3A000001 + d.toNat * 131072 + a.toNat * 1024 + b.toNat * 8 < _; omega
theorem cpyt (d : BitVec 7) (a : BitVec 7) (b : BitVec 7) : Statement (.cpyt d a b) := by have := d.isLt; have := a.isLt; have := b.isLt; show 0x3A000002 + d.toNat * 131072 + a.toNat * 1024 + b.toNat * 8 < _; omega
theorem cpyg (d : BitVec 7) (a : BitVec 7) (b : BitVec 7) : Statement (.cpyg d a b) := by have := d.isLt; have := a.isLt; have := b.isLt; show 0x3A000003 + d.toNat * 131072 + a.toNat * 1024 + b.toNat * 8 < _; omega
theorem cpys (d : BitVec 7) (a : BitVec 7) (b : BitVec 7) : Statement (.cpys d a b) := by have := d.isLt; have := a.isLt; have := b.isLt; show 0x3A000004 + d.toNat * 131072 + a.toNat * 1024 + b.toNat * 8 < _; omega
theorem cpywp (d : BitVec 7) (a : BitVec 7) : Statement (.cpywp d a) := by have := d.isLt; have := a.isLt; show 0x3A000005 + d.toNat * 131072 + a.toNat * 1024 < _; omega
theorem cpywt (d : BitVec 7) (a : BitVec 7) (b : BitVec 7) : Statement (.cpywt d a b) := by have := d.isLt; have := a.isLt; have := b.isLt; show 0x3A000006 + d.toNat * 131072 + a.toNat * 1024 + b.toNat * 8 < _; omega
theorem cpyst (d : BitVec 7) (a : BitVec 7) (b : BitVec 7) : Statement (.cpyst d a b) := by have := d.isLt; have := a.isLt; have := b.isLt; show 0x3A000007 + d.toNat * 131072 + a.toNat * 1024 + b.toNat * 8 < _; omega
theorem mma (d : BitVec 7) (a : BitVec 7) (b : BitVec 7) (n : BitVec 3) : Statement (.mma d a b n) := by have := d.isLt; have := a.isLt; have := b.isLt; have := n.isLt; show 0x3B000000 + d.toNat * 131072 + a.toNat * 1024 + b.toNat * 8 + n.toNat < _; omega
theorem mloop (d : BitVec 7) (n : BitVec 3) : Statement (.mloop d n) := by have := d.isLt; have := n.isLt; show 0x3C000000 + d.toNat * 131072 + n.toNat < _; omega
theorem mzero (d : BitVec 7) (a : BitVec 7) : Statement (.mzero d a) := by have := d.isLt; have := a.isLt; show 0x3D000000 + d.toNat * 131072 + a.toNat * 1024 < _; omega
theorem mzeroRel (d : BitVec 7) (a : BitVec 7) : Statement (.mzeroRel d a) := by have := d.isLt; have := a.isLt; show 0x3D000008 + d.toNat * 131072 + a.toNat * 1024 < _; omega
theorem mlda (d : BitVec 7) (a : BitVec 7) (b : BitVec 7) : Statement (.mlda d a b) := by have := d.isLt; have := a.isLt; have := b.isLt; show 0x3D000001 + d.toNat * 131072 + a.toNat * 1024 + b.toNat * 8 < _; omega
theorem msta (d : BitVec 7) (a : BitVec 7) (b : BitVec 7) : Statement (.msta d a b) := by have := d.isLt; have := a.isLt; have := b.isLt; show 0x3D000002 + d.toNat * 131072 + a.toNat * 1024 + b.toNat * 8 < _; omega
theorem mav (d : BitVec 7) (a : BitVec 7) (b : BitVec 7) : Statement (.mav d a b) := by have := d.isLt; have := a.isLt; have := b.isLt; show 0x3D000003 + d.toNat * 131072 + a.toNat * 1024 + b.toNat * 8 < _; omega
theorem mva (d : BitVec 7) (a : BitVec 7) (b : BitVec 7) : Statement (.mva d a b) := by have := d.isLt; have := a.isLt; have := b.isLt; show 0x3D000004 + d.toNat * 131072 + a.toNat * 1024 + b.toNat * 8 < _; omega
theorem mwait (a : BitVec 7) : Statement (.mwait a) := by have := a.isLt; show 0x3D000005 + a.toNat * 1024 < _; omega
theorem msync (a : BitVec 7) : Statement (.msync a) := by have := a.isLt; show 0x3D000006 + a.toNat * 1024 < _; omega
theorem mcfg (a : BitVec 7) : Statement (.mcfg a) := by have := a.isLt; show 0x3E000000 + a.toNat * 1024 < _; omega
theorem maud (d : BitVec 7) (a : BitVec 7) : Statement (.maud d a) := by have := d.isLt; have := a.isLt; show 0x3E000001 + d.toNat * 131072 + a.toNat * 1024 < _; omega
theorem mjoin (a : BitVec 7) : Statement (.mjoin a) := by have := a.isLt; show 0x3E000002 + a.toNat * 1024 < _; omega
theorem trap (n : BitVec 7) : Statement (.trap n) := by have := n.isLt; show 0x3F020000 + n.toNat * 4 < _; omega
theorem rtt (t : BitVec 1) : Statement (.rtt t) := by have := t.isLt; show 0x3F030000 + t.toNat < _; omega
theorem mfs (d : BitVec 7) (a : BitVec 7) : Statement (.mfs d a) := by have := d.isLt; have := a.isLt; show 0x3F040000 + d.toNat * 512 + a.toNat * 4 < _; omega
theorem mts (d : BitVec 7) (a : BitVec 7) : Statement (.mts d a) := by have := d.isLt; have := a.isLt; show 0x3F050000 + d.toNat * 512 + a.toNat * 4 < _; omega
theorem bkpt (n : BitVec 7) : Statement (.bkpt n) := by have := n.isLt; show 0x3F070000 + n.toNat * 4 < _; omega
theorem widf (d : BitVec 7) (k : BitVec 7) : Statement (.widf d k) := by have := d.isLt; have := k.isLt; show 0x3F080000 + d.toNat * 512 + k.toNat * 4 < _; omega
theorem endg (r : BitVec 1) : Statement (.endg r) := by have := r.isLt; show 0x3F0A0000 + r.toNat < _; omega
theorem issueCycle (core : Nat) : Statement (.issueCycle core) := Nat.zero_lt_succ _
theorem resultWrite (grp : Nat) (k : Nat) (lanes : Mask) : Statement (.resultWrite grp k lanes) := Nat.zero_lt_succ _
theorem responseArrive (k : Nat) : Statement (.responseArrive k) := Nat.zero_lt_succ _
theorem homePerform (k : Nat) (ecc : List Nat) (evict : List (Nat × Nat)) : Statement (.homePerform k ecc evict) := Nat.zero_lt_succ _
theorem refreshRequeueTimer (k : Nat) : Statement (.refreshRequeueTimer k) := Nat.zero_lt_succ _
theorem requestDeliver (k : Nat) : Statement (.requestDeliver k) := Nat.zero_lt_succ _
theorem issueQueueLeave (grp : Nat) (k : Nat) : Statement (.issueQueueLeave grp k) := Nat.zero_lt_succ _
theorem fenceComplete (grp : Nat) : Statement (.fenceComplete grp) := Nat.zero_lt_succ _
theorem faultServiceMap (grp : Nat) (m : FaultMap) : Statement (.faultServiceMap grp m) := Nat.zero_lt_succ _
theorem faultServiceDecline (grp : Nat) (k : Nat) : Statement (.faultServiceDecline grp k) := Nat.zero_lt_succ _
theorem deferredFaultReturn (grp : Nat) : Statement (.deferredFaultReturn grp) := Nat.zero_lt_succ _
theorem trapDeliver (grp : Nat) : Statement (.trapDeliver grp) := Nat.zero_lt_succ _
theorem tryConflictAbort (grp : Nat) : Statement (.tryConflictAbort grp) := Nat.zero_lt_succ _
theorem hangLimitExpiry (grp : Nat) (slotB : Bool) : Statement (.hangLimitExpiry grp slotB) := Nat.zero_lt_succ _
theorem matrixStep (core : Nat) (k : Nat) (cached : Bool) : Statement (.matrixStep core k cached) := Nat.zero_lt_succ _
theorem copyCardAdmit (cl : Nat) (ch : Nat) : Statement (.copyCardAdmit cl ch) := Nat.zero_lt_succ _
theorem channelAllowanceCharge (cl : Nat) (ch : Nat) : Statement (.channelAllowanceCharge cl ch) := Nat.zero_lt_succ _
theorem copyCardFault (cl : Nat) (ch : Nat) : Statement (.copyCardFault cl ch) := Nat.zero_lt_succ _
theorem copyDeliveryWrite (cl : Nat) (m : CardMove) : Statement (.copyDeliveryWrite cl m) := Nat.zero_lt_succ _
theorem copyCardComplete (cl : Nat) (ch : Nat) : Statement (.copyCardComplete cl ch) := Nat.zero_lt_succ _
theorem cardQuotaResume (cl : Nat) (ch : Nat) : Statement (.cardQuotaResume cl ch) := Nat.zero_lt_succ _
theorem workgroupEnd (wg : Nat) : Statement (.workgroupEnd wg) := Nat.zero_lt_succ _
theorem workgroupSave (wg : Nat) (image : Dword) : Statement (.workgroupSave wg image) := Nat.zero_lt_succ _
theorem launchTake (ctx : Nat) : Statement (.launchTake ctx) := Nat.zero_lt_succ _
theorem pantryTake (core : Nat) (place : Placement) : Statement (.pantryTake core place) := Nat.zero_lt_succ _
theorem timeSliceExpiry (core : Nat) (ctx : Nat) : Statement (.timeSliceExpiry core ctx) := Nat.zero_lt_succ _
theorem ret : Statement (.ret) := by show 0x22000000 < _; omega
theorem commitTry : Statement (.commitTry) := by show 0x34000000 < _; omega
theorem spfen : Statement (.spfen) := by show 0x3D000007 < _; omega
theorem mleave : Statement (.mleave) := by show 0x3E000003 < _; omega
theorem nop : Statement (.nop) := by show 0x3F000000 < _; omega
theorem exit : Statement (.exit) := by show 0x3F010000 < _; omega
theorem yield : Statement (.yield) := by show 0x3F060000 < _; omega
theorem replay : Statement (.replay) := by show 0x3F090000 < _; omega
theorem emret : Statement (.emret) := by show 0x3F0B0000 < _; omega
theorem l1WriteBack (core : Nat) (k : Nat) (bytes : BitVec 128) : Statement (.l1WriteBack core k bytes) := Nat.zero_lt_succ _
theorem l1Drop (core : Nat) (k : Nat) : Statement (.l1Drop core k) := Nat.zero_lt_succ _
theorem throughputFaultTimeout (grp : Nat) (image : Dword) : Statement (.throughputFaultTimeout grp image) := Nat.zero_lt_succ _
theorem launchQueueTailWrite (ctx : Nat) (tail : Word) : Statement (.launchQueueTailWrite ctx tail) := Nat.zero_lt_succ _
theorem stealRequest (core : Nat) : Statement (.stealRequest core) := Nat.zero_lt_succ _
theorem stealAnswer (core : Nat) (place : Placement) : Statement (.stealAnswer core place) := Nat.zero_lt_succ _
theorem stealRetryTimer (core : Nat) : Statement (.stealRetryTimer core) := Nat.zero_lt_succ _
theorem agingPeriodExpiry (core : Nat) (level : Nat) (k : Nat) : Statement (.agingPeriodExpiry core level k) := Nat.zero_lt_succ _
theorem preemptDrainRequest (ctx : Nat) : Statement (.preemptDrainRequest ctx) := Nat.zero_lt_succ _
theorem preemptSaveRequest (ctx : Nat) : Statement (.preemptSaveRequest ctx) := Nat.zero_lt_succ _
theorem preemptResumeRequest (ctx : Nat) : Statement (.preemptResumeRequest ctx) := Nat.zero_lt_succ _
theorem preemptDeadlineExpiry (ctx : Nat) : Statement (.preemptDeadlineExpiry ctx) := Nat.zero_lt_succ _
theorem copyQueueRoom (grp : Nat) (slotB : Bool) : Statement (.copyQueueRoom grp slotB) := Nat.zero_lt_succ _
theorem ringParkResume (grp : Nat) (slotB : Bool) : Statement (.ringParkResume grp slotB) := Nat.zero_lt_succ _
theorem matrixQueueRoom (grp : Nat) (slotB : Bool) : Statement (.matrixQueueRoom grp slotB) := Nat.zero_lt_succ _
theorem hbmRefreshRetry (k : Nat) (hint : BitVec 4) : Statement (.hbmRefreshRetry k hint) := Nat.zero_lt_succ _
theorem pageFreeze (ctx : Nat) (va : Dword) : Statement (.pageFreeze ctx va) := Nat.zero_lt_succ _
theorem pageThaw (ctx : Nat) (va : Dword) (frame : Nat) : Statement (.pageThaw ctx va frame) := Nat.zero_lt_succ _
theorem frozenWriteRetry (k : Nat) : Statement (.frozenWriteRetry k) := Nat.zero_lt_succ _
theorem frozenLimit (k : Nat) : Statement (.frozenLimit k) := Nat.zero_lt_succ _
theorem pinBackgroundLoad (ctx : Nat) (w : Nat) (line : Nat) : Statement (.pinBackgroundLoad ctx w line) := Nat.zero_lt_succ _
theorem fadePeriodExpiry (ctx : Nat) : Statement (.fadePeriodExpiry ctx) := Nat.zero_lt_succ _
theorem tokenBucketGrant (ctx : Nat) (cls : Nat) (res : Nat) (bytes : Nat) : Statement (.tokenBucketGrant ctx cls res bytes) := Nat.zero_lt_succ _
theorem hostBar2Access (off : Nat) (len : Nat) (wr : Option (List Byte)) (ecc : List Nat) : Statement (.hostBar2Access off len wr ecc) := Nat.zero_lt_succ _
theorem hostRegisterWrite (off : Nat) (val : Word) : Statement (.hostRegisterWrite off val) := Nat.zero_lt_succ _
theorem csetWrite (ctx : Nat) (val : BitVec 128) : Statement (.csetWrite ctx val) := Nat.zero_lt_succ _
theorem srqDoorbell (seq : Word) : Statement (.srqDoorbell seq) := Nat.zero_lt_succ _
theorem ctxCreate (id : Nat) (root : Nat) (poolVa : Dword) (frames : List Nat) (tables : List Nat) : Statement (.ctxCreate id root poolVa frames tables) := Nat.zero_lt_succ _
theorem ctxDestroy : Statement (.ctxDestroy) := Nat.zero_lt_succ _
theorem mapPages (frames : List Nat) (tables : List Nat) : Statement (.mapPages frames tables) := Nat.zero_lt_succ _
theorem unmapPages : Statement (.unmapPages) := Nat.zero_lt_succ _
theorem protectPages : Statement (.protectPages) := Nat.zero_lt_succ _
theorem peerwin : Statement (.peerwin) := Nat.zero_lt_succ _
theorem trange : Statement (.trange) := Nat.zero_lt_succ _
theorem mcrgroup : Statement (.mcrgroup) := Nat.zero_lt_succ _
theorem mcrmember : Statement (.mcrmember) := Nat.zero_lt_succ _
theorem exportpa : Statement (.exportpa) := Nat.zero_lt_succ _
theorem srqUnknownCode : Statement (.srqUnknownCode) := Nat.zero_lt_succ _
theorem pcieLinkError : Statement .pcieLinkError := Nat.zero_lt_succ _
theorem pcieLinkRetrain : Statement (.pcieLinkRetrain) := Nat.zero_lt_succ _
theorem powerUpBoot (b : BootInput) : Statement (.powerUpBoot b) := Nat.zero_lt_succ _
theorem measurementExtend (r : Nat) (d : BitVec 512) : Statement (.measurementExtend r d) := Nat.zero_lt_succ _
theorem getVersion : Statement (.getVersion) := Nat.zero_lt_succ _
theorem getCapabilities : Statement (.getCapabilities) := Nat.zero_lt_succ _
theorem negotiateAlgorithms : Statement (.negotiateAlgorithms) := Nat.zero_lt_succ _
theorem getDigests : Statement (.getDigests) := Nat.zero_lt_succ _
theorem getCertificate : Statement (.getCertificate) := Nat.zero_lt_succ _
theorem challenge (nonce : BitVec 256) : Statement (.challenge nonce) := Nat.zero_lt_succ _
theorem getMeasurements (nonce : BitVec 256) : Statement (.getMeasurements nonce) := Nat.zero_lt_succ _
theorem spdmUnsupportedRequest : Statement (.spdmUnsupportedRequest) := Nat.zero_lt_succ _
theorem tamperMeshBreach : Statement (.tamperMeshBreach) := Nat.zero_lt_succ _
theorem voltageClockGlitch : Statement (.voltageClockGlitch) := Nat.zero_lt_succ _
theorem islandClockStop (island : Nat) : Statement (.islandClockStop island) := Nat.zero_lt_succ _
theorem islandClockStart (island : Nat) : Statement (.islandClockStart island) := Nat.zero_lt_succ _
theorem islandVoltageSet (island : Nat) (mv : Nat) : Statement (.islandVoltageSet island mv) := Nat.zero_lt_succ _
theorem issueCycleWithhold (island : Nat) : Statement (.issueCycleWithhold island) := Nat.zero_lt_succ _
theorem clusterFailure (die : Nat) (clus : Nat) : Statement (.clusterFailure die clus) := Nat.zero_lt_succ _
theorem hbmFailure (stack : Nat) (chan : Nat) (row : Nat) : Statement (.hbmFailure stack chan row) := Nat.zero_lt_succ _
theorem serdesLaneFailure (port : Nat) (lane : Nat) : Statement (.serdesLaneFailure port lane) := Nat.zero_lt_succ _
theorem packageFailure (dev : Nat) (standby : Nat) : Statement (.packageFailure dev standby) := Nat.zero_lt_succ _
theorem serviceCoreFailure (cl : Nat) (core : Nat) : Statement (.serviceCoreFailure cl core) := Nat.zero_lt_succ _
theorem evictionPrepare (neighbour : Nat) (standby : Nat) : Statement (.evictionPrepare neighbour standby) := Nat.zero_lt_succ _
theorem evictionCopy : Statement (.evictionCopy) := Nat.zero_lt_succ _
theorem evictionDrain : Statement (.evictionDrain) := Nat.zero_lt_succ _
theorem evictionRelease (time : Dword) : Statement (.evictionRelease time) := Nat.zero_lt_succ _
theorem evictionTimeout (time : Dword) : Statement (.evictionTimeout time) := Nat.zero_lt_succ _
theorem mgmtRequest (ctx : Nat) : Statement (.mgmtRequest ctx) := Nat.zero_lt_succ _
theorem identityEepromRead (addr : BitVec 8) : Statement (.identityEepromRead addr) := Nat.zero_lt_succ _
theorem planeLoss (plane : Nat) : Statement (.planeLoss plane) := Nat.zero_lt_succ _
theorem planeReturn (plane : Nat) : Statement (.planeReturn plane) := Nat.zero_lt_succ _
theorem linkKeyExchange (plane : Nat) (key : BitVec 256) (authOk : Bool) : Statement (.linkKeyExchange plane key authOk) := Nat.zero_lt_succ _
theorem linkRekey (plane : Nat) (key : BitVec 256) : Statement (.linkRekey plane key) := Nat.zero_lt_succ _
theorem linkFrameReceive (plane : Nat) (f : Frame) : Statement (.linkFrameReceive plane f) := Nat.zero_lt_succ _
theorem requestPacketArrive (p : Packet) : Statement (.requestPacketArrive p) := Nat.zero_lt_succ _
theorem cardFireQueueRoom (cl : Nat) (ch : Nat) : Statement (.cardFireQueueRoom cl ch) := Nat.zero_lt_succ _
theorem switchRouteRefusal (k : Nat) : Statement (.switchRouteRefusal k) := Nat.zero_lt_succ _
theorem switchMcrPacket (t : McrTurn) : Statement (.switchMcrPacket t) := Nat.zero_lt_succ _
theorem replyArrive (k : Nat) (r : Reply) : Statement (.replyArrive k r) := Nat.zero_lt_succ _
theorem switchQueueTimeout (k : Nat) : Statement (.switchQueueTimeout k) := Nat.zero_lt_succ _
theorem dropNoticeArrive (k : Nat) : Statement (.dropNoticeArrive k) := Nat.zero_lt_succ _
theorem dropResendTimer (k : Nat) : Statement (.dropResendTimer k) := Nat.zero_lt_succ _
theorem allowanceWaitEnd (grp : Nat) (slotB : Bool) : Statement (.allowanceWaitEnd grp slotB) := Nat.zero_lt_succ _
theorem alwdlTimeout (grp : Nat) (slotB : Bool) : Statement (.alwdlTimeout grp slotB) := Nat.zero_lt_succ _
theorem collEntryStep (ctx : Nat) (k : Nat) : Statement (.collEntryStep ctx k) := Nat.zero_lt_succ _
theorem openingRendezvous (ctx : Nat) (k : Nat) (others : List MemberState) : Statement (.openingRendezvous ctx k others) := Nat.zero_lt_succ _
theorem collCardStep (ctx : Nat) (k : Nat) (turns : List Turn) : Statement (.collCardStep ctx k turns) := Nat.zero_lt_succ _
theorem closingRendezvous (ctx : Nat) (k : Nat) (gone : List Nat) : Statement (.closingRendezvous ctx k gone) := Nat.zero_lt_succ _
theorem engineLost (e : EngineRef) : Statement (.engineLost e) := Nat.zero_lt_succ _

end BodyFits

end Sys2Proof.Laws
end

