-- ==== Sys2Proof/Tests/Slice0.lean ====
section
/-! SUPPORT. Tests: well-formedness, the decoding of words written out from the spec's encodings, the spec's worked examples, and a witness for the
hypotheses of each statement. -/

namespace Sys2Proof.Tests

open Sys2Proof.Machine

-- One theorem after the other: their evaluations would otherwise hold a thread each.
set_option Elab.async false

/-! ## Well-formedness: each check refuses an ill-formed term, and takes its boundary value -/

/-- Every instruction of the list is refused. -/
def refusedAll (is : List Instr) : Bool := is.all fun i => !i.wellFormed

/-- Every instruction of the list is well formed. -/
def takenAll (is : List Instr) : Bool := is.all fun i => i.wellFormed

/-- Registers: vector pairs, quads and partials, scalars, scalar pairs, pairs that may be constants, triples (R34, R92). -/
theorem wellFormed_registers : (refusedAll [.iadd64 5 4 6, .isext 9 2, .ld 6 4 .glob .b128 0, .ld 1 5 .glob .b32 0, .tment 126 3, .redadd 64 2,
    .mpopc 70 1, .lds 3 0 .glob .b64 0, .lds 2 1 .glob .b32 0, .sts 64 0 .loc .b32 0, .sadd64 4 3 97, .pin 63 2 4, .icmp 15 1 2 .eq,
    .mand 1 15 2, .sel 1 2 3 15] &&
  takenAll [.iadd64 126 4 6, .isext 8 2, .ld 4 4 .glob .b128 0, .ld 1 4 .glob .b32 0, .tment 125 3, .redadd 63 2, .mpopc 63 14,
    .lds 62 62 .glob .b64 31, .sts 63 63 .loc .b32 0, .sadd64 4 127 97, .pin 62 62 127, .icmp 14 127 127 .tstnz, .mand 14 14 14,
    .sel 63 63 63 14]) = true := by decide +kernel

/-- Numbers and sets: the rounding field, lane numbers, formats, table pairs, WID fields, slot counts, streams (R58, R80, R62, R95, R182). -/
theorem wellFormed_numbers : (refusedAll [.fadd 1 2 3 .illegal, .fcvt 1 2 0 1 .illegal, .fcvt 1 2 13 0 .rne, .vtos 9 2 96, .tmld 10 16, .widf 1 6,
    .rgpub 0 96 28, .rgrel 65 96 28, .mzero 8 8, .mav 20 96 8] &&
  takenAll [.fadd 1 2 3 .rsto, .fcvt 1 2 12 0 .rne, .vtos 9 2 95, .tmld 10 15, .widf 1 5, .rgpub 1 96 28, .rgrel 64 96 28, .mzero 7 8,
    .mav 20 96 7]) = true := by decide +kernel

/-- Cards, quads of scalars, and combinations of fields that an entry refuses (R132, R135-R137, R182, R186, R209). -/
theorem wellFormed_combinations : (refusedAll [.cpy 40 9 99, .xwr 41 56 96, .xtrig 4 20, .mloop 17 0, .mloop 64 0, .rgstat 26 96, .rgstat 64 96,
    .ld 1 4 .glob .illegal 0, .st 2 4 .glob .i8 0, .sts 2 4 .loc .i16 0, .lds 4 0 .glob .b128 0, .lds 2 0 .priv .b32 0, .red .priv 4 6 .add,
    .red .glob 4 7 .add64, .red .glob 5 6 .add, .fence .illegal 0 .pkg, .fence .full 0 .illegal6, .fence .full 0 .illegal7] &&
  takenAll [.cpy 40 48 99, .xtrig 48 20, .mloop 56 0, .rgstat 60 96, .st 2 4 .glob .n8 0, .lds 62 0 .loc .b64 0, .red .glob 4 6 .add64,
    .fence .full 0 .sys]) = true := by decide +kernel

/-- An event row is no instruction word. -/
theorem wellFormed_events : (refusedAll [.issueCycle 0, .homePerform 0 [] [], .copyCardAdmit 0 0, .engineLost (.matrix 0)]) = true :=
  by decide +kernel


/-! ## Decoding -/

/-- The word `w` is the instruction `i` with sync marker `x` and no chain bit. -/
def reads (w : Word) (x : Bool) (i : Instr) : Bool :=
  match decode w with
  | .ok d => d.instr == i && d.s == x && !d.c
  | .error _ => false

/-- Words that the spec prints beside their instructions (R76-R101, R117-R138 and the listings of its programs). -/
theorem decode_printed_group_words : ([(0x17020841, false, .fcvt 1 2 1 0 .rne), (0x5B100C00, true, .tment 8 3), (0x5B102004, true, .tmred 8 8),
    (0x5B162002, true, .tmext 11 8), (0x5B204041, true, .tmmrg 16 16 8), (0x42040818, true, .and 2 2 3), (0x0504070C, false, .imuli 2 1 12),
    (0x20557FFB, false, .bnz 42 0x7FFB), (0x20508001, false, .bnz 33 1), (0x20238003, false, .bz 7 3), (0x3F020014, false, .trap 5),
    (0x3F030000, false, .rtt 0), (0x3F030001, false, .rtt 1), (0x3F090000, false, .replay), (0x3F0B0000, false, .emret),
    (0x3F0A0001, false, .endg 1), (0x3F040410, false, .mfs 2 4), (0x3F050410, false, .mts 2 4), (0x3F0410C0, false, .mfs 8 0x30),
    (0x3F080204, false, .widf 1 1), (0x33000003, false, .tryBegin 0 3), (0x33800003, false, .tryBegin 1 3), (0x74000000, true, .commitTry),
    (0x34019401, false, .abortTry 101), (0x74060002, true, .tstat 3), (0x740A0003, true, .tdepth 5)] : List (Word × Bool × Instr)).all
    (fun x => reads x.1 x.2.1 x.2.2) = true := by decide +kernel

/-- R132-R138, R178, R255: memory, atomic, fence and Colander words. -/
theorem decode_printed_memory_words : ([(0x68021320, true, .ld 1 4 .glob .i8 0), (0x68021341, true, .ld 1 4 .glob .n16 1),
    (0x29041381, false, .st 2 4 .glob .b32 1), (0x2B122183, false, .sts 9 8 .loc .b32 3), (0x682032C0, true, .ld 16 12 .clu .b128 0),
    (0x291031C0, false, .st 8 12 .loc .b128 0), (0x68080980, true, .ld 4 2 .loc .b32 0), (0x2B280BA6, false, .sts 20 2 .glob .b64 6),
    (0x2C020818, false, .atom 1 2 3 .add), (0x2E021037, false, .atomg 1 4 6 .cas), (0x6E2810A8, true, .atomg 20 4 21 .add),
    (0x30C01030, false, .red .glob 4 6 .add), (0x31400820, false, .cclean .llc 2 4), (0x32800004, false, .fence .rel 0 .pkg),
    (0x32420002, false, .fence .acq 1 .clu), (0x32020003, false, .fence .full 1 .die), (0x5C0050B0, true, .skdef 20 22),
    (0x1C005001, false, .skundef 20), (0x5C0050C2, true, .skmerge 20 24), (0x1C00530B, false, .skfold 20 97), (0x1C005004, false, .skclr 20),
    (0x5C3C5005, true, .skstat 30 20), (0x5C0050D6, true, .sksnap 20 26), (0x5C10501F, true, .skqv 8 20 3), (0x5D280820, true, .pin 20 2 4),
    (0x1D005001, false, .unpin 20), (0x1D005002, false, .ptouch 20), (0x5D2C5003, true, .pstat 22 20)] : List (Word × Bool × Instr)).all
    (fun x => reads x.1 x.2.1 x.2.2) = true := by decide +kernel

/-- R139, R182, R189, R201-R222, R308: barrier, ring, card and matrix words. -/
theorem decode_printed_engine_words : ([(0x780B8002, true, .baraw 5 96), (0x79018060, true, .rginit 96 12), (0x79398309, true, .rgacq 28 96 97),
    (0x390380E2, false, .rgpub 1 96 28), (0x7939830B, true, .rgwait 28 96 97), (0x390380E4, false, .rgrel 1 96 28),
    (0x79318005, true, .rgstat 24 96), (0x7A502318, true, .cpy 40 8 99), (0x26522302, false, .xred 41 8 96), (0x2650230C, false, .xmlr 40 8 97),
    (0x26502315, false, .xmst 40 8 98), (0x260040A6, false, .xtrig 16 20), (0x3B102860, false, .mma 8 10 12 0), (0x3C200000, false, .mloop 16 0),
    (0x3D002000, false, .mzero 0 8), (0x3D002008, false, .mzeroRel 0 8), (0x3D022049, false, .mlda 1 8 9), (0x3D00204A, false, .msta 0 8 9),
    (0x3D298003, false, .mav 20 96 0), (0x3D00504C, false, .mva 0 20 9), (0x7D018005, true, .mwait 96), (0x3D018406, false, .msync 97),
    (0x3D000007, false, .spfen), (0x7E002400, true, .mcfg 9), (0x7E158401, true, .maud 10 97), (0x3E003002, false, .mjoin 12),
    (0x3E000003, false, .mleave)] : List (Word × Bool × Instr)).all (fun x => reads x.1 x.2.1 x.2.2) = true := by decide +kernel

/-- Each pair holds: the row's word is the instruction. -/
def decodes (ps : List (Nat × Instr)) : Bool := ps.all fun p => decodeTableWord 32 p.1 == some p.2

/-- One word a family, its fields laid out as the tables of R35-R41 have them. -/
theorem decode_fields : decodes [
    (0x01 <<< 24 ||| 4 <<< 17 ||| 2 <<< 10 ||| 3 <<< 3 ||| 0, .iadd 4 2 3),
      (0x04 <<< 24 ||| 1 <<< 17 ||| 2 <<< 10 ||| 0 <<< 8 ||| 0x78, .iaddi 1 2 0x78),
    (0x14 <<< 24 ||| 1 <<< 18 ||| 2 <<< 12 ||| 3 <<< 6 ||| 4, .fma 1 2 3 4), (0x0E <<< 24 ||| 3 <<< 17 ||| 1 <<< 10 ||| 2 <<< 3 ||| 2, .mxor 3 1 2),
    (0x20 <<< 24 ||| 2 <<< 21 ||| 5 <<< 15 ||| 0x7FFE, .bnz 5 0x7FFE), (0x21 <<< 24 ||| 0xFFFFFE, .call 0xFFFFFE),
    (0x28 <<< 24 ||| 8 <<< 17 ||| 4 <<< 10 ||| 3 <<< 8 ||| 6 <<< 5 ||| 31, .ld 8 4 .glob .b128 31),
    (0x2C <<< 24 ||| 12 <<< 17 ||| 11 <<< 10 ||| 9 <<< 3 ||| 5, .atom 12 11 9 .xor),
      (0x31 <<< 24 ||| 1 <<< 22 ||| 2 <<< 10 ||| 4 <<< 3, .cclean .llc 2 4),
    (0x33 <<< 24 ||| 1 <<< 23 ||| 0x7FFFFF, .tryBegin 1 0x7FFFFF), (0x25 <<< 24 ||| 0xABCDEF, .lit 0xABCDEF),
    (0x3B <<< 24 ||| 8 <<< 17 ||| 10 <<< 10 ||| 12 <<< 3 ||| 7, .mma 8 10 12 7),
    (0x3F <<< 24 ||| 4 <<< 16 ||| 8 <<< 9 ||| 0x30 <<< 2, .mfs 8 0x30)] = true := by decide +kernel

/-! One word for each of the 226 rows of spec/opcode_table.json, laid out from the row's `match` and the places of its fields. -/


theorem decode_vector_integer_words : decodes [
    (0x01AB2AE0, .iadd 85 74 92), (0x018B8291, .isub 69 96 82), (0x01BB8AF2, .imul 93 98 94), (0x019D8E33, .imulh 78 99 70),
    (0x01D7A60C, .imulhn 107 105 65), (0x019552D5, .imin 74 84 90), (0x019F16A6, .imax 79 69 84), (0x019FAF77, .iabsd 79 107 110),
    (0x02855E80, .and 66 87 80), (0x02DB16B1, .or 109 69 86), (0x02C7A6EA, .xor 99 105 93), (0x02B186F3, .andn 88 97 94),
    (0x02D382DC, .shl 105 96 91), (0x02A58E1D, .shr 82 99 67), (0x02899E2E, .sar 68 103 69), (0x029D7A5F, .rotl 78 94 75),
    (0x03899768, .iminn 68 101 109), (0x03D51681, .imaxn 106 69 80), (0x03DDB002, .popc 110 108), (0x0395A003, .clz 74 104),
    (0x03BD2004, .brev 94 72), (0x03C572C5, .bfx 98 92 88), (0x03B54296, .bfi 90 80 82), (0x038546F7, .prmt 66 81 94),
    (0x048B8017, .iaddi 69 96 23), (0x04BD41F3, .andi 94 80 243), (0x04CB0EFD, .ori 101 67 253), (0x04D74381, .xori 107 80 129),
    (0x059F2C5F, .shli 79 75 95), (0x05D7B5A5, .shri 107 109 165), (0x05B542C8, .sari 90 80 200), (0x0589AF27, .imuli 68 107 39),
    (0x06105163, .icmp 8 20 44 .le)] = true := by decide +kernel

theorem decode_compare_move_reduce_words : decodes [
    (0x07592182, .sel 22 18 6 2), (0x08DF1000, .mov 111 68), (0x08974401, .vbc 75 81), (0x0852A98A, .vtos 41 42 49),
    (0x088C0003, .lane 70), (0x08BF571C, .shfl 95 85 99), (0x08DB7B7D, .shflx 109 94 111), (0x08A75A5E, .shflup 83 86 75),
    (0x088736CF, .shfldn 67 77 89), (0x0942D000, .redadd 33 52), (0x0964D801, .redmin 50 54), (0x095AD002, .redmax 45 52),
    (0x095ED403, .redor 47 53), (0x09930804, .scanadd 73 66), (0x09A3A005, .scanaddx 81 104), (0x099D5006, .matchLead 78 84),
    (0x099BBC07, .matchCount 77 111), (0x0A488518, .sadd 36 33 35), (0x0A50B9B1, .ssub 40 46 54), (0x0A5AD9A2, .smul 45 54 52),
    (0x0A5AC913, .sand 45 50 34), (0x0A4AC1B4, .sor 37 48 54), (0x0A5A853D, .sxor 45 33 39), (0x0A52C916, .sshl 41 50 34),
    (0x0A48CD77, .sshr 36 51 46), (0x0B5AACDF, .saddi 45 43 223), (0x0B4CA5A3, .sandi 38 41 163), (0x0B5EA69A, .sori 47 41 154),
    (0x0B58BB1D, .sshli 44 46 29)] = true := by decide +kernel

theorem decode_scalar_and_pair_words : decodes [
    (0x0C4AD933, .scmp 37 54 38 .le), (0x0D5891B0, .sadd64 44 36 54), (0x0D508191, .ssub64 40 32 50), (0x0D44B9A2, .iadd64 34 46 52),
    (0x0D68A183, .isub64 52 40 48), (0x0DADAC04, .isext 86 107), (0x0D6C8005, .izext 54 32), (0x0D4CA916, .imulw 38 42 34),
    (0x0D6CA17F, .imulwn 54 40 47), (0x0E181020, .mand 12 4 4), (0x0E180C09, .mor 12 3 1), (0x0E08201A, .mxor 4 8 3),
    (0x0E02140B, .mandn 1 5 1), (0x0E080804, .mnot 4 2), (0x0E103005, .mpopc 8 12), (0x0E582006, .mffs 44 8), (0x0E180007, .mseta 12)] = true :=
      by decide +kernel

theorem decode_float_words : decodes [
    (0x10CD06EC, .fadd 102 65 93 .rup), (0x1185875A, .fsub 66 97 107 .rz), (0x12C94EFE, .fmul 100 83 95 .rsto),
    (0x13CD96F9, .fmac 102 101 95 .rne), (0x1449279E, .fma 18 18 30 30), (0x159F3710, .fmin 79 77 98), (0x15D9B619, .fmax 108 109 67),
    (0x15D9BA7A, .fminm 108 110 79), (0x15AF660B, .fmaxm 87 89 65), (0x15B91804, .fabs 92 70), (0x15B75C05, .fneg 91 87),
    (0x15AB936E, .fcpsgn 85 100 109), (0x15BB8407, .fclass 93 97)] = true := by decide +kernel

theorem decode_convert_special_words : decodes [
    (0x161850C6, .fcmp 12 20 24 .ltu), (0x1752C97E, .fcvt 41 50 5 7 .rsto), (0x18C13000, .ex2 96 76), (0x18852401, .lg2 66 73),
    (0x18A9BC02, .rcp 84 111), (0x18D76C03, .rsq 107 91), (0x18DBA404, .sqrt 109 105), (0x18BD9405, .sin 94 101),
    (0x188F9C06, .cos 71 103), (0x18975007, .tanh 75 84), (0x198F8EE0, .hadd2Bf16 71 99 92), (0x19ADAB49, .hmul2Bf16 86 106 105),
    (0x19C99E4A, .hmac2Bf16 100 103 73), (0x19C9375B, .hadd2F16 100 77 107), (0x199D5A24, .hmul2F16 78 86 68),
    (0x198DBE75, .hmac2F16 70 111 78), (0x19973E66, .hpack 75 79 76), (0x1A854752, .fdiv 66 81 106 .rz), (0x1BCB7400, .tment 101 93),
    (0x1BA362A1, .tmmrg 81 88 84), (0x1BB5B802, .tmext 90 110), (0x1B009063, .tmld 36 12), (0x1BD94804, .tmred 108 82)] = true := by decide +kernel

theorem decode_mean_pin_words : decodes [
    (0x1C00B1B0, .skdef 44 54), (0x1C009801, .skundef 38), (0x1C00B182, .skmerge 44 48), (0x1C00C143, .skfold 48 40),
    (0x1C00A004, .skclr 40), (0x1C64C005, .skstat 50 48), (0x1C00D946, .sksnap 54 40), (0x1C5C89B7, .skqv 46 34 54),
    (0x1D488900, .pin 36 34 32), (0x1D014801, .unpin 82), (0x1D012802, .ptouch 74), (0x1D48A003, .pstat 36 40), (0x1E00B000, .spawn 44),
    (0x1E00B001, .spawnr 44), (0x1E00D802, .jdec 54), (0x1E48B803, .qstat 36 46), (0x1E48D004, .frame 36 52)] = true := by decide +kernel

theorem decode_control_words : decodes [
    (0x2000424D, .bra 0x424d), (0x202953E7, .bz 18 0x53e7), (0x204B07E8, .bnz 22 0x7e8), (0x20640335, .brm 8 821),
    (0x20832C8D, .bany 6 0x2c8d), (0x20A32E3D, .ball 6 0x2e3d), (0x20C71183, .balw 14 0x1183), (0x20E65066, .bnone 12 0x5066),
    (0x2175309B, .call 0x75309b), (0x2200C001, .calli 48), (0x22017802, .jmpi 94), (0x22017C03, .calls 95), (0x22000000, .ret),
    (0x23D2A81C, .reconv 0xd2a81c), (0xA42BA000, .rep 10 1 1 1 1), (0xA5B241A4, .lit 0xb241a4), (0x2640A1B0, .xwr 32 40 54),
    (0x26202121, .xrd 16 8 36), (0x26308122, .xred 24 32 36), (0x2644C163, .xatom 34 48 44), (0x265080E4, .xmlr 40 32 28),
    (0x26508045, .xmst 40 32 8), (0x26004146, .xtrig 16 40), (0x2664D97F, .xcnt 50 54 47), (0x2746CC00, .alwr 35 51),
    (0x275E9001, .coll 47 36), (0x2752A942, .xwait 41 42 40), (0x2760A113, .xstat 48 40 34)] = true := by decide +kernel

theorem decode_memory_words : decodes [
    (0x28859277, .ld 66 100 .clu .i16 23), (0x2950B808, .st 40 46 .priv .n8 8), (0x2A4C8283, .lds 38 32 .clu .b32 3),
    (0x2B58AA1B, .sts 44 42 .clu .n8 27)] = true := by decide +kernel

theorem decode_atomic_maintenance_words : decodes [
    (0x2C8F3216, .atom 71 76 66 .xchg), (0x2DBBAE34, .atomc 93 107 70 .or), (0x2E5091B4, .atomg 40 36 54 .or),
    (0x2F549922, .atomx 42 38 36 .max64), (0x30418A78, .red .loc 98 79 .add), (0x3100B990, .cclean .l1 46 50),
    (0x3180B199, .cinv .msc 44 51), (0x3180D112, .cflush .msc 52 34), (0x3180898B, .pref .msc 34 49), (0x32820003, .fence .rel 1 .die),
    (0x339583A3, .tryBegin 1 0x1583a3)] = true := by decide +kernel

theorem decode_colander_try_words : decodes [
    (0x34018401, .abortTry 97), (0x34180002, .tstat 12), (0x345A0003, .tdepth 45), (0x34000000, .commitTry), (0x3854B400, .bararv 42 45),
    (0x384ACD09, .barwt 37 51 33), (0x3844C002, .baraw 34 48), (0x3801A21B, .barinit 104 67), (0x38608404, .barst 48 33),
    (0x38019EDD, .barexp 103 91)] = true := by decide +kernel

theorem decode_rings_barriers_words : decodes [
    (0x3900D970, .rginit 54 46), (0x3948A961, .rgacq 36 42 44), (0x394CCD12, .rgpub 38 51 34), (0x396CBDA3, .rgwait 54 47 52),
    (0x3960B574, .rgrel 48 45 46), (0x39508005, .rgstat 40 32), (0x3A5AC158, .cpy 45 48 43), (0x3A486061, .cpy2 36 24 12),
    (0x3A6881B2, .cpyt 52 32 54), (0x3A548133, .cpyg 42 32 38), (0x3A548164, .cpys 42 32 44), (0x3A62C805, .cpywp 49 50),
    (0x3A64D56E, .cpywt 50 53 45), (0x3A4CBD5F, .cpyst 38 47 43)] = true := by decide +kernel

theorem decode_matrix_words : decodes [
    (0x3B628D85, .mma 49 35 48 5), (0x3C500002, .mloop 40 2), (0x3D080400, .mzero 4 1), (0x3D038808, .mzeroRel 1 98),
    (0x3D060C09, .mlda 3 3 1), (0x3D06301A, .msta 3 12 3), (0x3D4C8013, .mav 38 32 2), (0x3D05AE9C, .mva 2 107 83),
    (0x3D016405, .mwait 89), (0x3D014C06, .msync 83), (0x3D000007, .spfen)] = true := by decide +kernel

theorem decode_system_words : decodes [
    (0x3E014C00, .mcfg 83), (0x3E44A801, .maud 34 42), (0x3E015002, .mjoin 84), (0x3E000003, .mleave), (0x3F020168, .trap 90),
    (0x3F030001, .rtt 1), (0x3F048FB0, .mfs 71 108), (0x3F05D750, .mts 107 84), (0x3F070120, .bkpt 72), (0x3F08A414, .widf 82 5),
    (0x3F0A0001, .endg 1), (0x3F000000, .nop), (0x3F010000, .exit), (0x3F060000, .yield), (0x3F090000, .replay), (0x3F0B0000, .emret)] = true :=
      by decide +kernel


/-! ## One word on a small machine

Group 0 of core 0 runs a work-group of 128 vector registers. Registers hold what a test names, the same in each lane. -/

/-- The small machine, with slot A of group 0 at word 0 of its bundle and lanes `m` active. -/
def small (r : Regs) (m : Mask) : State :=
  let h : Header := { vregs := 128, spad := 1024, dstack := 8, bars := 4, handler := 64 }
  let a : Slot := { st := .run, pc := 1, owned := BitVec.allOnes 96, active := m, bank := m }
  let g : Group := { wg := 1, regs := r, a := a }
  { groups := [(0, g)], wgs := [(1, { hdr := h, groups := [0], slots := [0] })], ctxs := [(0, {})], boot := 5, nextId := 2 }

/-- The place of a word: lanes `m`, after a LIT with `lit` if any. -/
def place (i : Instr) (lit : Option (BitVec 24)) (m : Mask) : Cursor :=
  { grp := 0, slotB := false, pos := 0, raw := encode false false i, lanes := m, lit := lit, next := 1, serial := 1 }

/-- The machine about to run `i`. -/
def ready (i : Instr) (r : Regs) (lit : Option (BitVec 24)) (m : Mask) : State :=
  { small r m with cursor := some (place i lit m) }

/-- Vector registers that hold one value in every lane. -/
def vecs (xs : List (Nat × Word)) : Regs := { v := xs.map fun x => (x.1, List.replicate 96 x.2) }

/-- Scalar registers. -/
def scas (xs : List (Nat × Word)) : Regs := { s := xs }

/-- Value of a result in a lane. -/
def pick (t : State) (r : Reg) (l : Nat) : Option Word :=
  ((t.grp 0).out.find? fun x => x.reg == r && x.mask.getLsbD l).map fun x => x.vals.getD l 0

/-- `i` on registers `r` with lanes `m` active gives register `d` the value `w` in lane `l`. -/
def gives (i : Instr) (r : Regs) (m : Mask) (d : Reg) (l : Nat) (w : Word) (lit : Option (BitVec 24) := none) : Bool :=
  match exec i (ready i r lit m) with
  | .next t => pick t d l == some w
  | _ => false

/-- Every row of a list holds in lane 0, with every lane active. -/
def rows (r : Regs) (d : Reg) (xs : List (Instr × Word)) : Bool :=
  xs.all fun x => gives x.1 r (BitVec.allOnes 96) d 0 x.2

/-- The flags that a word leaves in %fflags. -/
def flagsOf (i : Instr) (r : Regs) : Option Word :=
  match exec i (ready i r none (BitVec.allOnes 96)) with
  | .next t => some ((((t.grp 0).out.filter fun x => x.reg == Reg.spr 0x01).map fun x => x.vals.getD 0 0).foldl (· ||| ·) 0)
  | _ => none

/-! The values below are those of the spec's own examples. -/

/-- R75, the table of majors 0x01 and 0x02. -/
theorem test_vector_integer : (rows (vecs [(2, 0xFFFFFFFF), (3, 2)]) (.v 1) [
    (.iadd 1 2 3, 0x00000001), (.isub 1 2 3, 0xFFFFFFFD), (.imul 1 2 3, 0xFFFFFFFE), (.imulh 1 2 3, 0xFFFFFFFF),
    (.imulhn 1 2 3, 0x00000001), (.imin 1 2 3, 0xFFFFFFFF), (.imax 1 2 3, 0x00000002), (.iabsd 1 2 3, 0x00000003)] &&
  rows (vecs [(2, 0x800000F0), (3, 0x24)]) (.v 1) [
    (.and 1 2 3, 0x00000020), (.or 1 2 3, 0x800000F4), (.xor 1 2 3, 0x800000D4), (.andn 1 2 3, 0x800000D0),
    (.shl 1 2 3, 0x00000F00), (.shr 1 2 3, 0x0800000F), (.sar 1 2 3, 0xF800000F), (.rotl 1 2 3, 0x00000F08)]) = true := by
  decide +kernel

/-- R76. -/
theorem test_bitwords : rows (vecs [(1, 0xFFFFFFFF), (2, 0x800000F0), (3, 0x0804), (4, 0x0804), (5, 0x8C10)]) (.v 1) [
    (.iminn 1 2 3, 0x0804), (.imaxn 1 2 3, 0x800000F0), (.popc 1 2, 5), (.clz 1 2, 0), (.brev 1 2, 0x0F000001),
    (.bfx 1 2 4, 0x0F), (.bfi 1 2 4, 0xFFFFFF0F), (.prmt 1 2 5, 0xFF0000F0)] = true := by decide +kernel

/-- R77, R45. -/
theorem test_immediates : (rows (vecs [(2, 0xF0), (3, 0x80000000)]) (.v 1) [
    (.iaddi 1 2 0xF0, 0xE0), (.andi 1 2 0x3C, 0x30), (.ori 1 2 0, 0xF0), (.xori 1 2 0x0F, 0xFF), (.shli 1 2 4, 0xF00),
    (.shri 1 2 4, 0xF), (.sari 1 3 4, 0xF8000000), (.imuli 1 2 0xFE, 0xFFFFFE20)] &&
  gives (.ori 1 2 0) (vecs [(2, 0xF0)]) (BitVec.allOnes 96) (.v 1) 0 0xFFFFFFF0 (some 0xFFFFFF) &&
  gives (.iaddi 1 2 0x78) (vecs [(2, 8)]) (BitVec.allOnes 96) (.v 1) 95 0x12345680 (some 0x123456)) = true := by decide +kernel

/-- R78: s4, s5 and s6 all hold the value shown. -/
theorem test_compare : ([(Cond.eq, 0), (.ne, 0xFFFFFFFF), (.lt, 0xFFFFFFFF), (.le, 0xFFFFFFFF), (.ltn, 0), (.len, 0), (.tstz, 0),
    (.tstnz, 0xFFFFFFFF)] : List (Cond × Word)).all (fun x => [4, 5, 6].all fun k =>
      gives (.icmp 1 2 3 x.1) (vecs [(2, 0xFFFFFFFF), (3, 2)]) (BitVec.allOnes 96) (.s k) 0 x.2) = true := by decide +kernel

/-- R79. -/
theorem test_select : (gives (.sel 1 2 3 1) { vecs [(2, 7), (3, 9)] with s := [(4, 1)] } (BitVec.allOnes 96) (.v 1) 0 7 &&
  gives (.sel 1 2 3 1) { vecs [(2, 7), (3, 9)] with s := [(4, 1)] } (BitVec.allOnes 96) (.v 1) 95 9) = true := by decide +kernel

/-- Registers of R80's examples: v2 holds 100 + L, v3 holds 95 - L. -/
def moves : Regs :=
  { v := [(2, (List.range 96).map fun l => BitVec.ofNat 32 (100 + l)), (3, (List.range 96).map fun l => BitVec.ofNat 32 (95 - l))]
    s := [(7, 5)] }

/-- R80, with every lane active, and a source lane that is not. -/
theorem test_lane_moves : ([(.mov 1 2, .v 1, 3, 103), (.vbc 1 7, .v 1, 9, 5), (.vbc 1 93, .v 1, 0, 0xFFFFFFFD), (.vtos 9 2 40, .s 9, 0, 140),
    (.lane 1, .v 1, 95, 95), (.shfl 1 2 3, .v 1, 0, 195), (.shflx 1 2 97, .v 1, 6, 107), (.shflx 1 2 97, .v 1, 7, 106),
    (.shflup 1 2 97, .v 1, 0, 100), (.shflup 1 2 97, .v 1, 5, 104), (.shfldn 1 2 97, .v 1, 95, 195),
    (.shfldn 1 2 97, .v 1, 5, 106)] : List (Instr × Reg × Nat × Word)).all (fun x => gives x.1 moves (BitVec.allOnes 96) x.2.1 x.2.2.1 x.2.2.2) = true ∧
  gives (.shfldn 1 2 97) moves 1 (.v 1) 0 100 = true := by decide +kernel

/-- Registers of R81's examples. -/
def folds : Regs :=
  { v := [(2, (List.range 96).map fun l => BitVec.ofNat 32 l), (3, (List.range 96).map fun l => if l % 2 = 0 then 7 else 9)] }

/-- R81, with every lane active and, for the four reductions, with none. -/
theorem test_reductions : ([(.redadd 9 2, .s 9, 0, 4560), (.redmin 9 2, .s 9, 0, 0), (.redmax 9 2, .s 9, 0, 95), (.redor 9 2, .s 9, 0, 0x7F),
    (.scanadd 1 2, .v 1, 3, 6), (.scanaddx 1 2, .v 1, 3, 3), (.matchLead 1 3, .v 1, 2, 0), (.matchLead 1 3, .v 1, 3, 1),
    (.matchCount 1 3, .v 1, 7, 48)] : List (Instr × Reg × Nat × Word)).all (fun x => gives x.1 folds (BitVec.allOnes 96) x.2.1 x.2.2.1 x.2.2.2) = true ∧
  ([(.redadd 9 2, 0), (.redmin 9 2, 0x7FFFFFFF), (.redmax 9 2, 0x80000000), (.redor 9 2, 0)] : List (Instr × Word)).all (fun x =>
    gives x.1 folds 0 (.s 9) 0 x.2) = true := by decide +kernel

/-- R82. -/
theorem test_scalars : rows (scas [(2, 0xFFFFFFFF), (3, 2)]) (.s 1) [
    (.sadd 1 2 3, 1), (.ssub 1 2 3, 0xFFFFFFFD), (.smul 1 2 3, 0xFFFFFFFE), (.sand 1 2 3, 2), (.sor 1 2 3, 0xFFFFFFFF),
    (.sxor 1 2 3, 0xFFFFFFFD), (.sshl 1 3 100, 0x20), (.sshr 1 2 124, 0xF), (.saddi 1 3 100, 0x66), (.sandi 1 2 0x0F, 0xF),
    (.sshli 1 3 20, 0x00200000), (.scmp 1 2 3 .lt, 1)] = true ∧
  gives (.sori 1 96 0xF0) (scas []) (BitVec.allOnes 96) (.s 1) 0 0xFFF0 (some 0x0000FF) = true := by decide +kernel

/-- R83: the low register and the high one. -/
theorem test_pairs : rows (scas [(2, 0xFFFFFFFF), (3, 1)]) (.s 4) [(.sadd64 4 2 97, 0), (.ssub64 4 2 97, 0xFFFFFFFE)] = true ∧
  rows (scas [(2, 0xFFFFFFFF), (3, 1)]) (.s 5) [(.sadd64 4 2 97, 2), (.ssub64 4 2 97, 1)] = true ∧
  rows (vecs [(2, 0xFFFFFFF0), (3, 2), (4, 0x6820), (5, 0x40), (6, 0x20), (7, 0)]) (.v 8) [(.iadd64 8 4 6, 0x6840), (.isub64 8 4 6, 0x6800),
    (.isext 8 2, 0xFFFFFFF0), (.izext 8 2, 0xFFFFFFF0), (.imulw 8 2 3, 0xFFFFFFE0), (.imulwn 8 2 3, 0xFFFFFFE0)] = true ∧
  rows (vecs [(2, 0xFFFFFFF0), (3, 2), (4, 0x6820), (5, 0x40), (6, 0x20), (7, 0)]) (.v 9) [(.iadd64 8 4 6, 0x40), (.isub64 8 4 6, 0x40),
    (.isext 8 2, 0xFFFFFFFF), (.izext 8 2, 0), (.imulw 8 2 3, 0xFFFFFFFF), (.imulwn 8 2 3, 1)] = true := by decide +kernel

/-- R84: the three members of q3. -/
theorem test_masks : ([(.mand 3 1 2, 0xFF, 0, 0), (.mor 3 1 2, 0x00FFFFFF, 0xFFFFFFFF, 0), (.mxor 3 1 2, 0x00FFFF00, 0xFFFFFFFF, 0),
    (.mandn 3 1 2, 0xFF00, 0, 0), (.mnot 3 1, 0xFFFF0000, 0xFFFFFFFF, 0xFFFFFFFF),
    (.mseta 3, 0xFFFFFFFF, 0xFFFFFFFF, 0xFFFFFFFF)] : List (Instr × Word × Word × Word)).all (fun x =>
      let r := scas [(4, 0xFFFF), (8, 0x00FF00FF), (9, 0xFFFFFFFF)]
      gives x.1 r 1 (.s 12) 0 x.2.1 && gives x.1 r 1 (.s 13) 0 x.2.2.1 && gives x.1 r 1 (.s 14) 0 x.2.2.2) = true ∧
  rows (scas [(4, 0xFFFF), (8, 0x00FF00FF), (9, 0xFFFFFFFF)]) (.s 15) [(.mpopc 15 2, 48), (.mffs 15 2, 0)] = true := by decide +kernel

/-- R86, R87, R58: values. -/
theorem test_float : rows (vecs [(1, 0x3F800000), (2, 0x3F800000), (3, 0x33800000), (4, 0x40400000)]) (.v 1) [
    (.fadd 1 2 3 .rne, 0x3F800000), (.fadd 1 2 3 .rup, 0x3F800001), (.fsub 1 2 3 .rne, 0x3F7FFFFF), (.fmul 1 2 3 .rne, 0x33800000),
    (.fmac 1 2 3 .rz, 0x3F800000), (.fdiv 1 2 4 .rne, 0x3EAAAAAB)] = true ∧
  rows (vecs [(2, 0x40400000), (3, 0x40400000), (4, 0xC1100000)]) (.v 1) [(.fma 1 2 3 4, 0)] = true := by decide +kernel

/-- R86, R87: flags; NX is bit 4 (R55). -/
theorem test_float_flags : (flagsOf (.fadd 1 2 3 .rne) (vecs [(2, 0x3F800000), (3, 0x33800000)]) == some 0x10 &&
  flagsOf (.fma 1 2 3 4) (vecs [(2, 0x40400000), (3, 0x40400000), (4, 0xC1100000)]) == some 0 &&
  flagsOf (.fdiv 1 2 4 .rne) (vecs [(2, 0x3F800000), (4, 0)]) == some 0x02) = true := by decide +kernel

/-- R88. -/
theorem test_float_select : rows (vecs [(2, 0xC0400000), (3, 0x40000000)]) (.v 1) [
    (.fmin 1 2 3, 0xC0400000), (.fmax 1 2 3, 0x40000000), (.fminm 1 2 3, 0x40000000), (.fmaxm 1 2 3, 0xC0400000), (.fabs 1 2, 0x40400000),
    (.fneg 1 2, 0x40400000), (.fcpsgn 1 3 2, 0xC0000000), (.fclass 1 2, 2)] = true := by decide +kernel

/-- R89: the bit of lane 0. -/
theorem test_float_compare : ([(FCond.eq, 0), (.ne, 1), (.lt, 0), (.le, 0), (.un, 1), (.ord, 0), (.ltu, 1), (.leu, 1)] :
    List (FCond × Word)).all (fun x => gives (.fcmp 1 2 3 x.1) (vecs [(2, 0x7FC00000), (3, 0x3F800000)]) 1 (.s 4) 0 x.2) = true ∧
  flagsOf (.fcmp 1 2 3 .lt) (vecs [(2, 0x7FC00000), (3, 0x3F800000)]) = some 1 ∧
  flagsOf (.fcmp 1 2 3 .eq) (vecs [(2, 0x7FC00000), (3, 0x3F800000)]) = some 0 := by decide +kernel

/-- R59 and R62: `FCVT.bf16.f32` under RSTO with seed 1, and under RNE on a tie. -/
theorem test_convert : gives (.fcvt 1 2 1 0 .rne) (vecs [(2, 0x3F808000)]) 1 (.v 1) 0 0x3F80 = true ∧
  flagsOf (.fcvt 1 2 1 0 .rne) (vecs [(2, 0x3F808000)]) = some 0x10 := by decide +kernel

/-- R90: results that are representable. -/
theorem test_special : ([(.ex2 1 2, 0xC0000000, 0x3E800000), (.lg2 1 2, 0x41000000, 0x40400000), (.rcp 1 2, 0x40800000, 0x3E800000),
    (.rsq 1 2, 0x40800000, 0x3F000000), (.sqrt 1 2, 0x40000000, 0x3FB504F3), (.sin 1 2, 0, 0), (.cos 1 2, 0, 0x3F800000),
    (.tanh 1 2, 0xFF800000, 0xBF800000)] : List (Instr × Word × Word)).all (fun x => gives x.1 (vecs [(2, x.2.1)]) 1 (.v 1) 0 x.2.2) = true := by
  decide +kernel

/-- R91. -/
theorem test_packed_pairs : rows (vecs [(1, 0x3F803F80), (2, 0x40003F80), (3, 0x3F804040)]) (.v 1) [
    (.hadd2Bf16 1 2 3, 0x40404080), (.hmul2Bf16 1 2 3, 0x40004040), (.hmac2Bf16 1 2 3, 0x40404080), (.hpack 1 2 3, 0x40403F80)] = true ∧
  rows (vecs [(1, 0x3C003C00), (2, 0x40003C00), (3, 0x3C004200)]) (.v 1) [
    (.hadd2F16 1 2 3, 0x42004400), (.hmul2F16 1 2 3, 0x40004200), (.hmac2F16 1 2 3, 0x42004400)] = true := by decide +kernel

/-- R93: examples with %tshape.P = 0xFFF0. -/
theorem test_mean_words : (let r (xs : List (Nat × Word)) : Regs := { vecs xs with tshape := 0xFFF0 }
  gives (.tment 8 3) (r [(3, 0x40000000)]) 1 (.v 8) 0 0x3F000000 && gives (.tment 8 3) (r [(3, 0x40000000)]) 1 (.v 9) 0 0 &&
  gives (.tment 8 3) (r [(3, 0x40000000)]) 1 (.v 10) 0 1 &&
  (let x := r [(8, 0x3F000000), (9, 1), (10, 1), (12, 0x3F000000), (13, 0), (14, 1)]
   gives (.tmmrg 8 8 12) x 1 (.v 8) 0 0x3F400000 && gives (.tmmrg 8 8 12) x 1 (.v 9) 0 1 && gives (.tmmrg 8 8 12) x 1 (.v 10) 0 2) &&
  gives (.tmext 11 8) (r [(8, 0x3F000000), (9, 2), (10, 4)]) 1 (.v 11) 0 0x40000000) = true := by decide +kernel

/-- R94: lanes 0 to 3 hold the entries of 1, 2, 4 and 4 under p = -1. -/
theorem test_mean_tree : (let r : Regs := { tshape := 0xFFF0, v := [(8, List.replicate 4 0x3F000000),
      (9, [1, 0, 0xFFFFFFFF, 0xFFFFFFFF]), (10, [1, 1, 1, 1])] }
  gives (.tmred 8 8) r 15 (.v 8) 3 0x3F000000 && gives (.tmred 8 8) r 15 (.v 9) 0 2 && gives (.tmred 8 8) r 15 (.v 10) 1 4) = true := by
  decide +kernel

/-! ## Witnesses

One theorem for the hypotheses of each statement with hypotheses: a concrete machine and operands that meet them together, and for a
statement with several clauses the values at which the clauses meet. -/

/-- `Ready`, decided. -/
def isReady (s : State) (c : Cursor) (i : Instr) : Bool :=
  s.cursor == some c && !c.void && (s.issueCause c.grp c.slotB c.lit c.raw i).isNone &&
    (match (s.grp c.grp).tryR with
     | some r => (r.stops i).isNone
     | none => true)

theorem ready_of {s : State} {c : Cursor} {i : Instr} (h : isReady s c i = true) : Ready s c i := by
  simp only [isReady, Bool.and_eq_true, beq_iff_eq, Bool.not_eq_true', Option.isNone_iff_eq_none] at h
  obtain ⟨⟨⟨h1, h2⟩, h3⟩, h4⟩ := h
  refine ⟨h1, h2, h3, fun r hr => ?_⟩
  rw [hr] at h4
  simpa using h4

/-- Each word of the list runs with its own effect on the small machine. -/
def readyWords (is : List Instr) : Bool := is.all fun i => isReady (ready i {} none 1) (place i none 1) i

theorem ready_words {is : List Instr} (h : readyWords is = true) : ∀ i ∈ is, Ready (ready i {} none 1) (place i none 1) i :=
  fun i hi => ready_of (List.all_eq_true.1 h i hi)

/-- The small machine enables no exception in %mode, whatever flags a word raises. -/
theorem unmasked_small (i : Instr) (fl : Nat → Word) : Unmasked (ready i {} none 1) (place i none 1) fl := by
  show enabledTrap 1 1 fl = none
  simp [enabledTrap, flagTraps]

theorem witness_VectorIntegerResults : ∀ i ∈ [Instr.iadd 127 127 127, .isub 0 0 0, .imul 1 2 3, .imulh 1 2 3, .imulhn 1 2 3, .imin 1 2 3,
    .imax 1 2 3, .iabsd 1 2 3, .and 1 2 3, .or 1 2 3, .xor 1 2 3, .andn 1 2 3, .shl 1 2 3, .shr 1 2 3, .sar 1 2 3, .rotl 1 2 3, .iminn 1 2 3,
    .imaxn 1 2 3, .popc 1 2, .clz 1 2, .brev 1 2, .bfx 1 2 3, .bfi 1 1 1, .prmt 1 2 3], Ready (ready i {} none 1) (place i none 1) i :=
  ready_words (by decide +kernel)

/-- The shift immediates at 31 run, at 32 they are refused. -/
theorem witness_VectorImmediateResults : (∀ i ∈ [Instr.iaddi 1 2 0xFF, .andi 1 2 0x80, .ori 1 2 0, .xori 1 2 0x7F, .shli 1 2 31, .shri 1 2 0,
    .sari 1 2 31, .imuli 1 2 0xFE], Ready (ready i {} none 1) (place i none 1) i) ∧ 31 < (BitVec.signExtend 32 (32 : BitVec 8)).toNat :=
  ⟨ready_words (by decide +kernel), by decide⟩

theorem witness_CompareAndSelectResults : ∀ i ∈ [Instr.icmp 0 2 3 .eq, .icmp 14 127 2 .tstnz, .sel 63 0 63 14, .scmp 63 127 96 .len],
    Ready (ready i {} none 1) (place i none 1) i := ready_words (by decide +kernel)

theorem witness_LaneMoveAndMaskResults : ∀ i ∈ [Instr.mov 1 2, .vbc 1 127, .vtos 63 2 95, .lane 127, .shfl 1 2 3, .shflx 1 2 127, .shflup 1 2 0,
    .shfldn 1 2 97, .mand 14 14 0, .mor 3 1 2, .mxor 3 1 2, .mandn 3 1 2, .mnot 3 1, .mseta 14, .mpopc 63 14, .mffs 0 0],
    Ready (ready i {} none 1) (place i none 1) i := ready_words (by decide +kernel)

theorem witness_ReductionAndScanResults : ∀ i ∈ [Instr.redadd 63 2, .redmin 0 2, .redmax 9 2, .redor 9 2, .scanadd 127 2, .scanaddx 1 1,
    .matchLead 1 3, .matchCount 1 3], Ready (ready i {} none 1) (place i none 1) i := ready_words (by decide +kernel)

theorem witness_ScalarAndPairIntegerResults : ∀ i ∈ [Instr.sadd 63 127 63, .ssub 0 64 0, .smul 1 2 3, .sand 1 2 3, .sor 1 2 3, .sxor 1 2 3,
    .sshl 1 2 3, .sshr 1 2 3, .saddi 63 127 0xFF, .sandi 1 2 3, .sori 1 2 3, .sshli 1 2 31, .sadd64 62 127 62, .ssub64 4 2 64,
    .iadd64 126 4 6, .isub64 8 4 6, .isext 126 127, .izext 8 2, .imulw 8 8 9, .imulwn 8 2 3], Ready (ready i {} none 1) (place i none 1) i :=
  ready_words (by decide +kernel)

/-- R58: a magnitude between two multiples of the last place, and at a tie. -/
theorem witness_RoundingAndFloatArithmetic : ((-3 : Int) < 0 ∧ (3 : Int) < 4) ∧ (∀ i ∈ [Instr.fadd 1 2 3 .rup, .fsub 1 2 3 .dyn, .fmul 1 2 3 .rsto,
    .fmac 1 1 1 .rna, .fdiv 1 2 3 .rz, .fma 63 0 63 1], Ready (ready i {} none 1) (place i none 1) i) ∧
    ∀ i fl, Unmasked (ready i {} none 1) (place i none 1) fl :=
  ⟨by decide, ready_words (by decide +kernel), unmasked_small⟩

/-- A positive magnitude; the first and the last of the negative normal values and -infinity; the smallest NaN. -/
theorem witness_FloatSpecialOperands : (0 < 1) ∧ (0x80800000 ≤ (0xFF800000 : Word).toNat ∧ (0xFF800000 : Word).toNat ≤ 0xFF800000) ∧
    0x80800000 ≤ (0x80800000 : Word).toNat ∧ 0x7F800000 < ((0x7F800001 : Word) &&& 0x7FFFFFFF).toNat := by decide

theorem witness_FloatSelectAndCompareResults : (∀ i ∈ [Instr.fmin 1 2 3, .fmax 1 2 3, .fminm 1 2 3, .fmaxm 1 2 3, .fabs 1 2, .fneg 1 2, .fcpsgn 1 2 3,
    .hpack 1 2 3, .fclass 1 2, .fcmp 14 2 3 .leu, .fcmp 0 2 3 .lt], Ready (ready i {} none 1) (place i none 1) i) ∧
    ∀ i fl, Unmasked (ready i {} none 1) (place i none 1) fl :=
  ⟨ready_words (by decide +kernel), unmasked_small⟩

/-- A valid narrow descriptor in %nf0 and %nf3, so that source format 7 and destination formats 9 and 12 are met. -/
def narrowRegs : Regs := { nf := [(0, 0x769), (3, 0x769)] }

theorem witness_ConversionAndPackedPairResults : isReady (ready (.fcvt 1 2 12 7 .rup) narrowRegs none 1) (place (.fcvt 1 2 12 7 .rup) none 1)
      (.fcvt 1 2 12 7 .rup) = true ∧ Fp.nfValid (tgetD narrowRegs.nf 0 0) = true ∧ Fp.nfValid (tgetD narrowRegs.nf (12 - 9) 0) = true ∧
    (∀ i ∈ [Instr.fcvt 1 2 8 6 .rsto, .hadd2Bf16 1 2 3, .hmul2Bf16 1 2 3, .hmac2Bf16 1 2 3, .hadd2F16 1 2 3, .hmul2F16 1 2 3, .hmac2F16 1 2 3],
      Ready (ready i {} none 1) (place i none 1) i) ∧ ∀ i fl, Unmasked (ready i {} none 1) (place i none 1) fl :=
  ⟨by decide +kernel, by decide, by decide, ready_words (by decide +kernel), unmasked_small⟩

theorem witness_SpecialFunctionResults : (∀ i ∈ [Instr.ex2 1 2, .lg2 1 2, .rcp 1 2, .rsq 1 2, .sqrt 1 2, .sin 1 2, .cos 1 2, .tanh 127 0],
    Ready (ready i {} none 1) (place i none 1) i) ∧ ∀ i fl, Unmasked (ready i {} none 1) (place i none 1) fl :=
  ⟨ready_words (by decide +kernel), unmasked_small⟩


/-! ### A machine with memory

Context 0's first page, at virtual address 0 and channel-local frame 64, is readable, writable and executable; the list holds the entries
of its tables that the first chunk's stack keeps (R227). -/

/-- The memory that holds the page's tables. -/
def tables : List Host.Cell := [(0, 1), (1, 8), (524288, 1), (524289, 16), (1048576, 7), (1048578, 2)]

/-- A machine with the page. -/
def paged (s : State) : State := { s with ctxs := [(0, { root := 0 })], mem := tables }

/-- A table image: f rises from 0 to 1 at its last knot, g is 0. -/
def image : List Byte := List.replicate 1024 0 ++ [0, 0, 0x80, 0x3F] ++ List.replicate 1028 0

/-- The image stands in stores that the group still has on their way. -/
def imageStores : List Req :=
  ((List.range 17).map fun i => (128 * i, if i = 8 then [0, 0, 0x80, 0x3F] ++ List.replicate 124 0 else List.replicate 128 0)).map fun x =>
    { core := 0, grp := 0, fid := 1, ctx := 0, home := .msc 0, body := .write { lane := 0, addr := x.1, len := 128, data := x.2 } }

def imaged (i : Instr) : State := { paged (ready i {} none 1) with reqs := imageStores }

/-- NV is enabled and lane 0 adds a signalling NaN; NX alone is enabled and lane 0 adds 1 and 2^-24: the first and the last of the order. -/
theorem witness_EnabledExceptionWritesNothing :
    (let r : Regs := { vecs [(2, 0x7F800001), (3, 0)] with mode := 0x11 }
     let i : Instr := .fadd 1 2 3 .rne
     let s := ready i r none 1
     let val (n l : Nat) : Fp.FVal := Fp.fp32.read (s.grp 0).ftz ((s.grp 0).v n l).toNat
     let fl (l : Nat) : Word := (Fp.fp32.add ((s.grp 0).laneMode ((s.grp 0).rmOf .rne) l 0) (s.grp 0).ftz (val 2 l) (val 3 l)).2
     isReady s (place i none 1) i && r.mode.getLsbD 4 && (orFlags 1 fl).getLsbD 0 &&
       (List.range 96).all fun l => (1 : Mask).getLsbD l == ((1 : Mask).getLsbD l && (fl l).getLsbD 0)) = true ∧
    (let r : Regs := { vecs [(2, 0x3F800000), (3, 0x33800000)] with mode := 0x101 }
     let i : Instr := .fadd 1 2 3 .rne
     let s := ready i r none 1
     let val (n l : Nat) : Fp.FVal := Fp.fp32.read (s.grp 0).ftz ((s.grp 0).v n l).toNat
     let fl (l : Nat) : Word := (Fp.fp32.add ((s.grp 0).laneMode ((s.grp 0).rmOf .rne) l 0) (s.grp 0).ftz (val 2 l) (val 3 l)).2
     isReady s (place i none 1) i && [4, 5, 6, 10, 9, 7].all (fun k => !r.mode.getLsbD k) && r.mode.getLsbD 8 && (orFlags 1 fl).getLsbD 4 &&
       (List.range 96).all fun l => (1 : Mask).getLsbD l == ((1 : Mask).getLsbD l && (fl l).getLsbD 4)) = true := by decide +kernel

/-- The result of a transformed-mean step, if it is inside the domain. -/
def okOf {α : Type} (r : Fp.TmRes α) : Option (α × Word) :=
  match r with
  | .ok x f => some (x, f)
  | _ => none

theorem ok_of {α : Type} {r : Fp.TmRes α} {x : α} {f : Word} (h : okOf r = some (x, f)) : r = .ok x f := by
  cases r <;> simp_all [okOf]

/-- %tshape of p = -1 on the small machine. -/
def meanRegs : Regs :=
  { vecs [(3, 0x40000000), (8, 0x3F000000), (9, 1), (10, 1), (12, 0x3F000000), (13, 0), (14, 1)] with tshape := 0xFFF0 }

/-- Lane 0 of the examples of R93 and R94; an image that passes the checks of R73, for the first and the last pair. -/
theorem witness_TransformedMeanResults :
    (isReady (ready (.tment 125 3) meanRegs none 1) (place (.tment 125 3) none 1) (.tment 125 3) &&
      isReady (ready (.tmmrg 0 8 12) meanRegs none 1) (place (.tmmrg 0 8 12) none 1) (.tmmrg 0 8 12) &&
      isReady (ready (.tmext 127 8) meanRegs none 1) (place (.tmext 127 8) none 1) (.tmext 127 8) &&
      isReady (ready (.tmred 8 8) meanRegs none 1) (place (.tmred 8 8) none 1) (.tmred 8 8)) = true ∧
    Fp.tmEntry (Fp.tmMode 0xFFF0) (fun _ => none) 0x40000000 = .ok ⟨0x3F000000, 0, 1⟩ 0 ∧
    Fp.tmMerge (Fp.tmMode 0xFFF0) ⟨0x3F000000, 1, 1⟩ ⟨0x3F000000, 0, 1⟩ = .ok ⟨0x3F400000, 1, 2⟩ 0 ∧
    Fp.tmExit (Fp.tmMode 0xFFF0) (fun _ => none) ⟨0x3F000000, 2, 4⟩ = .ok 0x40000000 0 ∧
    (let t := tmTree (Fp.tmMode 0xFFF0) (⟨0x3F000000, 1, 1⟩ :: List.replicate 95 tmIdentity)
     t.val.isSome && !t.ovf && !t.dom && t.fl == 0 && Fp.tmInputOk (Fp.tmMode 0xFFF0) ⟨0x3F000000, 1, 1⟩) = true ∧
    (isReady (imaged (.tmld 62 15)) (place (.tmld 62 15) none 1) (.tmld 62 15) &&
      isReady (imaged (.tmld 10 0)) (place (.tmld 10 0) none 1) (.tmld 10 0)) = true ∧
    (imaged (.tmld 62 15)).readAt 0 (((imaged (.tmld 62 15)).grp 0).sp false 62).toNat 2056 4 = .ok image ∧
    Fp.pairOk ((wordsFrom 514 image).take 257) ((wordsFrom 514 image).drop 257) = true := by
  refine ⟨by decide +kernel, ok_of (by decide +kernel), ok_of (by decide +kernel), ok_of (by decide +kernel), by decide +kernel,
    by decide +kernel, ?_, by decide +kernel⟩
  have h : ((imaged (.tmld 62 15)).readAt 0 (((imaged (.tmld 62 15)).grp 0).sp false 62).toNat 2056 4).toOption = some image := by decide +kernel
  revert h
  cases (imaged (.tmld 62 15)).readAt 0 (((imaged (.tmld 62 15)).grp 0).sp false 62).toNat 2056 4 <;> simp [Except.toOption]


/-- A target in reach and one with other high bits, for each branch; BALW on devices 575 and 576; BRM with no lane, every lane and some lanes
taken, the other slot FREE and in use, one entry left on the divergence stack. -/
theorem witness_BranchesGoToTheirTarget :
    (∀ i ∈ [Instr.bra 5, .bz 5 5, .bnz 5 5, .bany 1 5, .ball 1 5, .bnone 14 0x7FFF, .balw 5 5, .brm 1 5],
      Ready (ready i {} none 1) (place i none 1) i) ∧
    (small {} 1).targetOk 0 15 = true ∧ (small {} 1).targetOk 0 (BitVec.ofInt 64 (-3)) = false ∧
    (575 < 576 ∧ ¬576 < 576) ∧
    (let r := scas [(4, 1)]
     let s := ready (.brm 1 5) r none 3
     isReady s (place (.brm 1 5) none 3) (.brm 1 5) && (3#96 &&& (s.grp 0).q false 1) == 1 && (1#96 &&& (s.grp 0).q false 1) == 1 &&
       (3#96 &&& (s.grp 0).q false 2) == 0 && ((s.grp 0).slot true).st == .free && ((s.grp 0).slot false).st == .run) = true ∧
    (let r := scas [(4, 1)]
     let s := (ready (.brm 1 5) r none 3).modGrp 0 fun g => { g with b := { st := .run }, dsp := 7 }
     isReady s (place (.brm 1 5) none 3) (.brm 1 5) && ((s.grp 0).slot true).st != .free && (s.grp 0).tryR.isNone &&
       decide ((s.grp 0).dsp < (s.wg (s.grp 0).wg).hdr.dstack)) = true :=
  ⟨ready_words (by decide +kernel), by decide +kernel, by decide +kernel, by decide, by decide +kernel, by decide +kernel⟩

/-- Packet 1 holds a callee descriptor for 32 registers; word 6 is the callee. -/
def callee (s : State) : State :=
  { paged s with mem := tables ++ setCells [] (leafPa (7 + 2048 * 64) 0) (List.replicate 12 0 ++ leBytes 4 0x25000020 ++
      leBytes 4 0x3F000000 ++ leBytes 4 0x3F000000) }

/-- A legal callee with six and with seven entries on the return stack, JMPI and RET to legal targets, RET on an empty stack; CALLI on
lanes of one target and of two, with one entry left on the divergence stack; RECONV. -/
theorem witness_CallsAndReturnsMoveTheStack :
    (let s := callee (ready (.call 2) {} none 1)
     isReady s (place (.call 2) none 1) (.call 2) && (s.calleeCause 0 6).isNone) = true ∧
    (let s := callee (ready (.calls 102) {} none 1)
     isReady s (place (.calls 102) none 1) (.calls 102) && s.targetOk 0 6 && (BitVec.ofInt 64 (102 - 96) == (6#64))) = true ∧
    (let s := callee (ready .ret {} none 1)
     isReady s (place .ret none 1) .ret && ((s.grp 0).slot false).rstack == []) = true ∧
    (∀ i ∈ [Instr.jmpi 102, .ret, .reconv 0xFFFFFF, .reconv 7], Ready (ready i {} none 1) (place i none 1) i) ∧
    (6 < 7 ∧ 7 ≤ 7) ∧
    (let s := callee (ready (.calli 4) (vecs [(4, 6)]) none 3)
     isReady s (place (.calli 4) none 3) (.calli 4) && (List.range 96).all (fun l => !(3#96).getLsbD l || (s.grp 0).vp 4 l == 6) &&
       (s.calleeCause 0 6).isNone && decide (((s.grp 0).slot false).rstack.length < 7)) = true ∧
    (let t : Table (List Word) := [(4, [6, 18])]
     let s := (callee (ready (.calli 4) { v := t } none 3)).modGrp 0 fun g => { g with dsp := 7 }
     let s := { s with mem := s.mem ++ setCells [] (leafPa (7 + 2048 * 64) 60) (leBytes 4 0x25000001 ++ leBytes 4 0x3F000000 ++ leBytes 4 0x3F000000) }
     isReady s (place (.calli 4) none 3) (.calli 4) && (s.grp 0).targets 3 4 == [(6, 1), (18, 2)] && (s.calleeCause 0 6).isNone &&
       (s.calleeCause 0 18).isNone && decide ((s.grp 0).dsp + 1 ≤ (s.wg (s.grp 0).wg).hdr.dstack)) = true :=
  ⟨by decide +kernel, by decide +kernel, by decide +kernel, ready_words (by decide +kernel), by decide, by decide +kernel, by decide +kernel⟩

/-- The three words before the callee can be fetched; 128 registers are a descriptor, 129 are not. -/
theorem witness_CalleeDescriptorIsChecked :
    (let s := callee (small {} 1)
     let f (k : Nat) : Option Word := (s.fetchWord (s.ctxOf 0) k).toOption
     f 3 == some 0x25000020 && f 4 == some 0x3F000000 && f 5 == some 0x3F000000 && (6 : Dword).toNat % 3 == 0 &&
       ((6 : Dword) >>> 32 == (s.wg (s.grp 0).wg).hdr.entry >>> 32)) = true ∧
    ((0x25000080 : Word).toNat - 0x25000000 = 128 ∧ (0x25000081 : Word).toNat - 0x25000000 = 129) := by decide +kernel

/-- A REP of 64 whose stepped destination ends at v127, before an IADD; LIT, NOP and YIELD; EXIT of some lanes and of all. -/
theorem witness_RepAndPrefixWords : ((64 : BitVec 7).toNat + (63 : BitVec 6).toNat * 1 < 128) ∧
    (∀ i ∈ [Instr.lit 0xFFFFFF, .nop, .yield, .exit], Ready (ready i {} none 1) (place i none 1) i) ∧
    (let i : Instr := .rep 63 1 0 0 0
     let w : DWord := ⟨false, false, .iadd 64 2 3, encode false false (.iadd 64 2 3)⟩
     let x : Issue := { grp := 0, slotB := false, pos := 0, words := [⟨true, false, i, encode true false i⟩, w]
                        next := 2, marked := false, serial := 1, lanes := 1 }
     let s := { ready i {} none 1 with issued := [x] }
     isReady s (place i none 1) i && (x.words[((place i none 1).pos - x.pos).toNat + 1]? == some w)) = true ∧
    (((BitVec.allOnes 96 : Mask) &&& ~~~1) ≠ 0 ∧ ((BitVec.allOnes 96 : Mask) &&& ~~~BitVec.allOnes 96) = 0) :=
  ⟨by decide, ready_words (by decide +kernel), by decide +kernel, by decide⟩


/-- A group with a handler, outside it and outside a region, with nothing outstanding. -/
theorem witness_SoftwareTrapsAreTaken :
    (let s := ready (.trap 127) {} none 1
     let g := s.grp 0
     s.cursor == some (place (.trap 127) none 1) && !g.dead && g.tryR.isNone && !g.priv && g.trap.isNone && g.spec.isNone && g.out == [] &&
       g.a.rep.isNone && g.b.rep.isNone && (s.wg g.wg).hdr.handler != 0) = true := by decide +kernel

/-- The machine in its handler, in slot A. -/
def handling (i : Instr) : State := (ready i {} none 1).modGrp 0 fun g => { g with priv := true }

/-- The waits of the four returns are over; the trap registers at both ends of their range, inside the handler and outside. -/
theorem witness_ReturnsAndPrivilege :
    ([Instr.rtt 0, .rtt 1, .replay, .emret, .endg 1].all fun i =>
      let s := handling i
      let g := s.grp 0
      isReady s (place i none 1) i && !g.privB && g.trap.isNone && g.a.pend.isNone && g.b.pend.isNone && g.a.owned != 0 && !g.dead &&
        s.returnReady 0 && s.highOk 0 0 && s.highOk 0 (BitVec.ofNat 64 (s.bundleAfter 0 (s.trapPos 0)))) = true ∧
    ([Instr.replay, .emret, .rtt 0, .endg 0, .mfs 1 0x20, .mfs 1 0x27, .mts 0x20 1, .mts 0x27 1].all fun i =>
      i.kindCause.isNone && !i.illspr) = true ∧
    ((small {} 1).grp 0).priv = false ∧ ((handling .replay).grp 0).priv = true ∧ ((handling .replay).grp 0).privB = false :=
  ⟨by decide +kernel, by decide +kernel, by decide +kernel, by decide +kernel, by decide +kernel⟩

/-- Every register of R21, read and written: those of the user and, in the handler, the trap registers; modes 1 and 7, shapes that are and are
not legal; the last field of a work identifier and the first that is none. -/
theorem witness_SpecialRegisterMoves :
    (([0x00, 0x01, 0x02, 0x03, 0x06, 0x07, 0x08, 0x09, 0x0A, 0x0B, 0x0C, 0x10, 0x11, 0x12, 0x13, 0x30, 0x31, 0x32, 0x33, 0x34, 0x35, 0x04, 0x05,
      0x0D] : List (BitVec 7)).all fun a => isReady (ready (.mfs 1 a) {} none 1) (place (.mfs 1 a) none 1) (.mfs 1 a)) = true ∧
    (([0x20, 0x21, 0x22, 0x23, 0x24, 0x25, 0x26, 0x27] : List (BitVec 7)).all fun a =>
      isReady (handling (.mfs 2 a)) (place (.mfs 2 a) none 1) (.mfs 2 a) &&
        isReady (handling (.mts a 2)) (place (.mts a 2) none 1) (.mts a 2)) = true ∧
    (([0x00, 0x01, 0x02, 0x03, 0x10, 0x13, 0x30, 0x31, 0x34, 0x35, 0x0D, 0x04, 0x0C, 0x32, 0x33] : List (BitVec 7)).all fun d =>
      isReady (ready (.mts d 2) {} none 1) (place (.mts d 2) none 1) (.mts d 2)) = true ∧
    ((1 % 8 ≠ 0 ∧ 1 % 8 ≠ 7) ∧ 7 % 8 = 7) ∧ Fp.tmShapeOk 512 = true ∧ Fp.tmShapeOk 513 = false ∧
    (∀ i ∈ [Instr.widf 1 0, .widf 1 1], Ready (ready i {} none 1) (place i none 1) i) ∧
      (0 < ({} : Header).widths.length ∧ ({} : Header).widths.length ≤ 1) :=
  ⟨by decide +kernel, by decide +kernel, by decide +kernel, by decide, by decide +kernel, by decide +kernel, ready_words (by decide +kernel),
    by decide⟩

/-- Aligned and not; below and at 2^23; the last canonical addresses and the first that are not. -/
theorem witness_AccessChecks : ((16 : Nat) ∈ [1, 2, 4, 8, 16] ∧ 15 % 16 ≠ 0 ∧ 16 % 16 = 0) ∧ (8 % 8 = 0 ∧ 2 ^ 23 ≤ 8388608 ∧ 8388600 < 2 ^ 23) ∧
    ((small {} 1).spadRange 0 0 1016 8 = true) ∧
    ((BitVec.ofNat 64 (2 ^ 56 - 8)).extractLsb' 56 8 = 0 ∧ (BitVec.ofNat 64 (2 ^ 56)).extractLsb' 56 8 ≠ 0 ∧
      (BitVec.ofNat 64 (2 ^ 56)).extractLsb' 56 8 ≠ 0xFF ∧ (BitVec.ofNat 64 (2 ^ 64 - 2 ^ 56)).extractLsb' 56 8 = 0xFF) ∧
    (small {} 1).window 0 (2 ^ 56 - 8) = none := by decide +kernel

/-- Every memory word is ready; lane 0 of a local load passes its checks at the last word, and is refused one word on. -/
theorem witness_MemoryWordsEnterTheQueue :
    (∀ i ∈ [Instr.ld 4 8 .glob .b128 31, .st 4 8 .priv .n8 0, .lds 4 8 .loc .b64 1, .sts 4 8 .clu .b32 0, .atom 1 2 4 .cas, .atomc 1 2 3 .xchg,
      .atomg 1 2 4 .cas, .atomx 2 4 8 .cas64, .atomx 1 4 8 .fmax, .red .loc 4 6 .add, .red .glob 4 6 .add64, .red .clu 4 6 .fadd],
      Ready (ready i {} none 1) (place i none 1) i) ∧
    ((ready (.ld 1 2 .loc .b32 0) {} none 1).checkLane 0 0 .loc (.load .b32) 1020 4).toOption =
      some (true, [{ lane := 0, addr := 1020, len := 4 }]) ∧
    ((ready (.ld 1 2 .loc .b32 0) {} none 1).checkLane 0 0 .loc (.load .b32) 1024 4).toOption = none ∧
    ((ready (.st 1 2 .loc .b32 0) {} none 1).grp 0).tryR = none ∧ ((ready (.lds 1 2 .loc .b32 0) {} none 1).checkLane 0 96 .loc (.load .b32) 1020 4).toOption =
      some (true, [{ lane := 96, addr := 1020, len := 4 }]) :=
  ⟨ready_words (by decide +kernel), by decide +kernel, by decide +kernel, by decide +kernel, by decide +kernel⟩

/-- Canonical bases that are and are not multiples of 2^35, and one that is not canonical; a defined region and none. -/
theorem witness_ColanderWords : (∀ i ∈ [Instr.skstat 30 20, .skqv 8 20 3, .skdef 20 22, .skundef 20, .skmerge 20 24, .skfold 20 97, .skclr 20,
      .sksnap 20 26], Ready (ready i {} none 1) (place i none 1) i) ∧
    (2 ^ 35 / 2 ^ 56 = 0 ∧ (2 ^ 64 - 2 ^ 35) / 2 ^ 56 = 255 ∧ 2 ^ 56 / 2 ^ 56 = 1 ∧ (2 ^ 35 + 64) % 2 ^ 35 ≠ 0 ∧ 64 % 64 = 0 ∧ 32 % 64 ≠ 0) ∧
    (small {} 1).window 0 (2 ^ 35) = none ∧
    ({ small {} 1 with ctxs := [(0, { regions := [(2 ^ 35, {})] })] } : State).window 0 (2 ^ 35) ≠ none :=
  ⟨ready_words (by decide +kernel), by decide, by decide +kernel, by decide +kernel⟩

/-- Legal ranges of a cleaning and of an invalidation, the longest, one that is too long and the illegal level; a strict fence and a
speculative one. -/
theorem witness_MaintenanceAndFences : (∀ i ∈ [Instr.cclean .llc 2 4, .cinv .l1 2 4, .cflush .msc 2 4, .pref .illegal 2 4, .fence .full 1 .sys,
      .fence .acq 0 .grp, .fence .rel 0 .core], Ready (ready i {} none 1) (place i none 1) i) ∧
    (2 ^ 30 ≤ 2 ^ 30 ∧ ¬2 ^ 30 + 1 ≤ 2 ^ 30 ∧ 256 % 128 = 0) ∧
    ((small {} 1).groups.filter fun e => coreOf e.1 == coreOf 0 && (e.2.tryR.isSome || e.2.spec.isSome)).length = 0 :=
  ⟨ready_words (by decide +kernel), by decide, by decide +kernel⟩

/-- An open region at a depth, opened by slot A. -/
def regionAt (depth : Nat) : TryRegion :=
  { depth := depth, startId := 2, laneMode := false, slotB := false, target := 15, savedPoint := some 60
    ckpt := { regs := { s := [(3, 7)] }, a := { st := .run, owned := 3, active := 1, bank := 1 }, b := {}, out := [] }, otherFree := true }

/-- A machine in a region. -/
def inRegion (i : Instr) (depth : Nat) : State := (ready i {} none 1).modGrp 0 fun g => { g with tryR := some (regionAt depth) }

/-- TRY outside a region, ready and not; at depths 3 and 4; COMMIT and ABORT inside and outside; a COMMIT that closes, one that meets a
conflict, one that must wait and one whose lock finds a fault. -/
theorem witness_TryRegionsOpenAndEnd :
    (∀ i ∈ [Instr.tryBegin 0 3, .tryBegin 1 0x7FFFFF, .commitTry, .abortTry 101, .tstat 14, .tdepth 63],
      Ready (ready i {} none 1) (place i none 1) i) ∧
    (ready (.tryBegin 0 3) {} none 1).tryReady 0 false = true ∧
    ((ready (.tryBegin 0 3) {} none 1).modGrp 0 fun g => { g with b := { st := .run } }).tryReady 0 false = false ∧
    ([(Instr.tryBegin 0 3, 3), (.tryBegin 0 3, 4), (.commitTry, 2), (.commitTry, 1), (.abortTry 101, 4)].all fun x =>
      isReady (inRegion x.1 x.2) (place x.1 none 1) x.1 && (((inRegion x.1 x.2).grp 0).tryR == some (regionAt x.2))) = true ∧
    (let s := inRegion .commitTry 1
     let g := s.grp 0
     (g.slot true).st == .free && g.out == [] && !s.repLeft 0 false && !g.regionBusy (regionAt 1) && s.wbDone 0 0 (regionAt 1).moved &&
       (s.lockCause 0 []).isNone && (s.lockCause 0 [{ bank := false, addr := 0, val := 1, lane := 0 }]).isSome) = true :=
  ⟨ready_words (by decide +kernel), by decide +kernel, by decide +kernel, by decide +kernel, by decide +kernel⟩

theorem witness_RollbackRestoresTheGroup : ((inRegion .nop 1).grp 0).tryR = some (regionAt 1) := by decide +kernel

/-- Barrier 4 of the cluster is the work-group's barrier 0; barrier 15 is held by another work-group of the context. -/
def barred (i : Instr) (r : Regs) (x : Barrier) : State :=
  let s := ready i r none 1
  let w : Wg := { s.wg 1 with bb := 4 }
  { s with wgs := [(1, w), (2, w)], clusters := [(0, { bars := [(4, x), (15, { holder := some 2 })] })] }

/-- Handles 3, 4, 15, 16, 31 and 32 with BARS = 4; each word on barrier 0; a phase that has turned and one that has not; EXPA 1024 and 1025;
TX at both ends of its range, and the last arrival's byte count. -/
theorem witness_BarriersOfWorkGroups :
    (let s := barred .nop {} {}
     let w := s.wg 1
     w.core == coreOf 0 && s.barNo w 3 == some 7 && (s.barNo w 4).isNone && (s.barNo w 15).isNone && (s.barNo w 16).isNone &&
       s.barNo w 31 == some 15 && (s.barNo w 32).isNone && ((s.cluster 0).bar 15).holder == some 2 && ((s.cluster 0).bar 0).holder.isNone) = true ∧
    ([Instr.bararv 5 96, .barwt 5 96 97, .baraw 5 96, .barinit 96 97, .barst 6 96, .barexp 96 97].all fun i =>
      let s := barred i {} { ph := true, arr := 2, expa := 2, tx := -1 }
      isReady s (place i none 1) i && s.barNo (s.wg 1) ((s.grp 0).sc false 96).toNat == some 4) = true ∧
    ((1024 : Word).toNat ≤ 1024 ∧ 1024 < (1025 : Word).toNat) ∧ (-2 ^ 31 ≤ (-2 ^ 31 : Int) ∧ (2 ^ 31 - 1 : Int) < 2 ^ 31 ∧
      ((-1 : BitVec 32).toInt + (1 : Word).toInt = 0)) :=
  ⟨by decide +kernel, by decide +kernel, by decide, by decide⟩


/-- The small machine with `x` as ring 15 of its cluster. -/
def ringed (r : Regs) (x : Ring) : State := { small r 1 with clusters := [(0, { rings := [(15, x)] })] }

/-- The small machine with `x` as channel 15 of its cluster. -/
def channelled (x : Channel) : State := { small {} 1 with clusters := [(0, { chans := [(15, x)] })] }

theorem witness_RingChannelAndCounterWords_run : readyWords [.rgacq 8 96 97, .rgwait 8 96 97, .rgpub 8 96 97, .rgrel 8 96 97, .rgstat 8 96,
    .rginit 96 4, .cpywp 8 96, .cpywt 8 96 97, .cpyst 8 96 97, .xstat 8 96 97, .alwr 8 96, .xwait 8 96 97, .xcnt 8 96 97, .xtrig 8 4] = true := by
  decide +kernel

/-- Rings 15 and 16, counts 0, 1, 64 and 65, in a ring that has just enough slots for one more and too few for the next. -/
theorem witness_RingChannelAndCounterWords_rings :
    (let s := ringed (scas [(0, 15), (1, 16), (2, 1), (3, 64), (4, 65)]) { v := true, lcnt := 2, pres := 9, ppub := 8, crel := 6, cres := 7 }
     let g := s.grp 0
     let x := s.ring 0 15
     let n (k : Nat) : Nat := (g.sc false (96 + k)).toNat
     x.v && x.ctx == s.ctxOf 0 && !(s.ring 0 14).v && (x.pres - x.crel).toNat + 1 == 4 && (x.ppub - x.cres).toNat == 1 &&
       (g.s false 0).toNat == 15 && (g.s false 4).toNat == 65 && n 0 == 0) = true := by decide +kernel

/-- Another context's ring, a ring of this work-group and one of another; ring configurations that fit the work-group exactly, that no bit
allows and that hold too many slots. -/
theorem witness_RingChannelAndCounterWords_bindings :
    (((ringed {} { v := true, ctx := 1 }).ring 0 15).ctx != (small {} 1).ctxOf 0 &&
      ((ringed {} { v := true, owner := 1 }).ring 0 15).owner == ((small {} 1).grp 0).wg &&
      ((ringed {} { v := true, owner := 2 }).ring 0 15).owner != ((small {} 1).grp 0).wg) = true ∧
    ((0x0601 : Word).extractLsb' 12 20 = 0 ∧ ((0x0601 : Word).extractLsb' 8 4).toNat = 6 ∧ 16 * 1 * 64 = ((small {} 1).wg 1).hdr.spad) ∧
    ((0x1601 : Word).extractLsb' 12 20 ≠ 0 ∧ ((0x0D01 : Word).extractLsb' 8 4).toNat = 13) :=
  ⟨by decide +kernel, by decide +kernel, by decide +kernel⟩

/-- A halted channel; a position that has just been reached and the one before; a counter at its threshold; the kinds of an armed card at the two
limits of their range, and 7. -/
theorem witness_RingChannelAndCounterWords_channels :
    ((channelled { halted := true, wp := 5 }).chan 0 15).halted = true ∧ (((5 : Word) - 5).toNat < 2 ^ 31 ∧ ¬((4 : Word) - 5).toNat < 2 ^ 31) ∧
    tgetD ((small {} 1).ctx 0).counters 255 0 = 0 ∧
    (((0x0F00 : Word).extractLsb' 12 3).toNat = 0 ∧ ((0x6000 : Word).extractLsb' 12 3).toNat = 6 ∧ ((0x7000 : Word).extractLsb' 12 3).toNat = 7) ∧
    (4095 < 4096) ∧ ((small {} 1).ctx 0).armed.length = 0 :=
  ⟨by decide +kernel, by decide +kernel, by decide +kernel, by decide +kernel, by decide, by decide +kernel⟩


/-- A machine on whose words every check of a card passes: the page, the window 0 with every right and the group 0 of this package alone. -/
def carding (i : Instr) (r : Regs) (x : Channel) : State :=
  let s := paged (ready i r none 1)
  { s with ctxs := [(0, { root := 0, peer := [(0, BitVec.ofNat 128 (2 ^ 68 + 15))] })], clusters := [(0, { chans := [(15, x)] })]
           mcr := [(0, BitVec.ofNat 1024 (2 ^ 623 + 2 ^ 611 + 255 * 2 ^ 576 + 1))], members := [(0, 1)] }

/-- The checks of a card pass, and it goes to a channel that has room, none, or that is halted. -/
def cardPasses (i : Instr) (k : CardKind) (r : Regs) (x : Channel) : Bool :=
  let s := carding i r x
  let c := place i none 1
  let u0 := s.noted c i
  let u := u0.seenCard 0 (u0.captured c k 8)
  isReady s c i && ((s.grp 0).sc false 111).toNat == 15 && (s.unfinished 0 0 < 256) && (s.chan 0 15) == x &&
    (match u.cardChecks 0 (u.captured c k 8) with
     | .ok _ => true
     | _ => false)

/-- Registers 8 to 15 of a copy whose source is global. -/
def fromGlobal : Regs := { s := [(13, 0x30000)] }

/-- Cards of no bytes to an empty channel 15, to a halted one and to one that holds 32 cards; a card that counts 256 of the quota; an allowance of
0, which a card of no units and none of one unit passes. -/
theorem witness_CardsAndCollectivesArePosted_cards :
    (cardPasses (.cpy 4 8 111) .cpy {} {} && cardPasses (.cpy2 4 8 111) .cpy2 {} {} && cardPasses (.cpyt 4 8 111) .cpyt fromGlobal {} &&
      cardPasses (.cpyg 4 8 111) .cpyg {} {} && cardPasses (.cpys 4 8 111) .cpys {} {} && cardPasses (.xwr 4 8 111) .xwr {} {} &&
      cardPasses (.xrd 4 8 111) .xrd {} {} && cardPasses (.xred 4 8 111) .xred {} {} && cardPasses (.xatom 4 8 111) .xatom {} {} &&
      cardPasses (.xmlr 4 8 111) .xmlr {} {} && cardPasses (.xmst 4 8 111) .xmst {} {}) = true ∧
    cardPasses (.cpy 4 8 111) .cpy {} { halted := true } = true ∧
    cardPasses (.cpy 4 8 111) .cpy {} { queue := List.replicate 32 { kind := .cpy, words := [], ctx := 0 } } = true ∧
    (let x : Allow := { cap := 1, out := 1 }
     0 ≤ x.cap - x.out ∧ ¬1 ≤ x.cap - x.out) :=
  ⟨by decide +kernel, by decide +kernel, by decide +kernel, by decide +kernel⟩

/-- A machine with a parameter block of kind `k` at address 0. -/
def collecting (k : Byte) : State :=
  let s := carding (.coll 4 8) {} {}
  { s with mem := tables ++ [(16777252, k)] }

/-- The block of a barrier in the package, the block of one among the members of group 0, and one that fails: kinds 6, 5 and 7. -/
theorem witness_CardsAndCollectivesArePosted_blocks :
    ([(6, some (some 0)), (5, some (some 0)), (7, some none)].all fun x =>
      let s := collecting x.1
      let u := s.noted (place (.coll 4 8) none 1) (.coll 4 8)
      isReady s (place (.coll 4 8) none 1) (.coll 4 8) &&
        (((u.readAt 0 0 56 128).toOption.map fun bs => ((u.seenAt 0 0 56).collCheck 0 (blockOf bs)).toOption) == x.2)) = true := by decide +kernel


/-- A machine on whose words the checks of a matrix word pass: every row is the work-group's, its allocation holds a block of 32 rows; `q` in the
engine's queue. Registers 16 to 23 are MLOOP's block of one step on two handles, register 24 asks for operands in registers. -/
def multiplying (i : Instr) (q : List MatOp) : State :=
  let s := ready i { s := [(17, 0x20000), (19, 0x20000), (21, 1), (24, 0x180000), (25, 16288)] } none 1
  { s with cores := [(0, { rows := (List.range 128).map fun r => (r, 1), mq := q })]
           wgs := [(1, { s.wg 1 with hdr := { (s.wg 1).hdr with spad := 4096 } })] }

/-- A word is ready and its checked operation, outside a team, has operands in the scratchpad or has not. -/
def matrixPasses (i : Instr) (carded : Bool) (r : State → Cursor → Except Cause MatOp) : Bool :=
  let s := multiplying i []
  let c := place i none 1
  isReady s c i && ((r s c).toOption.map fun o => (o.carded, o.team)) == some (carded, none)

/-- Each of the eight posts; a full queue, a queue with room and one that holds 16 accumulator moves of the group; a check that fails. -/
theorem witness_MatrixWordsArePosted :
    (matrixPasses (.mma 24 0 112 6) false (fun s c => s.checkMma c 24 0 112 6) &&
      matrixPasses (.mloop 16 0) true (fun s c => s.checkMloop c 16 0) &&
      matrixPasses (.mzero 0 96) false (fun s c => s.checkRect c .mzero ((s.grp 0).sc false 96) 0 true false) &&
      matrixPasses (.mzeroRel 6 96) false (fun s c => s.checkRect c .mzeroRel ((s.grp 0).sc false 96) 6 false true) &&
      matrixPasses (.mlda 1 96 96) true (fun s c => s.checkBlock c .mlda ((s.grp 0).sc false 96) ((s.grp 0).sc false 96) 1) &&
      matrixPasses (.msta 1 96 96) true (fun s c => s.checkBlock c .msta ((s.grp 0).sc false 96) ((s.grp 0).sc false 96) 1) &&
      matrixPasses (.mav 127 25 6) false (fun s c => s.checkSlice c .mav ((s.grp 0).sc false 25).toNat 6 []) &&
      matrixPasses (.mva 0 127 96) false (fun s c =>
        s.checkSlice c .mva ((s.grp 0).sc false 96).toNat 0 ((List.range 96).map fun l => (s.grp 0).v 127 l))) = true ∧
    ((multiplying .nop []).checkSlice (place .nop none 1) .mav 16289 0 []).toOption = none ∧
    (((multiplying .nop (List.replicate 32 {})).core 0).mq.length = 32 ∧
      ((multiplying .nop (List.replicate 16 { kind := .mav })).core 0).mq.length < 32 ∧
      (((multiplying .nop (List.replicate 16 { kind := .mav })).core 0).mq.filter fun y => y.grp == 0 && y.move).length = 16) :=
  ⟨by decide +kernel, by decide +kernel, by decide +kernel⟩

/-- A core in a team of the small machine's context, whose positions 0 and 15 are taken; `q` in its queue. -/
def joined (i : Instr) (r : Regs) (team : Option (Nat × Nat)) (q : List MatOp) : State :=
  { ready i r none 1 with cores := [(0, { team := team, teamWg := 1, mq := q })]
                          clusters := [(0, { teams := [(7, { ctx := 0, size := 16, members := [(0, 0), (15, 5)] })] })] }

/-- Streams waited for and streams that are not, earlier and later operations, masks at the ends of their ranges; joins that are legal, of a new
team and of an open one, and joins of a place that is taken and of one beyond the team; a team left at once, with an operation
unfinished and by a core in none. -/
theorem witness_MatrixWaitsAndTeams :
    readyWords [.mwait 96, .msync 96, .maud 8 96, .spfen, .mcfg 96, .mjoin 4, .mleave] = true ∧
    (let o : MatOp := { id := 1, stream := 0, kind := .mav }
     let s := joined .nop {} none [o]
     let mine := (s.core 0).mq.filter fun x => x.grp == 0
     ((mine.filter fun x => x.move).length == 1) && (0 < 1) && (s.nextId == 2) &&
       mine.all (fun x => x.id < 2 && !(2 : Word).getLsbD x.stream && (1 : Word).getLsbD x.stream) &&
       ((handling .nop).grp 0).priv && !((handling .nop).grp 0).privB && ((s.grp 0).out == [])) = true ∧
    ((0x7F : Word).toNat < 2 ^ 8 ∧ (0x7F : Word).getLsbD 7 = false ∧ ¬(0x100 : Word).toNat < 2 ^ 8 ∧ (0x17F : Word).toNat < 2 ^ 9 ∧
      ¬(0x200 : Word).toNat < 2 ^ 9 ∧ (0x80 : Word).getLsbD 7 = true) ∧
    ([(0x1E7, false), (0x1E8, true), (0x107, true), (0x0F7, true), (0x030, false), (0x040, true), (0x201, true)].all fun (x : Word × Bool) =>
      let s := joined .nop {} none []
      let m := x.1
      let t := (m.extractLsb' 0 3).toNat
      let p := (m.extractLsb' 4 4).toNat
      let size : Nat := if m.getLsbD 8 then 16 else 4
      let legal := m.extractLsb' 9 23 == 0 && !m.getLsbD 3 && decide (p < size) && (s.core 0).team.isNone &&
        (match tget (s.cluster 0).teams t with
         | some y => y.ctx == 0 && y.size == size && (tget y.members p).isNone
         | none => true)
      legal != x.2) = true ∧
    (((joined .mleave {} (some (7, 0)) []).core 0).team ≠ none ∧ ((joined .mleave {} (some (7, 0)) []).core 0).teamWg = ((small {} 1).grp 0).wg ∧
      (∀ o ∈ ((joined .mleave {} (some (7, 0)) []).core 0).mq, o.team = none) ∧
      ∃ o ∈ ((joined .mleave {} (some (7, 0)) [{ team := some 7 }]).core 0).mq, o.team ≠ none) ∧
    (isReady (joined .mleave {} (some (7, 0)) []) (place .mleave none 1) .mleave &&
      isReady (joined (.mjoin 4) {} none []) (place (.mjoin 4) none 1) (.mjoin 4)) = true :=
  ⟨by decide +kernel, by decide +kernel, by decide +kernel, by decide +kernel, by decide +kernel, by decide +kernel⟩


/-- A machine with the page and bytes of it. -/
def stored (s : State) (xs : List (Nat × Byte)) : State := { paged s with mem := tables ++ xs.map fun x => (16777216 + x.1, x.2) }

/-- A continuation record at 0 and a launch record at 128 whose kernel's header, at 64, declares one group of one register and one field. -/
def recordBytes : List (Nat × Byte) :=
  [(20, 1), (32, 64), (80, 1), (82, 4), (85, 0x20), (86, 1), (96, 32), (128, 64), (160, 1)]

/-- Windows at both ends of the legal lengths and one block too long; a base at the last block below 2^56 and one that is not canonical; a window
held in every of the 64 places and in all but the last, which is the first free one; one that overlaps and one that touches. -/
theorem witness_PinningAndSchedulingWords_windows :
    readyWords [.pin 8 4 96, .unpin 96, .ptouch 97, .pstat 8 96] = true ∧
    (2 ^ 18 % 2 ^ 18 = 0 ∧ 2 ^ 18 ≤ 384 * 2 ^ 20 ∧ 384 * 2 ^ 20 % 2 ^ 18 = 0 ∧ ¬384 * 2 ^ 20 + 2 ^ 18 ≤ 384 * 2 ^ 20 ∧
      (2 ^ 56 - 2 ^ 18) / 2 ^ 56 = 0 ∧
      (2 ^ 56 / 2 ^ 56 = 1) ∧ (2 ^ 64 - 2 ^ 18) / 2 ^ 56 = 255) ∧
    (let w (n : Nat) : Table PinWin := (List.range n).map fun k => (k, { start := 2 ^ 18 * k, len := 2 ^ 18 })
     ((List.range 63).all fun j => (tget (w 63) j).isSome) && (tget (w 63) 63).isNone && ((List.range 64).all fun j => (tget (w 64) j).isSome) &&
       ((w 63).all fun p => decide (2 ^ 18 * 63 + 2 ^ 18 ≤ p.2.start ∨ p.2.start + p.2.len ≤ 2 ^ 18 * 63)) &&
       !((w 63).all fun p => decide (2 ^ 18 * 62 + 2 ^ 18 ≤ p.2.start ∨ p.2.start + p.2.len ≤ 2 ^ 18 * 62)) &&
       decide (((w 63).map fun p => p.2.len).sum + 2 ^ 18 ≤ 384 * 2 ^ 20)) = true :=
  ⟨by decide +kernel, by decide, by decide +kernel⟩

/-- Records that pass and records that do not; a deque with room and a full one; levels 3 and 4. -/
theorem witness_PinningAndSchedulingWords_records :
    ([Instr.spawn 8, .spawnr 8, .jdec 8, .qstat 4 99, .frame 4 101].all fun i => isReady (stored (ready i {} none 1) recordBytes) (place i none 1) i) = true ∧
    (let s := stored (ready (.spawn 8) {} none 1) recordBytes
     let u := s.noted (place (.spawn 8) none 1) (.spawn 8)
     let at_ (va n : Nat) : Nat := match u.readAt 0 va 64 n with
       | .ok bs => leNat bs
       | .error _ => 0
     (u.readAt 0 0 64 64).toOption.isSome && (u.readAt 0 64 64 1).toOption.isSome && (u.readAt 0 128 64 64).toOption.isSome &&
       (u.readAt 0 1048576 64 64).toOption.isNone && (recordBad (at_ 0 64)).isNone && (recordOf (at_ 0 64)).code == 64 &&
         (headerBad (at_ 64 1)).isNone &&
       !(recordOf (at_ 0 64)).overflows (headerOf (at_ 64 1)) && launchCode (at_ 128 64) == 64 && (launchBad (at_ 128 64) (at_ 64 1)).isNone &&
       (recordBad (at_ 128 64)).isSome && (headerBad (at_ 0 64)).isSome &&
       ({ recordOf (at_ 0 64) with wlo := BitVec.ofNat 64 (2 ^ 64 - 1), wcnt := 2 } : PRec).overflows (headerOf (at_ 64 1)) &&
       decide (((s.core 0).deque 3).length + tgetD (s.core 0).reserved 3 0 < dequeMax) &&
       !decide ((({ reserved := [(3, 1024)] } : Core).deque 3).length + tgetD ({ reserved := [(3, 1024)] } : Core).reserved 3 0 < dequeMax)) = true ∧
    (3 ≤ 3 ∧ 3 < 4) :=
  ⟨by decide +kernel, by decide +kernel, by decide⟩


/-- A result for a register, known. -/
def known (r : Reg) (m : Mask) : Result := { slotB := false, reg := r, mask := m, vals := [7, 8], how := .set, src := 0 }

/-- Two results, of which only the first, and a vector register's lanes beside those of an earlier result, may land; a scalar below the masks, one
above them, and a member of the mask. -/
theorem witness_ResultsLand :
    (let s := (small {} 3).modGrp 0 fun g => { g with out := [known (.v 1) 1, known (.v 1) 2, known (.s 55) 1, known (.s 59) 1, known (.act 2) 1] }
     let x := s.grp 0
     x.trap.isNone && ((List.range 5).all fun k =>
       match x.out[k]? with
       | some r => r.src == 0 && (3 &&& r.mask) != 0 &&
           (x.out.take k).all fun y => y.reg != r.reg || y.slotB != r.slotB || y.mask &&& (3 &&& r.mask) == 0
       | none => false)) = true := by decide +kernel

/-- A store's piece at a home. -/
def storing (home : Home) (addr : Nat) : Req :=
  { core := 0, home := home, ctx := 0, grp := 0, fid := 1, body := .write { lane := 0, addr := addr, len := 4, data := [1, 2, 3, 4] } }

/-- The last word of a line, at its slice, and the last word of the work-group's scratchpad. -/
theorem witness_HomesPerformStores :
    (let r := storing (.llc 0) 124
     let s := { paged (small {} 1) with arrived := [r] }
     s.arrived[0]? == some r && s.ready 0 r && r.bank?.isNone && s.poison == [] && s.failed == [] && s.llc == [] &&
       decide (124 % 128 + 4 ≤ 128) && (match s.leaf 0 124 with
        | some e => leafW e && !leafExport e && !leafFrz e
        | none => false)) = true ∧
    (let r := storing (.bank 0) 1020
     let s := { small {} 1 with arrived := [r] }
     s.arrived[0]? == some r && s.ready 0 r && r.bank? == some 0 && s.spadRange 0 0 1020 4 && !s.spadRange 0 0 1022 4) = true :=
  ⟨by decide +kernel, by decide +kernel⟩

/-- An entry of the queue. -/
def queued (body : EntryBody) : Entry := { id := 1, serial := 1, slotB := false, pos := 0, resume := 0, repi := 0, opc := 0, body := body }

/-- A piece of lane 0. -/
def pieceAt (addr len : Nat) : Piece := { lane := 0, addr := addr, len := len, data := List.replicate len 9 }

/-- The last byte of a line, and all of a line, by the only entry of the queue. -/
theorem witness_StoresLeaveIntoTheL1 : ([pieceAt 127 1, pieceAt 0 128].all fun p =>
    let s := (paged (small {} 1)).modGrp 0 fun g => { g with queue := [queued (.mem .store false [p])] }
    s.mayLeave 0 0 && (s.grp 0).tryR.isNone && decide (p.lane ≤ 96 ∧ 0 < p.len ∧ p.data.length = p.len ∧ p.addr % 128 + p.len ≤ 128) &&
      p.win.isNone && (s.grp 0).flights == [] && decide ((s.core 0).l1.length < 1024) &&
      (match s.leaf 0 p.addr with
       | some e => leafW e && !leafExport e
       | none => false)) = true := by decide +kernel

/-- Two requests of one core to two homes; a response that is the last but one, and the last; a line with a dirty byte and a clean one; an acquire
fence and a release fence at the head; a class D cause; a class E trap with nothing outstanding; a load at the head. -/
theorem witness_AccessesMoveOn :
    (let f : Flight := { entry := queued (.mem (.load .b32) false [pieceAt 0 4]), left := 2 }
     let fence (k : FKind) : Entry := queued (.fence k .clu true)
     let s := (paged (small {} 1)).modGrp 0 fun g => { g with flights := [f], queue := [fence .acq] }
     let s := { s with reqs := [storing (.llc 0) 0, storing (.llc 1) 0]
                       resps := [{ core := 0, grp := 0, fid := 1, ctx := 0, body := .data (pieceAt 0 4) [1, 2, 3, 4] }]
                       cores := [(0, { l1 := [{ ctx := 0, line := 0, dirty := 1 }, { ctx := 0, line := 1 }] })] }
     let x := s.grp 0
     !((s.reqs.take 1).any fun q => q.core == 0 && q.home == .llc 1) && (x.flights.find? (fun y => y.entry.id == 1)) == some f &&
       (x.flights.all fun y => y.bad == [] && y.entry.bad == [] && !y.entry.isMaint) && x.tryR.isNone && x.spec.isNone &&
       firstFence x.queue false == some 0 && (firstFence x.queue true).isNone &&
       ((s.core 0).l1[0]?.map fun l => (1 : BitVec 128) &&& l.dirty != 0) == some true &&
         ((s.core 0).l1[1]?.map fun l => l.dirty == 0) == some true &&
       (let t := (small {} 1).modGrp 0 fun g => { g with queue := [fence .rel] }
        t.fenceLanded 0 (fence .rel) && t.wbDone 0 0 0 && !s.wbDone 0 0 0)) = true ∧
    (let s := (paged (small {} 1)).modGrp 0 fun g => { g with queue := [queued (.mem (.load .b128) false [pieceAt 112 16])] }
     let x := s.grp 0
     x.queue.length == 1 && x.tryR.isNone && s.mayLeave 0 0 && x.out == [] && x.a.repDone && x.b.repDone && x.a.parkDone && x.spec.isNone &&
       !x.priv && (s.wg x.wg).hdr.handler != 0) = true :=
  ⟨by decide +kernel, by decide +kernel⟩

/-- A flight whose lane firmware looks at: refused because its page was missing. -/
def looked (va : Nat) : Flight :=
  { entry := queued (.mem (.load .b32) false [pieceAt va 4]), left := 0, bad := [(0, 0x20, va)], serviced := true }

/-- Hang clocks on both sides of the limit; a refused lane whose page is mapped now and one whose page is not; a work-group that can be saved;
retries 63 and 64, refresh retries 2 and 3; a region with a conflict and nothing outstanding. -/
theorem witness_FaultServiceAndLimits :
    (let s := (small {} 1).modGrp 0 fun g => { g with a := { g.a with hang := 1048576001 } }
     (s.ctx 0).hangLimit == some 1048576000 && decide (1048576000 < (s.grp 0).a.hang)) = true ∧
    (let s := (paged (small {} 1)).modGrp 0 fun g => { g with flights := [looked 0, looked 1048576] }
     s.served && (s.grp 0).asking && (tget s.ctxs 0).isSome && s.nowMapped 0 (0, 0x20, 0) && !s.nowMapped 0 (0, 0x20, 1048576) &&
       !s.hostMapped 0 1048576 && s.saveOk 1 == false &&
       ({ s with ctxs := [(0, { root := 0, savePool := 1048576 })] } : State).saveOk 1 && !(s.wg 1).hdr.latency && !(s.wg 1).killed) = true ∧
    ({ storing (.llc 0) 0 with retries := 63 }.retries < 64 ∧ 64 ≤ { storing (.llc 0) 0 with retries := 64 }.retries) ∧
    (storing (.llc 0) 0).bank? = none ∧ (2 < 3) ∧
    ((regionAt 1).laneMode = false ∧ { regionAt 1 with conflict := true }.conflict = true ∧ ((small {} 1).grp 0).out = []) :=
  ⟨by decide +kernel, by decide +kernel, by decide, by decide, by decide, by decide +kernel⟩


/-- A write, and one to a Colander window that is not defined, that a home has refused for a frozen page; a group whose fetch asks firmware. -/
theorem witness_FaultServiceAndLimits_frozen :
    (let r : Req := { storing (.llc 0) 0 with waiting := true, retries := 64 }
     let q : Req := { r with body := .colander (2 ^ 35) .store [] }
     r.waiting && r.parks && q.parks && !r.requeue && ({ small {} 1 with arrived := [r] } : State).arrived[0]? == some r &&
       (match ({ small {} 1 with arrived := [q] } : State).colanderHome q (2 ^ 35) .store [] true with
        | .done _ _ => true
        | _ => false)) = true ∧
    (({ small {} 1 with ctxs := [(0, { root := 0, maps := [{ va := 0, len := 262144 }] })] } : State).fetchVas 0 ≠ []) :=
  ⟨by decide +kernel, by decide +kernel⟩

/-- The small machine's context with a launch queue at 128, its tail one ahead, and the records of `recordBytes`. -/
def launching (q : List PRec) : State :=
  let s := stored (small {} 1) recordBytes
  { s with ctxs := [(0, { root := 0, lqUse := some (128, 4), tail := 1 })], cores := [(0, { pantry := [(0, q)] })] }

/-- The record of the launch, and a place for its work-group beside the one that runs; the record with its count. -/
def launchRec (n : Nat) : PRec := { code := 64, ext := 160, jadr := 128, lch := true, wcnt := n }

/-- The header and the extents of the record, if its checks pass. -/
def vetted (s : State) (r : PRec) : Option (Header × Nat) :=
  match s.vet r with
  | .ok h e => some (h, e)
  | _ => none

theorem vet_ok {s : State} {r : PRec} {h : Header} {e : Nat} (hv : vetted s r = some (h, e)) : s.vet r = .ok h e := by
  unfold vetted at hv
  split at hv <;> simp_all

/-- The header of `recordBytes`. -/
def recordHeader : Header := { widths := [32], vregs := 1, groups := 1, callregs := 1 }

def slotTwo : Placement := { slots := [1], spb := 1024, bb := 0, privb := 0 }

theorem witness_LaunchesTakesAndStart :
    (let s := launching []
     let x := s.ctx 0
     let read (va : Nat) : Option Nat := match s.homeRead 0 va 64 with
       | .ok bs => some (leNat bs)
       | _ => none
     (tget s.ctxs 0).isSome && x.cfgDue && x.lqUse == some (128, 4) && x.st == .run && x.head != x.tailRead 4 &&
       ((read 128).bind fun v => (read 64).map fun h => (launchCode v == 64 && launchBad v h == none)) == some true && x.nextCore == some 0 &&
       (s.core 0).room 0 && s.clocked 0 && (match s.leaf 0 152 with
         | some e => !leafExport e
         | none => true) && !s.frz 0 152 && s.llc == []) = true ∧
    (let s := launching [launchRec 1]
     s.candidate 0 == some (0, 0) && ((s.core 0).deque 0)[0]? == some (launchRec 1) && s.fits 0 0 recordHeader slotTwo && runs recordHeader 1 0 &&
       vetted s (launchRec 1) == some (recordHeader, 1) && startMask recordHeader 1 0 0 == 1) = true ∧
    (launching [launchRec 1]).vet (launchRec 1) = .ok recordHeader 1 :=
  ⟨by decide +kernel, by decide +kernel, vet_ok (by decide +kernel)⟩


/-- The small machine without work, and with work-group 1 asked to be saved into a pool that holds its image. -/
def idle (core : Core) : State := { small {} 1 with cores := [(0, core)] }

def saving : State :=
  let s := { small {} 1 with ctxs := [(0, { savePool := 1048576 })] }
  s.setWg 1 { s.wg 1 with saving := true }

/-- An idle core; an answer with nothing to steal and one whose record does not fit on a core without a place; a slice that has just run out, of a
context with a rival; a record below MAXP; a work-group whose groups have ended; one that can be saved; contexts of each state. -/
theorem witness_PantryAndPreemption :
    (let s := idle {}
     let c := s.core 0
     ([0, 1, 2, 3].all fun lv => c.deque lv == []) && c.stealReq.isNone && !c.stealWait && s.clocked 0 &&
       (({ c with stealReq := some 5 } : Core).stealReq == some 5) &&
       (s.stealable 5 0).isNone) = true ∧
    (let s := { launching [] with cores := [(0, { stealReq := some 5 }), (5, { pantry := [(0, [launchRec 1])] })] }
     s.stealable 5 0 == some (0, launchRec 1) && (launchRec 1).kind != 1 && (launchRec 1).wcnt == 1 &&
       !s.fits 0 0 recordHeader { slots := [], spb := 0, bb := 0, privb := 0 } && (s.core 0).room 0 && s.clocked 0 &&
       vetted s (launchRec 1) == some (recordHeader, 1) && !({ reserved := [(0, 1024)] } : Core).room 0) = true ∧
    (let s := { idle { pantry := [(0, [{ ctx := 0 }]), (3, [{ ctx := 1 }])],
                       resid := [(0, 1000000)] } with ctxs := [(0, { sched := 0x315000FA00FA0000 }), (1, {})] }
     decide ((s.ctx 0).slice ≠ 0 ∧ (s.ctx 0).slice ≤ tgetD (s.core 0).resid 0 0) && s.rivals 0 0 && !(s.core 0).sliced.contains 0 &&
       ((s.core 0).deque 0)[0]? == some { ctx := 0 } && decide (fld (s.ctx 0).sched.toNat 56 4 ≠ 0 ∧ 0 < (s.ctx 0).maxp) &&
         (s.core 0).room 1) = true ∧
    (let s := (small {} 1).modGrp 0 fun g => { g with a := {} }
     let w := s.wg 1
     (tget s.wgs 1).isSome && (w.groups.all fun g => (s.grp g).ended && s.drained g) && w.jadr == 0 && w.moved == 0 &&
       s.wbDone w.core w.ctx 5) = true ∧
    (let s := saving
     let w := s.wg 1
     (tget s.wgs 1).isSome && w.saving && !w.killed && s.saveOk 1 && (w.groups.all fun g => (s.grp g).calm && (s.grp g).tryR.isNone &&
       s.quietForSave g w.faulted && s.opsOf g == []) && !s.boundCard w && w.moved == 0 && !s.dirtyOf w && s.wbDone w.core w.ctx 5 &&
       (s.ctx w.ctx).imageFree 64 (s.imageOf 1).size && (s.core w.core).room w.prio) = true ∧
    (let s := { small {} 1 with ctxs := [(0, {}), (1, {}), (2, { st := .stopped }), (3, { st := .drain, deadline := true })] }
     s.served && (s.ctx 0).st == .run && (s.wgs.any fun w => w.2.ctx == 0) && (s.ctx 1).st == .run && (s.wgs.all fun w => w.2.ctx != 1) &&
       (s.ctx 2).st == .stopped && (s.ctx 3).st == .drain && (s.ctx 3).deadline) = true :=
  ⟨by decide +kernel, by decide +kernel, by decide +kernel, by decide +kernel, by decide +kernel, by decide +kernel⟩

/-- A copy of 64 bytes in the work-group's scratchpad, and a write of one unit to device 1. -/
def copyCard : Card := { id := 1, words := [0, 0, 512, 0, 64, 0, 0, 0], left := true }

def writeCard : Card := { id := 1, kind := .xwr, words := [0, 0, 0, 0, 256, 0, 0, 0], left := true, devs := [1], ctx := 0 }

/-- Cards not yet admitted and admitted, with a read and a write to do, with none, with units to charge; a remote card after an alarm; fired
cards, one of them without a window to its target. -/
theorem witness_CopyEngineEvents :
    (let s := channelled { queue := [copyCard] }
     !copyCard.kind.remote && writeCard.kind.remote && !copyCard.rin && !copyCard.rout && copyCard.ssp != 3 && copyCard.dsp != 3 &&
       decide (0 < copyCard.len) &&
       copyCard.cause == 0 && complKind (copyCard.w 7) == 0 && s.footClear 0 1 0 copyCard.reads copyCard.writes && s.clusterRange 0 0 0 64 &&
         s.clusterRange 0 0 512 64) = true ∧
    (({ copyCard with done := 64, taken := 64, admitted := true } : Card).finished && copyCard.outCnt == 0 && copyCard.inCnt == 0) = true ∧
    (let c := { writeCard with charged := 0, admitted := true }
     let s := channelled { queue := [c] }
     decide (0 < c.units) && s.covers c (min 16 (c.units - c.charged))) = true ∧
    (({ channelled { queue := [writeCard] } with alarm := true } : State).cardFault 0 15).isSome = true ∧
    (let w : CardWrite := { bank := true, adr := 1016, bytes := [1, 2, 3, 4, 5, 6, 7, 8], count := 8 }
     let c := { copyCard with buf := [w], admitted := true }
     c.taken == 0 && c.seen == [] && c.kind == .cpy && (channelled { queue := [c] }).clusterRange 0 0 1016 8) = true ∧
    (let s := channelled { fired := [copyCard] }
     let x := s.chan 0 15
     x.fired == [copyCard] && !x.halted && copyCard.cause == 0 && x.queue.length < 32 && s.queued 0 0 + s.firedBefore 0 0 copyCard.id < 256 &&
       s.covers copyCard (min copyCard.units 64)) = true ∧
    (match (channelled { fired := [writeCard] }).target 0 writeCard with | .error k => k == Code.CPYBND | .ok _ => false) = true ∧
    (let c := { writeCard with cause := Code.CPYBND }
     c.left && !c.admitted && ((channelled { queue := [c] }).cardFault 0 15).map (fun x => x.2) == some Code.CPYBND) = true :=
  ⟨by decide +kernel, by decide +kernel, by decide +kernel, by decide +kernel, by decide +kernel, by decide +kernel, by decide +kernel,
    by decide +kernel⟩

/-- Parks with a card, with an operation and at a ring that has just enough slots; an allowance wait with a limit. -/
theorem witness_ParkedPostsResume :
    (let p : Park := { why := .queueFull 15, word := .cpy 4 8 111, pos := 0, arg := 15, card := some copyCard, mat := some {}, id := 1 }
     let s := (channelled {}).modGrp 0 fun g => { g with a := { g.a with park := some p }, regs := { g.regs with allowth := 0x10000 } }
     let x := s.chan 0 p.arg.toNat
     ((s.grp 0).slot false).park == some p && !copyCard.kind.remote && writeCard.kind.remote && (s.target 0 writeCard).toOption.isNone &&
       s.unfinished 0 0 < 256 && s.covers copyCard (min copyCard.units 64) && x.queue.length < 32 &&
       !x.halted &&
       s.nextId != 0 && decide (fld (s.grp 0).regs.allowth.toNat 16 4 ≠ 0) && (s.core 0).mq.length < 32 && s.moves 0 < 16 &&
       !s.overtakes 0 {} && (({ v := true, ctx := 1 } : Ring).foreign 0) && !(({ v := true } : Ring).foreign 0)) = true ∧
    ((ringed {} { v := true, lcnt := 2, ssz := 1 }).ring 0 15).canAcq 4 = true ∧
      ((ringed {} { v := true, lcnt := 2, ssz := 1 }).ring 0 15).canAcq 5 = false :=
  ⟨by decide +kernel, by decide +kernel, by decide +kernel⟩

/-- One operation of each kind, not yet admitted and admitted: the last rectangle of the accumulator, register operands, the last lanes of a slice. -/
theorem witness_MatrixSteps :
    ([({ kind := .mzero, ctl := 0x3060 } : MatOp), { kind := .mma, ctl := 0x180000, aRegs := List.replicate 32 [], bRegs := List.replicate 32 [] },
      { kind := .mva, cell := 16288, lanes := BitVec.allOnes 96 }, { kind := .mav, cell := 0, lanes := 1 }].all fun o =>
        let o := { o with id := 1, left := true, admitted := true }
        let s := idle { mq := [o] }
        let x := s.core 0
        x.mq[0]? == some o && x.isHead 0 o && ((s.nextOp 0).map fun y => y.id) == some 1 && x.releasing == [] &&
          decide (ctlRow o.ctl + ctlM o.ctl ≤ 128 ∧ ctlCol o.ctl + ctlN o.ctl ≤ 128) && decide (o.kcnt = 1 ∧ o.step = 0) &&
          o.aRing.isNone && o.bRing.isNone && o.foot == [] && o.team.isNone && !(mcfgSke o.mcfg && (s.grp o.grp).auditDue) &&
          (o.kind != .mma || ctlASrc o.ctl && ctlBSrc o.ctl && o.aRegs.length == ctlM o.ctl && o.bRegs.length == ctlN o.ctl)) = true := by
  decide +kernel

/-- The page before a freeze and after it, with a frame that is free; the first and the last line of a window; windows that were touched, that fade
and that go; a regulated bucket. -/
theorem witness_PagesWindowsAndTokens :
    (let s := paged (small {} 1)
     s.served && (match s.leaf 0 0 with
       | some e =>
         let t := s.setLeaf 0 0 (e + 32)
         !leafFrz e && leafFrz (e + 32) && t.leaf 0 0 == some (e + 32) && t.framesFree (pageFrames (leafLarge e) 1572863) && !leafLarge e
       | none => false)) = true ∧
    (let w : PinWin := { start := 0, len := 262144 }
     let s := { paged (small {} 1) with ctxs := [(0, { root := 0, pins := [(63, w)], reg := [(0, 0x10000)] })] }
     (s.leaf 0 (128 * 255)).isSome && tget (s.ctx 0).pins 63 == some w && decide (w.start ≤ 128 * 0 ∧ 128 * 255 < w.start + w.len) &&
       !w.loaded.contains 255 && decide (fld (tgetD (s.ctx 0).reg 0 0).toNat 16 11 ≠ 0)) = true :=
  ⟨by decide +kernel, by decide +kernel⟩


/-- The link is up, and BAR2's entry `k` opens the first 1 GiB of context 0. -/
def hosted (k : Nat) : State := { paged (small {} 1) with linkUp := true, apw := [(k, 0x10000)] }

/-- A window that is open and one that is not; the last bytes of a line of the page, bytes that no page holds, and a bad granule; each offset of a
context's register page; sizes of a queue that are refused and accepted. -/
theorem witness_HostAccessesThePackage :
    (let s := hosted 1
     let off : Nat := 1073741824 + 124
     s.linkUp && decide (off % 1073741824 + 4 ≤ 1073741824) && (tgetD s.apw 1 0).getLsbD 16 && !(tgetD s.apw 2 0).getLsbD 16 &&
       (widen57 (1073741824 * fld (tgetD s.apw 1 0).toNat 30 27) == 0) && s.hostOk 0 124 4 .read && s.hostOk 0 124 4 .write &&
       !s.hostOk 0 32768 4 .read && !s.hostOk 0 32768 4 .write && s.poison == [] && s.failed == [] && s.llc == [] &&
       (match s.leaf 0 124 with
        | some e => !leafExport e && !leafFrz e
        | none => false) && (s.granuleAt 0 124).isSome) = true ∧
    ((tget (hosted 0).ctxs 0).isSome ∧ (4 ≤ (0x07FF0004 : Word).toNat % 32 ∧ (0x07FF0004 : Word).toNat % 32 ≤ 16) ∧ (4 ≤ 16 ∧ 16 ≤ 16) ∧
      ¬(4 ≤ (3 : Word).toNat % 32 ∧ (3 : Word).toNat % 32 ≤ 16) ∧ ¬(4 ≤ (17 : Word).toNat % 32 ∧ (17 : Word).toNat % 32 ≤ 16)) ∧
    ((hosted 0).srq.busy = false ∧ (hosted 0).served = true ∧ (small {} 1).boot = 5 ∧ (small {} 1).linkUp = false ∧
      (252 % 4 = 0 ∧ 252 < 256 ∧ 98300 % 4 = 0 ∧ 98300 < 98304 ∧ 98304 + 4 * (2047 / 32) = 98556 ∧ 98560 < 16777216)) :=
  ⟨by decide +kernel, by decide +kernel, by decide +kernel⟩

/-- Request `code` on context `ctx` with 64-bit arguments `args` from byte 16 on. -/
def requesting (s : State) (code ctx : Nat) (args : List Nat) : State :=
  { s with srq := { busy := true, cur := setCells [] 0 (leBytes 2 code ++ leBytes 2 0 ++ leBytes 4 ctx ++ leBytes 8 0 ++ args.flatMap (leBytes 8)) } }

/-- Every code, the first and the last that is none; a reserved byte; a context that exists and one that does not; window and range entries that
are accepted; addresses of a page and of none. -/
theorem witness_RequestsAreAnsweredOrRefused :
    ([0, 1, 2, 3, 4, 5, 6, 7, 8, 9, 10, 11].all fun code =>
      let s := requesting (paged (small {} 1)) code 0 []
      s.srq.busy && s.served && !s.alarm && s.req 0 2 == code && s.reqZero true && s.reqZero false && (tget s.ctxs (s.req 4 4)).isSome &&
        !s.frozenIn (s.req 4 4) 0 (1 <<< 64) && !s.frozenIn (s.req 4 4) (s.req 16 8) (s.req 24 8)) = true ∧
    (tget (requesting (small {} 1) 2 4095 []).ctxs ((requesting (small {} 1) 2 4095 []).req 4 4) = none) ∧
    (let s := requesting (paged (small {} 1)) 6 0 [255, 0, 63 <<< 58 + 1, 24]
     let e := BitVec.ofNat 128 (s.req 32 16) &&& 0x07FFFFFF7FFFFFFFFFFFFC000000000F
     s.req 16 4 == 255 && e.getLsbD 0 && winLen e != 0 && winDev e ≤ 575) = true ∧
    (let s := requesting (paged (small {} 1)) 7 0 [575 + 15 <<< 32]
     s.req 16 4 == 575 && s.req 20 4 == 15) = true ∧
    (let s := requesting (paged (small {} 1)) 9 0 [255, 0, 1, 0]
     let r := BitVec.ofNat 128 (s.req 32 16) &&& 0x01FFFFFFFFFFFFFFFFFF000000000001
     memBase r % 4096 == 0 && memCtx r == s.req 4 4) = true ∧
    ((paged (small {} 1)).leaf 0 32767 ≠ none ∧ (paged (small {} 1)).leaf 0 (2 ^ 56 - 1) = none ∧ canonical (2 ^ 56 - 1) = true) :=
  ⟨by decide +kernel, by decide +kernel, by decide +kernel, by decide +kernel, by decide +kernel, by decide +kernel⟩

/-- A context with a private pool of one page and a save pool of one; contexts in each state; one page mapped at the last address of the lower
half; pages of a range that keeps a window and of one that keeps none. -/
theorem witness_ContextAndPageRequests :
    (let s := requesting (small {} 1) 1 0 [4095, 262144, 262144]
     let c : Ctx := { root := 786431, privVa := 0, privLen := 262144, savePool := 262144, saveFrames := [11] }
     let made := ((s.zeroFrames (tableFrames 786431)).takeFrames (tableFrames 786431)).setCtx 4095 c
     s.srq.busy && s.served && !s.alarm && s.reqZero false && s.req 16 4 == 4095 && s.req 24 8 == 262144 && s.req 32 8 == 262144 &&
       (tget s.ctxs 4095).isNone &&
       s.framesFree (tableFrames 786431) && rangeOk 0 (s.req 24 8) 262144 && made.framesFree [11] &&
       ((made.takeFrames [11]).mapRange 786431 0 2 false [9] [2, 3]).isSome) = true ∧
    (let s := requesting { small {} 1 with ctxs := [(0, {}), (1, { st := .stopped }), (2, { st := .killed })] } 2 1 []
     (s.ctx 0).st == .run && (s.ctx 1).st == .stopped && (s.ctx 2).st == .killed && (s.ctxs.map Prod.fst) == [0, 1, 2] &&
       !s.frozenIn 1 0 (1 <<< 64)) = true ∧
    (let s := requesting (paged (small {} 1)) 3 0 [2 ^ 56 - 2 ^ 18, 2 ^ 18, 6]
     rangeOk (s.req 16 8) (s.req 24 8) 262144 && s.req 32 4 == 6 && (s.presentPages 0 (s.req 16 8) (s.req 24 8)) == [] &&
       (s.mapRange 0 (s.req 16 8) (s.req 32 4) false [9] [8, 10]).isSome) = true ∧
    (let s := requesting { paged (small {} 1) with ctxs := [(0, { root := 0, maps := [{ va := 0, len := 262144 }],
                                                                  pins := [(0, { start := 262144, len := 262144 })] })] } 4 0 [0, 262144, 4]
     s.presentPages 0 0 262144 == [0] && !s.frozenIn 0 0 262144 && !s.splitsLarge 0 0 262144 [0] && !(s.ctx 0).keeps 0 262144 &&
       (s.ctx 0).keeps 0 524288) = true :=
  ⟨by decide +kernel, by decide +kernel, by decide +kernel, by decide +kernel⟩

/-- Boots whose four signatures verify and whose last does not; the first and the last register that firmware extends; an index that is left and
none. -/
theorem witness_BootMeasurementAndAlarm :
    (let b : BootInput := { sigOk := [true, true, true, false], digest := [], block := { spare := [], memEncrypt := false, policy := [] },
                            reg0 := 0, device := 0, serial := [] }
     b.block.policy == [] && ([0, 1, 2].all fun k => b.sigOk.getD k false) && !b.sigOk.getD 3 false && [true, true, true, true].all id) = true ∧
    ((5 ≤ 5 ∧ 15 < 16 ∧ 4 < 5) ∧ (small {} 1).boot = 5 ∧ (small {} 1).served = true ∧ (2 ^ 40 - 1 < 2 ^ 40 ∧ 2 ^ 40 ≤ 2 ^ 40)) ∧
    (({ small {} 1 with policy := [0, 0, 0, 0] } : State).policy[4]? = none ∧
      ({ small {} 1 with policy := [0, 0, 0, 0, 7] } : State).policy[4]? = some 7) :=
  ⟨by decide, by decide +kernel, by decide +kernel⟩

/-- The last idle island and the busy first one; the last cluster, stack, channel and service core; each step of the eviction; each part of the
EEPROM at its ends. -/
theorem witness_ServicesOfThePackage :
    ((small {} 1).islandIdle 51 = true ∧ (small {} 1).islandIdle 0 = false ∧ 51 ∉ (small {} 1).stopped) ∧
    ((3 < 4 ∧ 24 < 25) ∧ (7 < 8 ∧ 31 < 32) ∧ (1 < 2 ∧ 3 < 4) ∧ 4 * 1 + 3 ∉ (small {} 1).svcDown ∧ clusterOf ((small {} 1).wg 1).core = 25 * 0 + 0) ∧
    ((small {} 1).evict = .idle ∧ (small {} 1).served = true ∧ ({ small {} 1 with svcDown := List.range 8 } : State).served = false ∧
      (small {} 1).allStopped = false ∧ ({ small {} 1 with ctxs := [], evict := .prepare } : State).allStopped = true) ∧
    ((0 < 32 ∧ 31 < 32 ∧ 160 ≤ 160) ∧ (64 ≤ 64 ∧ 95 < 96) ∧ (32 ≤ 32 ∧ 63 < 64) ∧ (96 ≤ 96 ∧ 159 < 160)) :=
  ⟨by decide +kernel, by decide +kernel, by decide +kernel, by decide⟩


/-- A packet of this package on plane 35, the only live one, whose link is keyed, and the package's own card. -/
def outgoing (o : OutPkt) : State :=
  { channelled { queue := [{ writeCard with admitted := true }] } with planes := [35], links := [(35, { keyed := true, held := 1 })], pkts := [o] }

def sentPacket (card : Nat) : OutPkt :=
  { pkt := { src := 0, dst := 575, tctx := 0, seq := 0, kind := .write, addr := 0, len := 4, data := [1, 2, 3, 4], tc := none, card := card,
             npkts := 1, group := 0 }
    cl := 0, ch := 15, plane := 35, devs := [575] }

/-- A plane that is keyed and one that is not, numbers 35 and 36; packets of the card at the head and of none; dropped, noticed, at the last drop
and at the one before; a device without a route. -/
theorem witness_PlanesLinksAndReplies :
    (let s := outgoing (sentPacket 1)
     (s.link 35).keyed && !(s.link 34).keyed && !s.alarm && (s.planes.filter fun x => x != 35) == [] && s.planes.length == 1 &&
       (s.cardOf (sentPacket 1)).isSome && ((outgoing (sentPacket 2)).cardOf (sentPacket 2)).isNone && decide ((sentPacket 1).pkt.dst < 576) &&
       s.planeFor 0 == some 35 && !s.unrouted.contains 575 && ({ s with unrouted := [575] } : State).unrouted.contains 575 &&
       !s.routes.contains 575 && ({ s with routes := [575] } : State).routes.contains 575 &&
       decide ((s.link 35).sent + 8 * s.pkts.length ≤ (s.link 35).sentAt + 2 ^ 40 ∧
         (s.link 35).received + 8 ≤ (s.link 35).receivedAt + 2 ^ 40) && (s.link 35).held == 1 && (s.link 34).held == 0 &&
       (sentPacket 2).devs == [575] && ({ s with planes := [34, 35] } : State).planes.filter (fun x => x != 35) == [34]) = true ∧
    (let p (n : Word) : Packet := { (sentPacket 1).pkt with dst := 576, kind := .mcrWrite, seq := n }
     let s := outgoing (sentPacket 1)
     s.seqTurn (p 0) == .fresh 0 && s.seqTurn (p 255) == .fresh 255 && s.seqTurn (p 256) == .far && s.seqTurn (p 0x80000000) == .again) = true ∧
    ((35 < 36 ∧ ¬36 < 36) ∧ (6 < 7 ∧ 7 ≤ 7)) ∧
    ({ sentPacket 1 with dropped := true }.dropped = true ∧ (sentPacket 1).noticed = false ∧ { sentPacket 1 with noticed := true }.noticed = true) :=
  ⟨by decide +kernel, by decide +kernel, by decide, by decide⟩

/-- A request of device 1 on context 0 with sequence number `seq`, which this package expects at 5, having performed 7 too. -/
def requestOf (seq : Word) (kind : PktKind) : Packet :=
  { src := 1, dst := 0, tctx := 0, seq := seq, kind := kind, addr := 4096, len := 4, data := [1, 2, 3, 4], tc := none, card := 0, npkts := 1,
    group := 0 }

/-- A package with one range of 4 KiB for device 1, and the first page of context 0 as its aperture of group 0, whose only member it is. -/
def targeted : State :=
  let s := paged (small {} 1)
  { s.setLeaf 0 0 ((s.leaf 0 0).getD 0 + 8) with
    ranges := [(16, 1 + 14 + 1 <<< 10 + 1 <<< 37)], links := [(0, { held := 1 }), (35, { held := 1 })], recvSeq := [(65536, { next := 5, map := 0 })]
    mcr := [(0, BitVec.ofNat 1024 (2 ^ 623 + 2 ^ 611 + 255 * 2 ^ 576 + 1))], members := [(0, 1)] }

/-- Numbers that are expected, performed, ahead by 255, 256 and 2^31 - 1, and behind; packets in the range and one byte beyond; packets of other
members and one of this package. -/
theorem witness_RequestPacketsArePerformedOnce :
    (let x := tgetD targeted.recvSeq 65536 {}
     x.next == 5 && x.map == 0 && ((4 - x.next : Word).toNat ≥ 2147483648) && ((261 - x.next : Word).toNat == 256) &&
       ((260 - x.next : Word).toNat == 255) &&
       (0x80000004 - x.next : Word).toNat == 2147483647 && ({ x with map := 4 } : SeqSt).map.getLsbD ((7 - x.next : Word).toNat)) = true ∧
    ([PktKind.write, .read, .atom 0, .atom 11].all fun k =>
      let p := requestOf 5 k
      let s := targeted
      p.dst == s.chip && s.inRanges { p with addr := 8188 } && !s.inRanges { p with addr := 8189 } && s.ctxLive 0 && s.poison == [] &&
        s.failed == [] &&
        !s.alarm && (s.link p.plane).held == 1 && (s.link 1).held == 0 && decide (p.dst < 576) && decide ((s.link p.plane).sent + 8 ≤ (s.link p.plane).sentAt + 2 ^ 40) && !s.paFrozen 0 8188 && p.tc.isNone &&
          (s.ctx 0).reg == []) = true ∧
    (let r := tgetD targeted.members 0 0
     memV r && !memV (tgetD targeted.members 1 0) && targeted.ctxLive (memCtx r) && memBase r == 0 && canonical 0 && canonical 3 &&
       !canonical (1 <<< 56) &&
       (targeted.window 0 0).isNone && (match targeted.leaf 0 0 with
         | some e => leafExport e && leafW e && !leafFrz e
         | none => false) && (let p (n : Word) : Packet := { requestOf n .mcrWrite with dst := 576, addr := 124 }
           targeted.seqTurn (p 0) == .fresh 0 && targeted.seqTurn (p 256) == .far && targeted.seqTurn (p 0x80000000) == .again &&
             decide (124 % 128 + (p 0).len ≤ 128) && (p 0).data.length == (p 0).len)) = true ∧
    (let o : OutPkt := { sentPacket 1 with pkt := { (sentPacket 1).pkt with dst := 576, kind := .mcrRead 0 } }
     o.pkt.tc.isNone && mcrMembers (tgetD targeted.mcr 0 0) == [0] && ([Contrib.self].map targeted.contribDev) == [0] &&
       !o.dropped && (targeted.link o.plane).held == 1 && targeted.seqTurn o.pkt == .fresh 0 &&
       targeted.seqTurn { o.pkt with seq := 256 } == .far && decide (0 < o.pkt.len) && (targeted.mcrTokens o.pkt).isSome) = true :=
  ⟨by decide +kernel, by decide +kernel, by decide +kernel, by decide +kernel⟩

/-- The block of an all-reduce of 64 elements from offset 0 to offset 1024; with `ctl` instead of its control word. -/
def reduceBlock (ctl : Nat) : List Byte := leBytes 8 0 ++ leBytes 8 1024 ++ leBytes 8 0 ++ leBytes 8 0 ++ leBytes 4 64 ++ leBytes 4 ctl ++ leBytes 16 0

/-- A collective of the package in a phase; plane 35 is live, and two frames have come by it. -/
def reducing (x : Coll) : State :=
  { targeted with ctxs := [(0, { root := 0, colls := [x] })], planes := [35], links := [(35, { keyed := true, held := 2 })] }

def openColl (phase : CollPhase) (ctl : Nat) : Coll := { io := 0, group := 0, ticket := 0, va := 0, blk := reduceBlock ctl, phase := phase }

/-- A collective in each phase, in its turn and before it, with and without an entry step; an entry step that reads, that computes a result or a
fault, and that writes; a rendezvous with and without a plane, without other members, and with one that has another digest. -/
theorem witness_CollectivesRunInTurn_rendezvous :
    (let x := openColl .entry 0
     let s := reducing x
     (tget s.ctxs 0).isSome && ((s.ctx 0).colls[0]?) == some x && x.ticket == tgetD (s.ctx 0).collDone 0 0 &&
       ({ x with ticket := 1 } : Coll).ticket != tgetD (s.ctx 0).collDone 0 0 &&
       !(blockOf x.blk).ent && (blockOf (reduceBlock 0x800)).ent && mcrMembers (tgetD s.mcr 0 0) == [s.chip] && x.entryCause == 0 &&
       !s.alarm && s.planes != [] && targeted.planes == [] && memV (tgetD s.members 0 0) && s.ctxLive (memCtx (tgetD s.members 0 0)) &&
       (blockOf x.blk).digest != (blockOf (reduceBlock 0x10)).digest) = true ∧
    (let b := blockOf ((reduceBlock 0x860).take 52 ++ leBytes 4 0x10 ++ leBytes 8 0)
     let s := reducing (openColl .entry 0x860)
     (match s.engReadNext 1 0 0 false b.xin (4 * b.count) 0 with
      | .ok _ bs => bs.length == 128
      | _ => false) && (b.enter (List.replicate 256 0)).toBool && !(b.enter (leBytes 4 0x7FC00000 ++ List.replicate 252 0)).toBool &&
       (match s.engWriteNext 1 0 0 false (s.apertVa 0 b.soff) (List.replicate 1024 1) 128 with
        | .ok _ _ => true
        | _ => false)) = true ∧
    ([MemberState.arrived 1 (blockOf (reduceBlock 0)).digest 0].map memberDev).Nodup :=
  ⟨by decide +kernel, by decide +kernel, by decide⟩

/-- A card that is not posted, with and without allowance; one posted that needs more units and that has them, whose packet goes out, is performed
and answered; an XMST that reads; a card with no packet left that writes its first and its last line; a card that has a cause; a block whose
page is frozen and one whose page is not. -/
theorem witness_CollectivesRunInTurn_cards :
    (let x := openColl .steps 0
     let x := { x with todo := (blockOf x.blk).steps 1 0 0 }
     let s := reducing x
     x.todo == [(false, 0, 1024, 256)] && s.coversAll [0] (min (unitsTo 256) 64) &&
       !({ s with allow := [(0, { out := 4096 })] } : State).coversAll [0] (min (unitsTo 256) 64) && stepPackets 0 256 == [(0, 256)]) = true ∧
    (let turn : Turn := { at_ := 0, order := [.self], mark := true, lost := false }
     let x := { openColl .steps 0 with posted := true, charged := 1, devs := [0], left := [(0, 256)] }
     let s := reducing x
     pieceUnits (0, 256) == 1 && x.left[turn.at_]? == some (0, 256) && s.turnOk 0 turn.order && s.coversAll x.devs (min 16 (x.unitsLeft - 0)) &&
       (match s.planeFor 0 with
        | some plane =>
          let q := s.takeSeq 576 0
          let pkt := s.stepPacket 0 x false 0 256 [] q.1
          ((q.2.sendFrame plane (Config.packetFlits pkt)).bind fun t => (t.mcrTurn pkt 0 turn).bind fun u => u.1.takeFrame plane).isSome
        | none => false)) = true ∧
    (let s := reducing (openColl .steps 0)
     (match s.engReadNext 1 0 0 false (s.apertVa 0 0) 256 128 with
      | .ok _ bs => bs.length == 128
      | _ => false) && (s.rangeRefuses 0 0 false (s.apertVa 0 1024) 256).isNone && Machine.pieceAt (s.apertVa 0 1024) 256 128 == 128 &&
       ([0, 128].all fun took => match s.engWriteNext 1 0 0 false (s.apertVa 0 1024) (List.replicate 256 1) took with
        | .ok _ _ => true
        | _ => false) && Code.PEERDENY != 0) = true ∧
    (let s := reducing (openColl .closing 0)
     !s.frz 0 0 && (s.setLeaf 0 0 ((s.leaf 0 0).getD 0 + 32)).frz 0 0 && (s.ctx 0).reg == []) = true :=
  ⟨by decide +kernel, by decide +kernel, by decide +kernel, by decide +kernel⟩

/-- Two words at the start of the page: a bundle of an IADDI with C = 1 and a NOP. -/
def programmed : State :=
  let s := stored (small {} 1) ([0x78, 0x08, 0x02, 0x84, 0x00, 0x00, 0x00, 0x3F].zipIdx.map fun x => (x.2, x.1))
  { s with groups := [(0, { s.grp 0 with a := { (s.grp 0).a with pc := 0 } })] }

/-- A bundle of two words; a stopped clock, a withheld cycle and a cycle in which slot A of the only group issues it. -/
theorem witness_IssueCyclesChooseBundles :
    (match programmed.bundle 0 false 0 with
     | .ok ws => (ws.map fun d => d.instr) == [Instr.iaddi 1 2 0x78, .nop]
     | _ => false) = true ∧
    (programmed.clocked 0 = true ∧ ({ programmed with stopped := [0] } : State).clocked 0 = false ∧ (programmed.core 0).withheld = false) ∧
    (let u := (((programmed.tick 0).modCore 0 fun c => { c with rested := false }).eachSlot 0 State.tryWake).eachSlot 0 State.cross
     let lv := (u.wg (u.grp 0).wg).prio
     ((u.groups.map Prod.fst).filter fun h => coreOf h == 0) == [0] && decide (lv < 4) && ((u.core 0).order lv).contains 0 &&
       ((u.core 0).order lv).eraseDups == (u.core 0).order lv && ([0, 1, 2, 3].all fun l => ((u.core 0).order l).all fun j => j < 32) &&
       !decide ((u.grp 0).b.last < (u.grp 0).a.last) &&
       (match u.pickSlot [] 0 false with
        | .issue i _ => i.words.length == 2
        | _ => false)) = true :=
  ⟨by decide +kernel, by decide +kernel, by decide +kernel⟩

/-- Slot A of group 0 has one word to run, a NOP, and one that is a LIT; an issue cycle of an idle core leaves nothing chosen. -/
theorem witness_StepRunsTheDecodedInstruction :
    (let choose (i : Instr) : Issue := { grp := 0, slotB := false, pos := 0, words := [⟨false, false, i, encode false false i⟩], next := 1,
                                         marked := false, serial := 1, lanes := 1 }
     let s (i : Instr) : State := { small {} 1 with agenda := [.issueCycle 0], issued := [choose i] }
     let e : Instr := .linkFrameReceive 0 ⟨[], 0⟩
     (s (.lit 5)).agenda == [Instr.issueCycle 0] && !Instr.isWord (.issueCycle 0) && Instr.isWord .nop && !e.isWord && (small {} 1).issued == [] &&
       (match exec e { s .nop with agenda := [] } with
        | .next t => t.issued == [choose .nop] && !(t.grp 0).dead
        | _ => false)) = true := by decide +kernel

theorem witness_EncodeThenDecode : (Instr.ld 4 62 .priv .b128 31).wellFormed = true ∧ (Instr.rep 2 1 1 1 0).wellFormed = true := by decide +kernel

theorem witness_DecodeThenEncode : (decode 0x81080818).toOption = some ⟨true, false, .iadd 4 2 3, 0x81080818⟩ := by decide +kernel

/-- The machine after reset takes a step. -/
theorem witness_StepsKeepTheInvariant : State.reset.nextId ≠ 0 ∧ (match step State.reset with
    | .next t => (t.core 0).cycles == 1
    | _ => false) = true := ⟨by decide, by decide +kernel⟩

/-- The first and the last of the majors of both families, in a group with a handler outside a region. -/
theorem witness_RegisterWordsLeaveTheRest :
    readyWords [.iadd 1 2 3, .fminm 1 2 3, .fadd 1 2 3 .rne, .tmext 1 4] = true ∧
    ([Instr.iadd 1 2 3, .fadd 1 2 3 .rne, .tmext 1 4].map fun i => i.body / 16777216) = [1, 16, 27] ∧
    (((small {} 1).grp 0).tryR = none ∧ ((small {} 1).grp 0).priv = false ∧ ((small {} 1).wg ((small {} 1).grp 0).wg).hdr.handler ≠ 0) :=
  ⟨by decide +kernel, by decide +kernel, by decide +kernel⟩

/-! ### Further clauses of the statements above -/

/-- BRM with both slots in use and a full divergence stack. -/
theorem witness_BranchesGoToTheirTarget_full :
    (let s := (ready (.brm 1 5) (scas [(4, 1)]) none 3).modGrp 0 fun g => { g with b := { st := .run }, dsp := 8 }
     isReady s (place (.brm 1 5) none 3) (.brm 1 5) && ((s.grp 0).slot true).st != .free && (s.grp 0).tryR.isNone &&
       decide ((s.wg (s.grp 0).wg).hdr.dstack ≤ (s.grp 0).dsp)) = true := by decide +kernel

/-- A word of the query half and one of the insert half of a defined window. -/
theorem witness_AccessChecks_window :
    (let s : State := { small {} 1 with ctxs := [(0, { regions := [(2 ^ 35, {})] })] }
     s.window ((s.wg 1).ctx) (2 ^ 35 + 4) == some (2 ^ 35, (s.window 0 (2 ^ 35 + 4)).any fun x => x.2) &&
       (s.window 0 (2 ^ 35 + 4)).map (fun x => x.2) != (s.window 0 (2 ^ 36 - 4)).map (fun x => x.2) && (s.window 0 (2 ^ 36)).isNone) = true := by
  decide +kernel

/-- In a region: a store to a Colander window, one that the window refuses, and one to an EXPORT page. -/
theorem witness_MemoryWordsEnterTheQueue_region :
    (let i : Instr := .st 1 4 .glob .b32 0
     let s := inRegion i 1
     let s : State := { s with ctxs := [(0, { regions := [(2 ^ 35, {})] })] }
     isReady s (place i none 1) i && (s.grp 0).tryR.isSome && AccKind.writes .store &&
       ([2 ^ 35, 2 ^ 35 + 2 ^ 34].any fun a => match s.checkLane 0 0 .glob .store a 4 with
         | .ok (_, ps) => ps.any fun x => x.win != none
         | .error _ => false) &&
       ([2 ^ 35, 2 ^ 35 + 2 ^ 34].any fun a => match s.checkLane 0 0 .glob .store a 4 with
         | .ok _ => false
         | .error k => k.1 == 0x2B)) = true ∧
    (let s := paged (inRegion (.st 1 4 .glob .b32 0) 1)
     let s := s.setLeaf 0 0 ((s.leaf 0 0).getD 0 + 8)
     (s.grp 0).tryR.isSome && (match s.leaf 0 4 with
       | some e => leafExport e
       | none => false)) = true := ⟨by decide +kernel, by decide +kernel⟩

/-- Reads of 64 and of 56 bytes at an address of no page. -/
theorem witness_RecordsThatCannotBeRead :
    ([Instr.spawn 8, .spawnr 8, .jdec 8, .coll 4 8].all fun i =>
      let s := paged (ready i (scas [(8, 0), (9, 0x800000)]) none 1)
      let u := s.noted (place i none 1) i
      isReady s (place i none 1) i && !(u.readAt 0 ((u.grp 0).sp false 8).toNat 64 64).toBool &&
        !(u.readAt 0 ((u.grp 0).sp false 8).toNat 56 128).toBool) =
      true := by decide +kernel

/-- A COMMIT at depth 1 whose core holds a dirty line of the context, before it moves its bytes and while they are on their way. -/
theorem witness_TryRegionsOpenAndEnd_moves :
    (let s := inRegion .commitTry 1
     let t : State := { s with cores := [(0, { l1 := [{ ctx := 0, line := 0, dirty := 1 }] })] }
     !t.wbDone 0 0 0 && (regionAt 1).moved == 0 &&
       !({ s with cores := [(0, { wbq := [{ id := 1, ctx := 0, line := 0, mask := 1, data := [], groups := [0],
                                            writer := some 0 }] })] } : State).wbDone 0 0 5) =
      true := by decide +kernel

/-- An entry of the write-back queue at the head, behind no line. -/
theorem witness_AccessesMoveOn_queue :
    (let w : WriteBack := { id := 7, ctx := 0, line := 0, mask := 1, data := List.replicate 128 9, groups := [0], writer := some 0 }
     let s : State := { paged (small {} 1) with cores := [(0, { wbq := [w] })] }
     (s.core 0).l1[0]?.isNone && (s.core 0).wbq[0 - (s.core 0).l1.length]? == some w &&
       ((s.core 0).wbq.filter fun y => y.id == w.id) == [w] &&
       ((s.core 0).wbq.take (0 - (s.core 0).l1.length)).all fun y => !(y.ctx == w.ctx && y.line == w.line)) = true := by
  decide +kernel

/-- Slot A has two unmarked writes of s5 outstanding, the last settled or not, and none or one of the bundle in execution; slot B wrote s5
first. -/
theorem witness_ResultsLand_slots :
    ([(0, 0), (9, 0), (0, 1), (9, 1)].all fun (p : Nat × Nat) =>
      let y : Result := { known (.s 5) 1 with src := p.1 }
      let own : List Result := List.replicate p.2 (known (.s 5) 1)
      let s := (small {} 1).modGrp 0 fun g => { g with wroteB := [5], hid := p.2, out := [known (.s 5) 1, y] ++ own }
      let x := s.grp 0
      x.wroteB.contains 5 && !x.wroteA.contains 5 && x.out == [known (.s 5) 1] ++ y :: [] ++ own && own.length == x.hid && !y.slotB && y.reg == .s 5) = true := by
  decide +kernel

/-- An operation that the group issued earlier on the stream is parked for room; team operations that agree with the other member's and that
do not; masks that name no stream and set the bit above the last. -/
theorem witness_MatrixWordsArePosted_teams :
    (let p : Park := { why := .matrixRoom, word := .mzero 0 96, pos := 0, arg := 0, mat := some { id := 1, stream := 0 }, id := 1 }
     let s := (multiplying .nop []).modGrp 0 fun g => { g with b := { g.b with st := .run, park := some p } }
     ((s.parkedOn 0).any fun x => decide (x.id < s.nextId) && x.grp == 0 && x.stream == 0)) = true ∧
    (let o : MatOp := { team := some 7, tsize := 2 }
     let s : State := { small {} 1 with cores := [(0, { team := some (7, 0), teamWg := 1 }), (5, { mq := [o] })] }
     ((s.mates 0 7 0).all fun y => y.2.2.agrees o) && !((s.mates 0 7 0).all fun y => y.2.2.agrees { o with w5 := 0x10000 })) = true ∧
    ((0x100 : Word).toNat = 2 ^ (7 + 1) ∧ (0x200 : Word).toNat = 2 ^ (8 + 1) ∧
      ∀ n < 8, (0x100 : Word).getLsbD n = false ∧ (0x200 : Word).getLsbD n = false) :=
  ⟨by decide +kernel, by decide +kernel, by decide⟩

end Sys2Proof.Tests
end

section
/-! Proofs: how an instruction word that is ready completes, and the values of the integer words (R75-R77, R81). -/

namespace Sys2Proof.Machine

/-! ## Words that post one result -/

/-- A ready word whose effect posts `rs` completes with the results `rs`. -/
theorem gives_of_word {i : Instr} {s : State} {c : Cursor} {f : Cursor → State → State} {rs : List Result}
    (he : exec i s = word i s f) (hf : f c (s.noted c i) = (s.noted c i).posting c.grp rs) (h : Ready s c i) :
    Gives i s c rs := by
  rw [Gives, he, word_ready h, hf]

section Shapes

variable {i : Instr} {s : State} {c : Cursor} {d a b : BitVec 7} {k : BitVec 8} {r : Nat → Word}

/-- A word of the shape `vecOp` gives vD the function's value in each lane. -/
theorem vecOp_gives {f : Word → Word → Word} (he : exec i s = word i s (vecOp f d a b))
    (hr : ∀ l, f ((s.grp c.grp).v a.toNat l) ((s.grp c.grp).v b.toNat l) = r l) (h : Ready s c i) :
    Gives i s c [vecRes c d.toNat r] :=
  gives_of_word he (by simp only [vecOp, State.noted_v, hr]; rfl) h

/-- A word of the shape `vecOp1` gives vD the function's value in each lane. -/
theorem vecOp1_gives {f : Word → Word} (he : exec i s = word i s (vecOp1 f d a))
    (hr : ∀ l, f ((s.grp c.grp).v a.toNat l) = r l) (h : Ready s c i) : Gives i s c [vecRes c d.toNat r] :=
  gives_of_word he (by simp only [vecOp1, State.noted_v, hr]; rfl) h

/-- A word of the shape `vecImm` gives vD the function's value of its operand and the immediate in each lane. -/
theorem vecImm_gives {f : Word → Word → Word} (he : exec i s = word i s (vecImm f d a k))
    (hr : ∀ l, f ((s.grp c.grp).v a.toNat l) (immOf c.lit k) = r l) (h : Ready s c i) :
    Gives i s c [vecRes c d.toNat r] :=
  gives_of_word he (by simp only [vecImm, State.noted_v, hr]; rfl) h

/-- A reduction gives sD the fold of the active lanes' values in ascending order. -/
theorem reduce_gives {f : Word → Word → Word} {e w : Word} (he : exec i s = word i s (reduce f e d a))
    (hw : (lanesOf c.lanes).foldl (fun x l => f x ((s.grp c.grp).v a.toNat l)) e = w) (h : Ready s c i) :
    Gives i s c [scaRes c d.toNat w] :=
  gives_of_word he (by simp only [reduce, State.noted_v, hw]; rfl) h

/-- A scan gives each active lane of vD its function of the active lanes' values. -/
theorem scan_gives {f : (Nat → Word) → List Nat → Nat → Word} (he : exec i s = word i s (scan f d a))
    (hr : ∀ l, f ((s.grp c.grp).v a.toNat) (lanesOf c.lanes) l = r l) (h : Ready s c i) :
    ∃ v, (∀ l < 96, c.lanes.getLsbD l = true → v l = r l) ∧ Gives i s c [vecRes c d.toNat v] := by
  have hv : ((s.noted c i).grp c.grp).v a.toNat = (s.grp c.grp).v a.toNat := funext fun _ => State.noted_v ..
  exact ⟨r, fun _ _ _ => rfl, gives_of_word he (by simp only [scan, hv, hr]; rfl) h⟩

end Shapes

/-! ## The high halves of products (R75) -/

theorem extractLsb'_high_ofInt (z : Int) : (BitVec.ofInt 64 z).extractLsb' 32 32 = BitVec.ofInt 32 (z / 4294967296) := by
  apply BitVec.eq_of_toNat_eq
  rw [BitVec.extractLsb'_toNat, BitVec.toNat_ofInt, BitVec.toNat_ofInt, Nat.shiftRight_eq_div_pow]
  omega

theorem mulHigh_eq (x y : Word) : mulHigh x y = (x.signExtend 64 * y.signExtend 64).extractLsb' 32 32 := by
  have hp : x.signExtend 64 * y.signExtend 64 = BitVec.ofInt 64 (x.toInt * y.toInt) := BitVec.ofInt_mul .. |>.symm
  rw [hp, extractLsb'_high_ofInt, mulHigh]

theorem mulHighN_eq (x y : Word) : mulHighN x y = (x.setWidth 64 * y.setWidth 64).extractLsb' 32 32 := by
  have hp : x.setWidth 64 * y.setWidth 64 = BitVec.ofInt 64 (x.toNat * y.toNat : Nat) := by
    rw [BitVec.ofInt_natCast, BitVec.ofNat_mul, BitVec.ofNat_toNat, BitVec.ofNat_toNat]
  rw [hp, extractLsb'_high_ofInt, mulHighN, ← BitVec.ofInt_natCast]
  rfl

/-! ## Minimum and maximum (R75, R76) -/

theorem minS_eq (x y : Word) : minS x y = if x.toInt ≤ y.toInt then x else y := by
  simp only [minS, BitVec.sle_eq_decide, decide_eq_true_eq]
theorem maxS_eq (x y : Word) : maxS x y = if x.toInt ≤ y.toInt then y else x := by
  simp only [maxS, BitVec.sle_eq_decide, decide_eq_true_eq]
theorem minN_eq (x y : Word) : minN x y = if x.toNat ≤ y.toNat then x else y := by
  simp only [minN, BitVec.ule_eq_decide, decide_eq_true_eq]
theorem maxN_eq (x y : Word) : maxN x y = if x.toNat ≤ y.toNat then y else x := by
  simp only [maxN, BitVec.ule_eq_decide, decide_eq_true_eq]

theorem toInt_minS (x y : Word) : (minS x y).toInt = min x.toInt y.toInt := by
  rw [minS_eq]; split <;> omega
theorem toInt_maxS (x y : Word) : (maxS x y).toInt = max x.toInt y.toInt := by
  rw [maxS_eq]; split <;> omega

theorem minS_comm (x y : Word) : minS x y = minS y x :=
  BitVec.eq_of_toInt_eq (by rw [toInt_minS, toInt_minS, Int.min_comm])
theorem minS_assoc (x y z : Word) : minS (minS x y) z = minS x (minS y z) :=
  BitVec.eq_of_toInt_eq (by rw [toInt_minS, toInt_minS, toInt_minS, toInt_minS, Int.min_assoc])
theorem maxS_comm (x y : Word) : maxS x y = maxS y x :=
  BitVec.eq_of_toInt_eq (by rw [toInt_maxS, toInt_maxS, Int.max_comm])
theorem maxS_assoc (x y z : Word) : maxS (maxS x y) z = maxS x (maxS y z) :=
  BitVec.eq_of_toInt_eq (by rw [toInt_maxS, toInt_maxS, toInt_maxS, toInt_maxS, Int.max_assoc])

/-! ## Shift counts and bit fields (R74, R76) -/

theorem count5_eq (y : Word) : count5 y = (y &&& 31).toNat := by
  rw [BitVec.toNat_and]
  exact (Nat.and_two_pow_sub_one_eq_mod y.toNat 5).symm

theorem bfPos_eq (y : Word) : bfPos y = (y.extractLsb' 0 5).toNat := by
  rw [BitVec.extractLsb'_toNat]; rfl

theorem bfWidth_eq (y : Word) :
    bfWidth y = min (y.extractLsb' 8 6).toNat (min 32 (32 - (y.extractLsb' 0 5).toNat)) := by
  rw [bfWidth, bfPos_eq, BitVec.extractLsb'_toNat 8 6, Nat.shiftRight_eq_div_pow]
  omega

/-! ## Counting and reversing bits (R76) -/

theorem popCount_eq (x : Word) : popCount x = BitVec.ofNat 32 ((List.range 32).countP fun k => x.getLsbD k) := by
  rw [popCount, List.countP_eq_length_filter]

/-- A right shift leaves nothing exactly where every bit from the count on is clear. -/
theorem ushiftRight_eq_zero_iff (x : Word) (k : Nat) : x >>> k = 0 ↔ ∀ j, k ≤ j → x.getLsbD j = false := by
  constructor
  · intro h j hj
    have := congrArg (fun w => w.getLsbD (j - k)) h
    simpa [BitVec.getLsbD_ushiftRight, Nat.add_sub_cancel' hj] using this
  · intro h
    apply BitVec.eq_of_getLsbD_eq
    intro j _
    simpa [BitVec.getLsbD_ushiftRight] using h (k + j) (Nat.le_add_right ..)

/-- The highest set bit of a word whose first set bit from the top is the `i`-th decides which shifts leave nothing. -/
theorem ushiftRight_eq_zero_of_first {x : Word} {i : Nat} (hi : i < 32) (hset : x.getLsbD (31 - i) = true)
    (hclear : ∀ j < i, x.getLsbD (31 - j) = false) (k : Nat) : x >>> k = 0 ↔ 31 - i < k := by
  rw [ushiftRight_eq_zero_iff]
  constructor
  · intro h
    refine Nat.lt_of_not_le fun hk => ?_
    rw [h (31 - i) (by omega)] at hset
    exact Bool.false_ne_true hset
  · intro hk j hj
    by_cases h32 : j < 32
    · have := hclear (31 - j) (by omega)
      rwa [show 31 - (31 - j) = j by omega] at this
    · exact BitVec.getLsbD_of_ge _ _ (by omega)

theorem countP_range_gt : ∀ i < 32, ((List.range 32).countP fun k => decide (31 - i < k)) = i := by decide

theorem leadZeros_eq (x : Word) :
    leadZeros x = BitVec.ofNat 32 ((List.range 32).countP fun k => x >>> k == 0) := by
  rw [leadZeros]
  congr 1
  cases hf : (List.range 32).find? fun i => x.getLsbD (31 - i) with
  | none =>
    have hzero : ∀ k ∈ List.range 32, (x >>> k == 0) = true := by
      intro k _
      rw [beq_iff_eq, ushiftRight_eq_zero_iff]
      intro j _
      by_cases h32 : j < 32
      · have := List.find?_eq_none.1 hf (31 - j) (List.mem_range.2 (by omega))
        rwa [show 31 - (31 - j) = j by omega, Bool.not_eq_true] at this
      · exact BitVec.getLsbD_of_ge _ _ (by omega)
    rw [List.countP_eq_length.2 hzero]
    rfl
  | some i =>
    obtain ⟨hset, hi, hclear⟩ := List.find?_range_eq_some.1 hf
    rw [List.mem_range] at hi
    simp only [Bool.not_eq_true'] at hclear
    have hp : ∀ k ∈ List.range 32, (x >>> k == 0) = true ↔ decide (31 - i < k) = true := by
      intro k _
      rw [beq_iff_eq, decide_eq_true_iff, ushiftRight_eq_zero_of_first hi hset hclear]
    rw [List.countP_congr hp, countP_range_gt i hi]
    rfl

/-- Bit `j` of the number that takes the bits 0 to `n - 1` of a word from the top down. -/
theorem testBit_foldl_double (x : Word) (n j : Nat) :
    ((List.range n).foldl (fun m i => 2 * m + (x.getLsbD i).toNat) 0).testBit j =
      (decide (j < n) && x.getLsbD (n - 1 - j)) := by
  induction n generalizing j with
  | zero => simp
  | succ n ih =>
    rw [List.range_succ, List.foldl_append, List.foldl_cons, List.foldl_nil]
    have hb := Bool.toNat_lt (x.getLsbD n)
    cases j with
    | zero =>
      rw [Nat.testBit_zero, Nat.mul_add_mod, Nat.mod_eq_of_lt hb]
      cases hx : x.getLsbD n <;> simp [hx]
    | succ j =>
      rw [Nat.testBit_succ, Nat.mul_add_div Nat.two_pos, Nat.div_eq_of_lt hb, Nat.add_zero, ih]
      simp only [Nat.add_lt_add_iff_right, Nat.add_sub_cancel, Nat.sub_sub, Nat.add_comm 1 j]

theorem reverseBits_eq (x : Word) : reverseBits x = x.reverse := by
  apply BitVec.eq_of_getLsbD_eq
  intro j hj
  rw [reverseBits, BitVec.getLsbD_ofNat, testBit_foldl_double, BitVec.getLsbD_reverse, BitVec.getMsbD]
  simp [hj]

/-! ## Bit fields and permuted bytes (R76) -/

theorem leWord_four (p q r t : Byte) : leWord [p, q, r, t] = t ++ r ++ q ++ p := by
  apply BitVec.eq_of_toNat_eq
  have hp := p.isLt
  have hq := q.isLt
  have hr := r.isLt
  have ht := t.isLt
  simp only [leWord, leNat, BitVec.toNat_ofNat, BitVec.toNat_append]
  rw [← Nat.shiftLeft_add_eq_or_of_lt hr, ← Nat.shiftLeft_add_eq_or_of_lt hq, ← Nat.shiftLeft_add_eq_or_of_lt hp]
  simp only [Nat.shiftLeft_eq]
  omega

theorem byteOf_eq (x : Word) (k : Nat) : byteOf x k = x.extractLsb' (8 * k) 8 := by
  apply BitVec.eq_of_toNat_eq
  rw [byteOf, BitVec.extractLsb'_toNat, Nat.shiftRight_eq_div_pow, BitVec.toNat_ofNat]

/-- A nibble of PRMT's control selects a byte of `x`, zero, or the byte's sign. -/
theorem permByte_eq (x : Word) (n : BitVec 4) :
    permByte x n.toNat =
      if n.getLsbD 2 then 0
      else if n.getLsbD 3 then (if (x.extractLsb' (8 * (n.toNat % 4)) 8).msb then 0xFF else 0)
      else x.extractLsb' (8 * (n.toNat % 4)) 8 := by
  simp only [permByte, byteOf_eq, BitVec.getLsbD, Nat.testBit_eq_decide_div_mod_eq, decide_eq_true_eq]

theorem permute_eq (x y : Word) :
    permute x y =
      permByte x (y.extractLsb' 12 4).toNat ++ permByte x (y.extractLsb' 8 4).toNat ++
        permByte x (y.extractLsb' 4 4).toNat ++ permByte x (y.extractLsb' 0 4).toNat := by
  simp only [BitVec.extractLsb'_toNat, Nat.shiftRight_eq_div_pow]
  exact leWord_four ..

/-! ## The words of majors 0x01 to 0x03 -/

/-- Settles O1: each word has the shape `vecOp` or `vecOp1`, and the function of each agrees with its row of R75 and R76. -/
theorem vectorIntegerResults : Obligations.VectorIntegerResults := by
  refine ⟨fun s c d a b => ?_, fun s c d a b => ?_⟩
  · exact ⟨vecOp_gives rfl fun _ => rfl, vecOp_gives rfl fun _ => rfl, vecOp_gives rfl fun _ => rfl,
      vecOp_gives rfl fun _ => mulHigh_eq .., vecOp_gives rfl fun _ => mulHighN_eq ..,
      vecOp_gives rfl fun _ => minS_eq .., vecOp_gives rfl fun _ => maxS_eq .., vecOp_gives rfl fun _ => rfl,
      vecOp_gives rfl fun _ => rfl, vecOp_gives rfl fun _ => rfl, vecOp_gives rfl fun _ => rfl, vecOp_gives rfl fun _ => rfl,
      vecOp_gives rfl fun _ => congrArg _ (count5_eq _), vecOp_gives rfl fun _ => congrArg _ (count5_eq _),
      vecOp_gives rfl fun _ => congrArg _ (count5_eq _), vecOp_gives rfl fun _ => congrArg _ (count5_eq _)⟩
  · refine ⟨vecOp_gives rfl fun _ => minN_eq .., vecOp_gives rfl fun _ => maxN_eq ..,
      vecOp1_gives rfl fun _ => popCount_eq _, vecOp1_gives rfl fun _ => leadZeros_eq _,
      vecOp1_gives rfl fun _ => reverseBits_eq _, vecOp_gives rfl fun l => ?bfx, ?bfi, vecOp_gives rfl fun l => ?prmt⟩
    case bfx => simp only [bitExtract, lowOnes, bfWidth_eq, bfPos_eq]
    case bfi =>
      refine gives_of_word (show execBfi d a b s = _ from rfl) ?_
      simp only [State.noted_v, bitInsert, lowOnes, bfWidth_eq, bfPos_eq]
      rfl
    case prmt => simp only [permute_eq, permByte_eq]

/-! ## Immediate forms (R77) -/

/-- An entry's own ILLOP is the first of the checks of R43. -/
theorem issueCause_of_ownIllop {s : State} {g : Nat} {b : Bool} {lit : Option (BitVec 24)} {raw : Word} {i : Instr}
    (h : i.ownIllop lit ((s.grp g).priv && b == (s.grp g).privB) = true) :
    s.issueCause g b lit raw i = some (Code.ILLOP, raw) := by
  unfold State.issueCause
  simp only [h, Bool.or_true, Bool.true_or, if_true]

/-- Settles O2: each word has the shape `vecImm`; the count of a shift is checked before anything else. -/
theorem vectorImmediateResults : Obligations.VectorImmediateResults := by
  refine ⟨fun s c d a k => ?_, fun s g b lit raw d a k => ?_⟩
  · intro A imm gives
    have himm : immOf c.lit k = imm := by simp only [imm]; cases c.lit <;> rfl
    exact ⟨vecImm_gives rfl fun _ => by rw [himm], vecImm_gives rfl fun _ => by rw [himm],
      vecImm_gives rfl fun _ => by rw [himm], vecImm_gives rfl fun _ => by rw [himm],
      vecImm_gives rfl fun _ => by rw [himm]; rfl, vecImm_gives rfl fun _ => by rw [himm]; rfl,
      vecImm_gives rfl fun _ => by rw [himm], vecImm_gives rfl fun _ => by rw [himm]⟩
  · intro imm hbig
    have himm : immOf lit k = imm := by simp only [imm]; cases lit <;> rfl
    have hill : decide (31 < (immOf lit k).toNat) = true := decide_eq_true (himm ▸ hbig)
    exact ⟨issueCause_of_ownIllop hill, issueCause_of_ownIllop hill, issueCause_of_ownIllop hill,
      issueCause_of_ownIllop hill⟩

/-! ## Reductions and scans (R81) -/

/-- The order of a fold over the lanes does not matter where the function commutes and associates. -/
theorem foldl_lanes_eq_foldr {f : Word → Word → Word} (hc : ∀ x y, f x y = f y x)
    (ha : ∀ x y z, f (f x y) z = f x (f y z)) (v : Nat → Word) (e : Word) (ls : List Nat) :
    ls.foldl (fun x l => f x (v l)) e = ls.foldr (fun l x => f (v l) x) e := by
  have : Std.Associative f := ⟨ha⟩
  rw [← List.foldl_map]
  induction ls with
  | nil => rfl
  | cons l ls ih => rw [List.map_cons, List.foldl_cons, hc e, List.foldl_assoc, ih, List.foldr_cons]

theorem sumLanes_eq (v : Nat → Word) (ls : List Nat) : sumLanes v ls = (ls.map v).sum := by
  rw [sumLanes, List.sum_eq_foldl, List.foldl_map]

/-- Settles O5: a reduction's fold over the active lanes may run from either end, a scan sums or searches them. -/
theorem reductionAndScanResults : Obligations.ReductionAndScanResults := by
  intro s c d a A act sum givesS givesV
  have hmin : ∀ l x, minS (A l) x = if (A l).toInt ≤ x.toInt then A l else x := fun l x => minS_eq ..
  have hmax : ∀ l x, maxS (A l) x = if x.toInt ≤ (A l).toInt then A l else x := fun l x => by
    rw [maxS_comm, maxS_eq]
  refine ⟨reduce_gives rfl (sumLanes_eq A act), reduce_gives rfl ?min, reduce_gives rfl ?max, reduce_gives rfl ?or,
    scan_gives rfl fun l => sumLanes_eq A _, scan_gives rfl fun l => sumLanes_eq A _,
    scan_gives rfl fun l => ?lead, scan_gives rfl fun l => ?count⟩
  case min => simp only [← hmin]; exact foldl_lanes_eq_foldr minS_comm minS_assoc A _ act
  case max => simp only [← hmax]; exact foldl_lanes_eq_foldr maxS_comm maxS_assoc A _ act
  case or => exact foldl_lanes_eq_foldr BitVec.or_comm BitVec.or_assoc A _ act
  case lead => rw [List.headD_eq_head?_getD, List.head?_filter]; rfl
  case count => rw [List.countP_eq_length_filter]; rfl

end Sys2Proof.Machine
end

section
/-! Proofs: where the branches go and what a divergence does (R12, R96). -/

namespace Sys2Proof.Machine

/-! ## Transfers of control -/

/-- A word that combines no lanes begins in the state that it finds. -/
theorem noted_of_not_combines {i : Instr} (s : State) (c : Cursor) (h : i.combines = false) : s.noted c i = s := by
  simp [State.noted, State.noteCombine, h]

theorem targetOk_iff (s : State) (g : Nat) (t : Dword) :
    s.targetOk g t = true ↔ t.toNat % 3 = 0 ∧ t >>> 32 = (s.wg (s.grp g).wg).hdr.entry >>> 32 := by
  simp only [State.targetOk, State.highOk, Bool.and_eq_true, beq_iff_eq]

theorem goTo_of_cursor {s : State} {c : Cursor} (h : s.cursor = some c) (t : Dword) :
    s.goTo t = { s with cursor := some { c with xfer := some t } } := by
  simp only [State.goTo, State.modCursor, h, Option.map_some]

theorem branch_false (s : State) (c : Cursor) (f : BitVec 15) : s.branch c f false = s := rfl

/-- A taken branch to a legal target sets where the slot goes on, and nothing else. -/
theorem branch_true_legal {s : State} {c : Cursor} {f : BitVec 15} (h : s.cursor = some c)
    (ht : s.targetOk c.grp (c.target f.toInt) = true) :
    s.branch c f true = { s with cursor := some { c with xfer := some (c.target f.toInt) } } := by
  simp only [State.branch, if_true, State.jump, ht, goTo_of_cursor h]

theorem branch_true_illegal {s : State} {c : Cursor} {f : BitVec 15} (ht : ¬s.targetOk c.grp (c.target f.toInt) = true) :
    s.branch c f true = s.raiseE c Code.ILLTGT 0 0 0 [] := by
  simp only [State.branch, if_true, State.jump, if_neg ht, State.trapE]

/-- A ready word that combines no lanes does its own effect in the state that it finds. -/
theorem exec_of_not_combines {i : Instr} {s : State} {c : Cursor} {e : Cursor → State → State} (he : exec i s = word i s e)
    (hi : i.combines = false) (h : Ready s c i) : exec i s = .next (e c s) := by
  rw [he, word_ready h, noted_of_not_combines s c hi]

/-- A ready word that branches on `b` goes to its target, raises ILLTGT, or does nothing. -/
theorem branch_goes {i : Instr} {s : State} {c : Cursor} {f : BitVec 15} {b : Bool} {taken : Prop}
    (hrun : Ready s c i → exec i s = .next (s.branch c f b)) (ht : b = true ↔ taken) (h : Ready s c i) :
    let target := c.target f.toInt
    let legal := target.toNat % 3 = 0 ∧ target >>> 32 = (s.wg (s.grp c.grp).wg).hdr.entry >>> 32
    (taken → legal → exec i s = .next { s with cursor := some { c with xfer := some target } }) ∧
      (taken → ¬legal → exec i s = .next (s.raiseE c Code.ILLTGT 0 0 0 [])) ∧ (¬taken → exec i s = .next s) := by
  intro target legal
  have hlegal : s.targetOk c.grp target = true ↔ legal := targetOk_iff ..
  refine ⟨fun hy hl => ?_, fun hy hl => ?_, fun hn => ?_⟩
  · rw [hrun h, ht.2 hy, branch_true_legal h.cursor (hlegal.2 hl)]
  · rw [hrun h, ht.2 hy, branch_true_illegal (mt hlegal.1 hl)]
  · rw [hrun h, Bool.eq_false_iff.2 (mt ht.1 hn), branch_false]

theorem allowance_threshold_eq (w : Word) : w.toNat % 65536 = (w.extractLsb' 0 16).toNat := by
  rw [BitVec.extractLsb'_toNat]; rfl

section Branches

variable {s : State} {c : Cursor} {q : BitVec 6} {f : BitVec 15}

theorem exec_bra (h : Ready s c (.bra f)) : exec (.bra f) s = .next (s.branch c f true) := exec_of_not_combines rfl rfl h

theorem exec_bz (h : Ready s c (.bz q f)) :
    exec (.bz q f) s = .next (s.branch c f ((s.grp c.grp).s c.slotB q.toNat == 0)) := exec_of_not_combines rfl rfl h

theorem exec_bnz (h : Ready s c (.bnz q f)) :
    exec (.bnz q f) s = .next (s.branch c f ((s.grp c.grp).s c.slotB q.toNat != 0)) := exec_of_not_combines rfl rfl h

theorem exec_bany (h : Ready s c (.bany q f)) :
    exec (.bany q f) s = .next (s.branch c f ((s.grp c.grp).q c.slotB q.toNat &&& c.lanes != 0)) :=
  exec_of_not_combines rfl rfl h

theorem exec_ball (h : Ready s c (.ball q f)) :
    exec (.ball q f) s = .next (s.branch c f ((s.grp c.grp).q c.slotB q.toNat &&& c.lanes == c.lanes)) :=
  exec_of_not_combines rfl rfl h

theorem exec_bnone (h : Ready s c (.bnone q f)) :
    exec (.bnone q f) s = .next (s.branch c f ((s.grp c.grp).q c.slotB q.toNat &&& c.lanes == 0)) :=
  exec_of_not_combines rfl rfl h

theorem exec_balw (h : Ready s c (.balw q f)) :
    exec (.balw q f) s = .next (
      if 575 < ((s.grp c.grp).s c.slotB q.toNat).toNat then s.trapE c Code.ILLTGT
      else s.branch c f
        (decide (s.alw ((s.grp c.grp).s c.slotB q.toNat).toNat < (s.grp c.grp).regs.allowth.toNat % 65536))) := by
  show execBalw q f s = _
  rw [execBalw, word_ready h, noted_of_not_combines s c rfl]

theorem exec_brm (h : Ready s c (.brm q f)) :
    exec (.brm q f) s = .next (s.brm c ((s.grp c.grp).q c.slotB q.toNat) (c.target f.toInt)) := by
  show execBrm q f s = _
  rw [execBrm, word_ready h, noted_of_not_combines s c rfl]

end Branches

/-! ## What a slot keeps of its lanes -/

theorem modSlot_grp (s : State) (g : Nat) (b : Bool) (f : Slot → Slot) :
    (s.modSlot g b f).grp g = (s.grp g).setSlot b (f ((s.grp g).slot b)) := State.modGrp_grp ..

/-- The issuing slot keeps the lanes that `setLanes` gives it, its state, its place and its point. -/
theorem setLanes_slot (s : State) (c : Cursor) (owned active : Mask) :
    ∃ bank, ((s.setLanes c owned active).grp c.grp).slot c.slotB =
      { (s.grp c.grp).slot c.slotB with owned := owned, active := active, bank := active, repBank := bank } := by
  let left := s.issued.head?.any fun i => i.grp == c.grp && i.slotB == c.slotB && !i.later.isEmpty
  let x := (s.grp c.grp).slot c.slotB
  refine ⟨if left then some x.q14 else x.repBank, ?_⟩
  unfold State.setLanes
  simp only [State.modGrp_grp, modSlot_grp]
  exact Group.setSlot_slot ..

theorem setLanes_other (s : State) (c : Cursor) (owned active : Mask) :
    ((s.setLanes c owned active).grp c.grp).slot (!c.slotB) = (s.grp c.grp).slot (!c.slotB) := by
  unfold State.setLanes
  simp only [State.modGrp_grp, modSlot_grp]
  exact Group.setSlot_other ..

/-! ## The steps of R14 where both slots run -/

/-- No step of R14 applies to a group whose slots are both RUN. -/
theorem step14_of_run {s : State} {g : Nat} {b x : Bool} (hx : ((s.grp g).slot x).st = .run)
    (hy : ((s.grp g).slot (!x)).st = .run) : s.step14 g b = none := by
  have hab : (s.grp g).a.st = .run ∧ (s.grp g).b.st = .run := by
    cases x
    · exact ⟨hx, hy⟩
    · exact ⟨hy, hx⟩
  obtain ⟨ha, hb⟩ := hab
  simp [State.step14, ha, hb]

theorem r14_of_run {s : State} {g : Nat} {b x : Bool} (hx : ((s.grp g).slot x).st = .run)
    (hy : ((s.grp g).slot (!x)).st = .run) : s.r14 g b = s := by
  rw [State.r14, State.run14, step14_of_run hx hy]

/-! ## BRM (R12) -/

/-- The state after a divergence into the free slot, before the steps of R14. -/
def State.forked (s : State) (c : Cursor) (taken : Mask) (t : Dword) : State :=
  let x := (s.grp c.grp).slot c.slotB
  (s.setLanes c (x.owned &&& ~~~taken) (c.lanes &&& ~~~taken)).modSlot c.grp (!c.slotB) fun y =>
    { y with st := .run, pc := t, owned := taken, active := taken, bank := taken, point := x.point, rstack := x.rstack
             park := none }

/-- After a divergence the issuing slot keeps the rest of its lanes. -/
theorem forked_slot (s : State) (c : Cursor) (taken : Mask) (t : Dword) :
    let x := (s.grp c.grp).slot c.slotB
    ∃ bank, ((s.forked c taken t).grp c.grp).slot c.slotB =
      { x with owned := x.owned &&& ~~~taken, active := c.lanes &&& ~~~taken, bank := c.lanes &&& ~~~taken
               repBank := bank } := by
  intro x
  obtain ⟨bank, hbank⟩ := setLanes_slot s c (x.owned &&& ~~~taken) (c.lanes &&& ~~~taken)
  refine ⟨bank, ?_⟩
  rw [← hbank, State.forked, modSlot_grp]
  simpa only [Bool.not_not] using Group.setSlot_other _ (!c.slotB) _

/-- After a divergence the other slot runs from the target on the taken lanes. -/
theorem forked_other (s : State) (c : Cursor) (taken : Mask) (t : Dword) :
    let x := (s.grp c.grp).slot c.slotB
    ((s.forked c taken t).grp c.grp).slot (!c.slotB) =
      { (s.grp c.grp).slot (!c.slotB) with
          st := .run, pc := t, owned := taken, active := taken, bank := taken, point := x.point, rstack := x.rstack
          park := none } := by
  intro x
  rw [State.forked, modSlot_grp, Group.setSlot_slot, setLanes_other]

theorem forked_mem (s : State) (c : Cursor) (taken : Mask) (t : Dword) : (s.forked c taken t).mem = s.mem := rfl

section Brm

variable {s : State} {c : Cursor} {q : Mask} {t : Dword}

theorem brm_none (h : c.lanes &&& q = 0) : s.brm c q t = s := by
  simp only [State.brm, h, if_true]

theorem brm_all (h0 : c.lanes &&& q ≠ 0) (ht : s.targetOk c.grp t = true) (hall : c.lanes &&& q = c.lanes) :
    s.brm c q t = s.goTo t := by
  simp only [State.brm, if_neg h0, ht, if_pos hall, Bool.not_true, Bool.false_eq_true, if_false]

theorem brm_fork (h0 : c.lanes &&& q ≠ 0) (ht : s.targetOk c.grp t = true) (hsome : c.lanes &&& q ≠ c.lanes)
    (hfree : ((s.grp c.grp).slot (!c.slotB)).st = .free) :
    s.brm c q t = (s.forked c (c.lanes &&& q) t).r14 c.grp (!c.slotB) := by
  simp only [State.brm, if_neg h0, ht, if_neg hsome, hfree, if_true, Bool.not_true, Bool.false_eq_true, if_false]
  rfl

theorem brm_push (h0 : c.lanes &&& q ≠ 0) (ht : s.targetOk c.grp t = true) (hsome : c.lanes &&& q ≠ c.lanes)
    (hbusy : ((s.grp c.grp).slot (!c.slotB)).st ≠ .free) (hout : (s.grp c.grp).tryR = none)
    (hroom : (s.grp c.grp).dsp < (s.wg (s.grp c.grp).wg).hdr.dstack) :
    let x := (s.grp c.grp).slot c.slotB
    s.brm c q t =
      (s.pushStack c.grp { target := t, mask := c.lanes &&& q, point := x.point, rstack := x.rstack }).setLanes c
        (x.owned &&& ~~~(c.lanes &&& q)) (c.lanes &&& ~~~(c.lanes &&& q)) := by
  simp only [State.brm, if_neg h0, ht, if_neg hsome, if_neg hbusy, hout, if_pos hroom, Option.isSome_none, Bool.not_true,
    Bool.false_eq_true, if_false]

theorem brm_full (h0 : c.lanes &&& q ≠ 0) (ht : s.targetOk c.grp t = true) (hsome : c.lanes &&& q ≠ c.lanes)
    (hbusy : ((s.grp c.grp).slot (!c.slotB)).st ≠ .free) (hout : (s.grp c.grp).tryR = none)
    (hfull : (s.wg (s.grp c.grp).wg).hdr.dstack ≤ (s.grp c.grp).dsp) :
    s.brm c q t = s.raiseE c Code.DSOVF 0 0 0 [] := by
  simp only [State.brm, if_neg h0, ht, if_neg hsome, if_neg hbusy, hout, if_neg (Nat.not_lt.2 hfull), Option.isSome_none,
    Bool.not_true, Bool.false_eq_true, if_false, State.trapE]

end Brm

/-- Settles O14: the seven whole-slot branches share `branch`, and each case of R12 is one case of `brm`; after a
divergence into the free slot both slots run, so no step of R14 follows. -/
theorem branchesGoToTheirTarget : Obligations.BranchesGoToTheirTarget := by
  refine ⟨fun s c q f => ?_, fun s c q f hready => ?_⟩
  · intro g triple target legal goes
    refine ⟨?bra, ?bz, ?bnz, ?bany, ?ball, ?bnone, ?balw⟩
    case bra => exact branch_goes exec_bra (iff_of_true rfl trivial)
    case bz => exact branch_goes exec_bz beq_iff_eq
    case bnz => exact branch_goes exec_bnz bne_iff_ne
    case bany => exact branch_goes exec_bany bne_iff_ne
    case ball => exact branch_goes exec_ball beq_iff_eq
    case bnone => exact branch_goes exec_bnone beq_iff_eq
    case balw =>
      intro dev a
      refine ⟨fun hnear => branch_goes (fun h => (exec_balw h).trans (congrArg _ (if_neg ?_))) ?_,
        fun hfar h => (exec_balw h).trans (congrArg _ (if_pos hfar))⟩
      · exact Nat.not_lt.2 (Nat.le_of_lt_succ hnear)
      · rw [allowance_threshold_eq]
        exact decide_eq_true_iff
  · intro g x other target taken
    have hrun : exec (.brm q f) s = .next (s.brm c (g.q c.slotB q.toNat) target) := exec_brm hready
    refine ⟨fun hnone => ?_, fun hlegal => ⟨fun h0 hall => ?_, fun h0 hsome hfree hx => ?_, fun h0 hsome hbusy hout hroom => ?_,
      fun h0 hsome hbusy hout hfull => ?_⟩⟩
    · rw [hrun, brm_none hnone]
    · rw [hrun, brm_all h0 hlegal hall, goTo_of_cursor hready.cursor]
    · obtain ⟨bank, hslot⟩ := forked_slot s c taken target
      have hother := forked_other s c taken target
      have hr14 : (s.forked c taken target).r14 c.grp (!c.slotB) = s.forked c taken target :=
        r14_of_run (x := c.slotB) (by rw [hslot]; exact hx) (by rw [hother])
      refine ⟨s.forked c taken target, by rw [hrun, brm_fork h0 hlegal hsome hfree, hr14], ?_⟩
      dsimp only
      rw [hslot, hother]
      exact ⟨rfl, rfl, rfl, rfl, rfl, rfl, rfl, rfl, hx, rfl, forked_mem ..⟩
    · rw [hrun, brm_push h0 hlegal hsome hbusy hout hroom]
    · rw [hrun, brm_full h0 hlegal hsome hbusy hout hfull]; rfl

end Sys2Proof.Machine
end

section
/-! Proofs: what a store by the hardware changes (R111), and how a group that waits for nothing takes its trap (R102, R119). -/

namespace Sys2Proof.Machine

/-! ## The path of a hardware store

A store through a core's L1 reads and changes only the cores, the requests and responses on their way, and the fresh
numbers. `State.withStore` puts those of one state into another; that each operation commutes with it says both that the
operation leaves the rest as it was and that it does not look at the rest. -/

/-- `s` with the L1s and the traffic between cores and homes of `t`. -/
def State.withStore (s t : State) : State :=
  { s with cores := t.cores, nextId := t.nextId, reqs := t.reqs, arrived := t.arrived, resps := t.resps }

theorem State.staleFills_withStore (s t : State) (core ctx : Nat) (p : Nat → Bool) :
    (s.withStore t).staleFills core ctx p = s.withStore (t.staleFills core ctx p) := by
  refine .trans ?_ (apply_ite s.withStore (((t.resps.filterMap fun r => r.fills core ctx).filter p).isEmpty = true) ..).symm
  rfl

theorem State.noInstall_withStore (s t : State) (core ctx : Nat) (p : Nat → Bool) :
    (s.withStore t).noInstall core ctx p = s.withStore (t.noInstall core ctx p) := by
  refine .trans ?_
    (apply_ite s.withStore ((((t.reqs ++ t.arrived).filterMap fun r => r.fills core ctx).filter p).isEmpty = true) ..).symm
  refine ite_congr rfl (fun _ => State.staleFills_withStore s t core ctx p) fun _ =>
    .trans ?_ (State.staleFills_withStore s _ core ctx p)
  rfl

theorem State.writeBack_withStore (s t : State) (core : Nat) (l : L1Line) (m : BitVec 128) :
    (s.withStore t).writeBack core l m = s.withStore (t.writeBack core l m) := by
  refine .trans ?_ (apply_ite s.withStore (m &&& l.dirty = 0) ..).symm
  refine ite_congr rfl (fun _ => rfl) fun _ => .trans ?_ (State.noInstall_withStore s _ core l.ctx _)
  rfl

theorem State.fitL1_withStore (s t : State) (core : Nat) :
    (s.withStore t).fitL1 core = s.withStore (t.fitL1 core) := by
  refine List.foldl_hom s.withStore fun t l => ?_
  rw [State.writeBack_withStore]
  rfl

/-- A hardware store depends on the rest of the state only through the group's context. -/
theorem State.hwStore_withStore {s t : State} {g : Nat} (hctx : s.ctxOf g = t.ctxOf g) (va : Nat) (bs : List Byte) :
    (s.withStore t).hwStore g va bs = s.withStore (t.hwStore g va bs) := by
  have hctx' : (s.withStore t).ctxOf g = t.ctxOf g := hctx
  unfold State.hwStore
  rw [hctx']
  exact State.fitL1_withStore s (t.setCore ..) _

/-- A hardware store leaves everything but its path as it was. -/
theorem State.hwStore_frame (s : State) (g va : Nat) (bs : List Byte) :
    s.hwStore g va bs = s.withStore (s.hwStore g va bs) :=
  State.hwStore_withStore rfl va bs

/-! ## Taking a trap (R110, R111) -/

/-- Taking a trap changes the group and the path of the save area's store. -/
theorem State.deliver_frame (s : State) (g : Nat) (r : Raised) :
    s.deliver g r = (s.withStore (s.deliver g r)).setGrp g ((s.deliver g r).grp g) := by
  unfold State.deliver
  dsimp only
  rw [State.hwStore_frame, State.setGrp_grp]
  rfl

@[simp] theorem State.deliver_cursor (s : State) (g : Nat) (r : Raised) : (s.deliver g r).cursor = s.cursor := by
  rw [State.deliver_frame]
  rfl

@[simp] theorem State.deliver_mem (s : State) (g : Nat) (r : Raised) : (s.deliver g r).mem = s.mem := by
  rw [State.deliver_frame]
  rfl

theorem State.deliver_grp_ne (s : State) (g : Nat) (r : Raised) {h : Nat} (hg : h ≠ g) :
    (s.deliver g r).grp h = s.grp h := by
  rw [State.deliver_frame, State.setGrp_grp_ne _ _ _ hg]
  rfl

/-- The group waits to take a trap. -/
def Group.withTrap (x : Group) (r : Raised) : Group := { x with trap := some r }

/-- What a group was before it is set does not matter. -/
theorem State.withStore_modGrp_setGrp (s t : State) (g : Nat) (f : Group → Group) (x : Group) :
    ((s.modGrp g f).withStore t).setGrp g x = (s.withStore t).setGrp g x := by
  simp only [State.withStore, State.modGrp, State.setGrp, tset_tset]

section Waiting

/-! What trap entry reads of the group is the same whether a trap waits or not. -/

variable (s : State) (g : Nat) (w : Raised)

theorem State.modGrp_withTrap_ctxOf : (s.modGrp g fun x => x.withTrap w).ctxOf g = s.ctxOf g := by
  rw [State.ctxOf, State.modGrp_grp]
  rfl

theorem State.modGrp_withTrap_saveAddr : (s.modGrp g fun x => x.withTrap w).saveAddr g = s.saveAddr g := by
  rw [State.saveAddr, State.privBase, State.modGrp_grp]
  rfl

theorem State.modGrp_withTrap_ttask (b : Bool) : (s.modGrp g fun x => x.withTrap w).ttask g b = s.ttask g b := by
  rw [State.ttask, State.modGrp_grp]
  rfl

theorem State.modGrp_withTrap_hwStore (va : Nat) (bs : List Byte) :
    (s.modGrp g fun x => x.withTrap w).hwStore g va bs =
      (s.modGrp g fun x => x.withTrap w).withStore (s.hwStore g va bs) :=
  State.hwStore_withStore (t := s) (State.modGrp_withTrap_ctxOf s g w) va bs

/-- Taking a trap clears the group's trap, so it does not matter which one was waiting. -/
theorem State.deliver_withTrap (r : Raised) : (s.modGrp g fun x => x.withTrap w).deliver g r = s.deliver g r := by
  have htask (t : State) : ((s.modGrp g fun x => x.withTrap w).withStore t).ttask g r.slotB = s.ttask g r.slotB :=
    State.modGrp_withTrap_ttask s g w r.slotB
  unfold State.deliver
  dsimp only
  rw [State.modGrp_grp, State.modGrp_withTrap_saveAddr, State.modGrp_withTrap_hwStore, htask,
    State.withStore_modGrp_setGrp]
  conv => rhs; rw [State.hwStore_frame]
  rfl

end Waiting

/-- A trap whose wait is over is taken where the group has a handler that is not running. -/
theorem State.settle_of_trapReady {s : State} {g : Nat} {r : Raised} (htrap : (s.grp g).trap = some r)
    (hstrict : (s.grp g).spec = none) (huser : (s.grp g).priv = false)
    (hhandler : (s.wg (s.grp g).wg).hdr.handler ≠ 0) (hready : (s.grp g).trapReady = some r) :
    s.settle g = s.deliver g r := by
  simp only [State.settle, htrap, hstrict, huser, beq_eq_false_iff_ne.2 hhandler, hready, Option.isSome_none,
    Bool.or_self, Bool.false_eq_true, if_false]

/-! ## A group that waits for nothing (R102) -/

/-- The group runs outside its handler and outside a region, with no trap under way and nothing to wait for. -/
structure Group.Quiet (x : Group) : Prop where
  alive : x.dead = false
  outside : x.tryR = none
  user : x.priv = false
  free : x.trap = none
  strict : x.spec = none
  landed : x.out = []
  repA : x.a.rep = none
  repB : x.b.rep = none

theorem Slot.endRep_of_none {x : Slot} (h : x.rep = none) (serial : Nat) : x.endRep serial = x := by
  simp [Slot.endRep, h]

theorem Slot.repDone_of_none {x : Slot} (h : x.rep = none) : x.repDone = true := by simp [Slot.repDone, h]

theorem Group.setSlot_self (x : Group) (b : Bool) : x.setSlot b (x.slot b) = x := by cases b <;> rfl

section Quiet

variable {x : Group} {s : State} {g : Nat} {r : Raised}

theorem Group.Quiet.rep (h : x.Quiet) (b : Bool) : (x.slot b).rep = none := by
  cases b
  · exact h.repA
  · exact h.repB

theorem Group.hold_of_quiet (h : x.Quiet) : x.hold r = x.withTrap r := by
  simp [Group.hold, Group.withTrap, Slot.endRep_of_none (h.rep r.slotB), Group.setSlot_self, h.free, h.user]

/-- The wait of a trap that is not of class A is over. -/
theorem Group.trapReady_of_quiet (h : x.Quiet) (hcls : r.cls ≠ .a) : (x.withTrap r).trapReady = some r := by
  simp [Group.trapReady, Group.withTrap, h.landed, Slot.repDone_of_none h.repA, Slot.repDone_of_none h.repB, hcls]

/-- A cause of delivery H becomes the trap of a quiet group. -/
theorem State.raise_of_quiet (h : (s.grp g).Quiet) (hhandler : (s.wg (s.grp g).wg).hdr.handler ≠ 0)
    (hdelivery : delivery r.cause = .h) : s.raise g r = s.modGrp g fun x => x.withTrap r := by
  have hspec : s.unspecFor g r = s := by simp [State.unspecFor, h.strict]
  have hend : s.takeOrEnd g r = s.modGrp g fun x => x.hold r := by
    simp only [State.takeOrEnd, h.user, hhandler, Bool.false_and, Bool.false_eq_true, if_false]
  simp only [State.raise, h.alive, hdelivery, h.outside, hspec, h.strict, hend, Bool.false_eq_true, if_false,
    Option.isSome_none, State.modGrp, Group.hold_of_quiet h]

/-- A quiet group takes at once the trap that it has got. -/
theorem State.settle_of_quiet (h : (s.grp g).Quiet) (hhandler : (s.wg (s.grp g).wg).hdr.handler ≠ 0) (hcls : r.cls ≠ .a) :
    (s.modGrp g fun x => x.withTrap r).settle g = s.deliver g r := by
  have hgrp : (s.modGrp g fun x => x.withTrap r).grp g = (s.grp g).withTrap r := State.modGrp_grp ..
  rw [State.settle_of_trapReady (r := r), State.deliver_withTrap]
  all_goals rw [hgrp]
  · rfl
  · exact h.strict
  · exact h.user
  · exact hhandler
  · exact Group.trapReady_of_quiet h hcls

/-- A cause of delivery H that need not wait for its word is delivered at once in a quiet group. -/
theorem State.raise_settle_of_quiet (h : (s.grp g).Quiet) (hhandler : (s.wg (s.grp g).wg).hdr.handler ≠ 0)
    (hdelivery : delivery r.cause = .h) (hcls : r.cls ≠ .a) : (s.raise g r).settle g = s.deliver g r := by
  rw [State.raise_of_quiet h hhandler hdelivery, State.settle_of_quiet h hhandler hcls]

/-- A class I cause of delivery H of a quiet group's word is its trap at once. -/
theorem State.raiseIssue_of_quiet {c : Cursor} {k : Cause} (h : (s.grp c.grp).Quiet)
    (hhandler : (s.wg (s.grp c.grp).wg).hdr.handler ≠ 0) (hdelivery : delivery k = .h) (info : Word) :
    let x := (s.grp c.grp).slot c.slotB
    s.raiseIssue c k info = State.deliver { s with cursor := some { c with gone := true, void := true } } c.grp
      { cause := k, cls := .i, slotB := c.slotB, pos := c.pos, mask := x.active, info := info, repi := c.repi
        resume := x.pc, serial := c.serial } :=
  State.raise_settle_of_quiet h hhandler hdelivery nofun

end Quiet

/-! ## TRAP and BKPT (R119) -/

/-- A word with a class I cause raises it, whatever its own effect. -/
theorem exec_of_issueCause {s : State} {c : Cursor} {i : Instr} {e : Cursor → State → State} {k : Cause} {info : Word}
    (he : exec i s = word i s e) (hcursor : s.cursor = some c) (hgoing : c.void = false)
    (hcause : s.issueCause c.grp c.slotB c.lit c.raw i = some (k, info)) : exec i s = .next (s.raiseIssue c k info) := by
  simp only [he, word, hcursor, hgoing, hcause, Bool.false_eq_true, if_false]

theorem issueCause_trap (s : State) (g : Nat) (b : Bool) (lit : Option (BitVec 24)) (raw : Word) (n : BitVec 7) :
    s.issueCause g b lit raw (.trap n) = some (Code.SWTRAP, n.setWidth 32) := rfl

theorem issueCause_bkpt (s : State) (g : Nat) (b : Bool) (lit : Option (BitVec 24)) (raw : Word) (n : BitVec 7) :
    s.issueCause g b lit raw (.bkpt n) = some (Code.BKPT, n.setWidth 32) := rfl

/-- Settles O19: the frame of the word raises SWTRAP or BKPT as class I, and in a group that waits for nothing the cause
is delivered in the same step, which changes only the group and the path of the save area's store. -/
theorem softwareTrapsAreTaken : Obligations.SoftwareTrapsAreTaken := by
  intro s c n g x hcursor hgoing halive houtside huser hfree hstrict hlanded hrepA hrepB hhandler u raised taken
  have hquiet : g.Quiet := ⟨halive, houtside, huser, hfree, hstrict, hlanded, hrepA, hrepB⟩
  have htaken (i : Instr) (k : Cause) (hdelivery : delivery k = .h)
      (hexec : exec i s = .next (s.raiseIssue c k (n.setWidth 32))) : taken i k := by
    rw [State.raiseIssue_of_quiet hquiet hhandler hdelivery] at hexec
    exact ⟨_, hexec, State.deliver_cursor .., fun _ hother => State.deliver_grp_ne _ _ _ hother, rfl, rfl,
      State.deliver_mem ..⟩
  exact ⟨htaken _ _ (by decide) (exec_of_issueCause (e := fun _ s => s) rfl hcursor hgoing (issueCause_trap ..)),
    htaken _ _ (by decide) (exec_of_issueCause (e := fun _ s => s) rfl hcursor hgoing (issueCause_bkpt ..))⟩

end Sys2Proof.Machine
end

section
/-! Proofs: the barrier that a handle names, the wakes of the slots parked on it, and the six barrier words (R139, R140, R198). -/

namespace Sys2Proof.Machine

/-! ## A cluster's barriers -/

@[simp] theorem State.setBar_bar (s : State) (cl k : Nat) (x : Barrier) : ((s.setBar cl k x).cluster cl).bar k = x := by
  simp [State.setBar, Cluster.setBar, Cluster.bar]

theorem State.setBar_bar_ne (s : State) (cl k : Nat) (x : Barrier) {j : Nat} (hj : j ≠ k) :
    ((s.setBar cl k x).cluster cl).bar j = (s.cluster cl).bar j := by
  simp [State.setBar, Cluster.setBar, Cluster.bar, tgetD_tset_ne _ _ _ _ hj]

/-! ## The barrier that a handle names (R140, R198) -/

theorem State.barHeld_iff (s : State) (ctx cl k : Nat) :
    s.barHeld ctx cl k = true ↔ ∃ o, ((s.cluster cl).bar k).holder = some o ∧ (s.wg o).ctx = ctx := by
  unfold State.barHeld
  cases ((s.cluster cl).bar k).holder <;> simp

section Handles

variable {s : State} {w : Wg} {h : Nat}

theorem State.barNo_own (hlow : h < 16) : s.barNo w h = if h < w.hdr.bars then some (w.bb + h) else none := by
  rw [State.barNo, if_neg (by omega), if_pos hlow]

theorem State.barNo_cluster (hlow : 16 ≤ h) (hhigh : h < 32) :
    s.barNo w h = if s.barHeld w.ctx (clusterOf w.core) (h - 16) then some (h - 16) else none := by
  rw [State.barNo, if_neg (Nat.not_le.2 hhigh), if_neg (Nat.not_lt.2 hlow)]

theorem State.barNo_above (hhigh : 32 ≤ h) : s.barNo w h = none := if_pos hhigh

end Handles

theorem State.withBar_none {s : State} {c : Cursor} {a : BitVec 7} {f : Nat → Nat → State}
    (hbar : s.barNo (s.wg (s.grp c.grp).wg) ((s.grp c.grp).sc c.slotB a.toNat).toNat = none) :
    s.withBar c a f = s.raiseE c Code.BARBUD 0 0 0 [] := by
  simp only [State.withBar, hbar, State.trapE]

theorem State.withBar_some {s : State} {c : Cursor} {a : BitVec 7} {f : Nat → Nat → State} {k : Nat}
    (hbar : s.barNo (s.wg (s.grp c.grp).wg) ((s.grp c.grp).sc c.slotB a.toNat).toNat = some k) :
    s.withBar c a f = f (clusterOf (coreOf c.grp)) k := by
  simp only [State.withBar, hbar]

/-! ## What a barrier reads as (R139, R140) -/

theorem toNat_mul_eq_ite (b : Bool) (n : Nat) : b.toNat * n = if b then n else 0 := by cases b <;> simp

theorem Barrier.status_eq (x : Barrier) :
    x.status = BitVec.ofNat 32 ((if x.ph then 1 else 0) + (if x.lflt then 2 else 0)) := by
  rw [Barrier.status, ← toNat_mul_eq_ite, ← toNat_mul_eq_ite, Nat.mul_one, Nat.mul_comm 2]

theorem Barrier.low_eq (x : Barrier) :
    x.low = BitVec.ofNat 32 ((if x.ph then 2 ^ 31 else 0) + (if x.lflt then 2 ^ 30 else 0) + (if x.cflt then 2 ^ 29 else 0) +
      x.arr % 2048 * 2 ^ 16 + x.expa % 2048) := by
  simp only [Barrier.low, toNat_mul_eq_ite, Nat.reducePow]

/-- A wait's phase is bit 0 of its operand. -/
theorem phase_eq_iff (b : Bool) (v : Word) : b.toNat = v.toNat % 2 ↔ b = v.getLsbD 0 := by
  rw [BitVec.getLsbD, Nat.testBit_zero]
  rcases Nat.mod_two_eq_zero_or_one v.toNat with hv | hv <;> cases b <;> simp [hv]

/-! ## Acquires and wakes -/

/-- Nothing differs but groups, cores, and the requests and responses on their way. -/
def OnlyWoken (s t : State) : Prop := t = { s.withStore t with groups := t.groups }

theorem OnlyWoken.refl (s : State) : OnlyWoken s s := rfl

theorem OnlyWoken.trans {s t u : State} (h : OnlyWoken s t) (k : OnlyWoken t u) : OnlyWoken s u :=
  Eq.trans k (congrArg (fun x : State => { x.withStore u with groups := u.groups }) h)

theorem OnlyWoken.foldl {α : Type} {f : State → α → State} (h : ∀ s a, OnlyWoken s (f s a)) (l : List α) :
    ∀ s, OnlyWoken s (l.foldl f s) := by
  induction l with
  | nil => exact OnlyWoken.refl
  | cons a l ih => exact fun s => (h s a).trans (ih _)

theorem OnlyWoken.cluster {s t : State} (h : OnlyWoken s t) (cl : Nat) : t.cluster cl = s.cluster cl :=
  Eq.trans (congrArg (State.cluster · cl) h) rfl

theorem OnlyWoken.mem {s t : State} (h : OnlyWoken s t) : t.mem = s.mem := Eq.trans (congrArg State.mem h) rfl

theorem State.modGrp_onlyWoken (s : State) (g : Nat) (f : Group → Group) : OnlyWoken s (s.modGrp g f) := rfl

/-- An acquire changes the L1s and the fills on their way. -/
theorem State.acquire_frame (s : State) (core ctx : Nat) : s.acquire core ctx = s.withStore (s.acquire core ctx) :=
  State.noInstall_withStore s (s.setCore core _) core ctx _

theorem State.acquireAt_frame (s : State) (g : Nat) (p : Scope) : s.acquireAt g p = s.withStore (s.acquireAt g p) := by
  unfold State.acquireAt
  split
  · exact State.acquire_frame ..
  · rfl

theorem State.acquireAt_onlyWoken (s : State) (g : Nat) (p : Scope) : OnlyWoken s (s.acquireAt g p) := by
  have hgroups : (s.acquireAt g p).groups = s.groups := (congrArg State.groups (State.acquireAt_frame s g p)).trans rfl
  rw [OnlyWoken, hgroups]
  exact State.acquireAt_frame s g p

@[simp] theorem State.acquireAt_grp (s : State) (g : Nat) (p : Scope) (h : Nat) : (s.acquireAt g p).grp h = s.grp h :=
  (congrArg (State.grp · h) (State.acquireAt_frame s g p)).trans rfl

theorem State.wakeParks_onlyWoken (s : State) (g : Nat) (b : Bool) (p : Park → Bool) (w : Word) (scope : Scope) :
    OnlyWoken s (s.wakeParks g b p w scope) := by
  unfold State.wakeParks
  split
  · exact (State.modGrp_onlyWoken ..).trans (State.acquireAt_onlyWoken ..)
  · exact OnlyWoken.refl s

theorem State.wakeBars_onlyWoken (s : State) (cl k : Nat) (status : Word) (scope : Scope) :
    OnlyWoken s (s.wakeBars cl k status scope) :=
  OnlyWoken.foldl (fun _ _ => (State.wakeParks_onlyWoken ..).trans (State.wakeParks_onlyWoken ..)) _ s

/-! ## The parks that a wake ends -/

theorem Group.supply1_slot (x : Group) (id : Nat) (w : Word) (b : Bool) : (x.supply1 id w).slot b = x.slot b := rfl

theorem Group.foldl_supply1_slot (qs : List Park) (w : Word) (b : Bool) :
    ∀ x : Group, (qs.foldl (fun x q => x.supply1 q.id w) x).slot b = x.slot b := by
  induction qs with
  | nil => exact fun _ => rfl
  | cons q qs ih => exact fun x => (ih _).trans (Group.supply1_slot ..)

theorem Group.mapParks_park (x : Group) (b : Bool) (f : Park → Option Park) :
    ((x.mapParks b f).slot b).park = (x.slot b).park.bind f := by
  rw [Group.mapParks, Group.setSlot_slot]

theorem Group.mapParks_other (x : Group) (b : Bool) (f : Park → Option Park) :
    (x.mapParks b f).slot (!b) = x.slot (!b) := by
  rw [Group.mapParks, Group.setSlot_other]
  rfl

theorem Group.wakeWhere_park (x : Group) (b : Bool) (p : Park → Bool) (w : Word) :
    ((x.wakeWhere b p w).slot b).park = (x.slot b).park.filter fun q => !p q := by
  rw [Group.wakeWhere, Group.foldl_supply1_slot, Group.mapParks_park]
  cases (x.slot b).park with
  | none => rfl
  | some q => cases hq : p q <;> simp [Option.filter, hq]

theorem Group.wakeWhere_other (x : Group) (b : Bool) (p : Park → Bool) (w : Word) :
    (x.wakeWhere b p w).slot (!b) = x.slot (!b) := by
  rw [Group.wakeWhere, Group.foldl_supply1_slot, Group.mapParks_other]

/-- A slot none of whose parks has the property has no own park with it. -/
theorem Group.park_filter_of_not_any {x : Group} {b : Bool} {p : Park → Bool} (h : ¬(x.parksOf b).any p = true) :
    (x.slot b).park.filter (fun q => !p q) = (x.slot b).park := by
  cases hpark : (x.slot b).park with
  | none => rfl
  | some q =>
    have hq : p q = false := by
      rw [List.any_eq_true] at h
      exact Bool.eq_false_iff.2 fun hp => h ⟨q, by simp [Group.parksOf, hpark], hp⟩
    simp [hq]

theorem State.wakeParks_park (s : State) (g : Nat) (b : Bool) (p : Park → Bool) (w : Word) (scope : Scope) :
    (((s.wakeParks g b p w scope).grp g).slot b).park = ((s.grp g).slot b).park.filter fun q => !p q := by
  unfold State.wakeParks
  split
  · rw [State.acquireAt_grp, State.modGrp_grp, Group.wakeWhere_park]
  · next hnone => exact (Group.park_filter_of_not_any hnone).symm

theorem State.wakeParks_other (s : State) (g : Nat) (b : Bool) (p : Park → Bool) (w : Word) (scope : Scope) :
    ((s.wakeParks g b p w scope).grp g).slot (!b) = (s.grp g).slot (!b) := by
  unfold State.wakeParks
  split
  · rw [State.acquireAt_grp, State.modGrp_grp, Group.wakeWhere_other]
  · rfl

theorem State.wakeParks_grp_ne (s : State) (g : Nat) (b : Bool) (p : Park → Bool) (w : Word) (scope : Scope) {h : Nat}
    (hg : h ≠ g) : (s.wakeParks g b p w scope).grp h = s.grp h := by
  unfold State.wakeParks
  split
  · rw [State.acquireAt_grp, State.modGrp_grp_ne _ _ _ hg]
  · rfl

/-- Both slots of a group parked on a barrier wake. -/
def State.wakeBoth (s : State) (k : Nat) (status : Word) (scope : Scope) (g : Nat) : State :=
  (s.wakeBar k status scope g false).wakeBar k status scope g true

theorem State.wakeBars_eq_foldl (s : State) (cl k : Nat) (status : Word) (scope : Scope) :
    s.wakeBars cl k status scope = ((s.groups.map Prod.fst).filter fun g => clusterOf (coreOf g) == cl).foldl
      (fun s g => s.wakeBoth k status scope g) s := rfl

theorem State.wakeBoth_park (s : State) (k : Nat) (status : Word) (scope : Scope) (g : Nat) (z : Bool) :
    (((s.wakeBoth k status scope g).grp g).slot z).park = ((s.grp g).slot z).park.filter fun p => !p.onBar k := by
  cases z with
  | false =>
    exact (congrArg Slot.park (State.wakeParks_other (s.wakeBar k status scope g false) g true ..)).trans
      (State.wakeParks_park s g false ..)
  | true =>
    refine (State.wakeParks_park (s.wakeBar k status scope g false) g true ..).trans ?_
    exact congrArg (fun y : Slot => y.park.filter fun p => !p.onBar k) (State.wakeParks_other s g false ..)

theorem State.wakeBoth_grp_ne (s : State) (k : Nat) (status : Word) (scope : Scope) {g h : Nat} (hg : h ≠ g) :
    (s.wakeBoth k status scope g).grp h = s.grp h :=
  (State.wakeParks_grp_ne _ g true _ _ _ hg).trans (State.wakeParks_grp_ne s g false _ _ _ hg)

/-- After a wake of the groups of a list, none of them is parked on the barrier, and the parks of the others are as they were. -/
theorem State.foldl_wakeBoth_park (k : Nat) (status : Word) (scope : Scope) (h : Nat) (z : Bool) (gs : List Nat) : ∀ s : State,
    (((gs.foldl (fun s g => s.wakeBoth k status scope g) s).grp h).slot z).park =
      if h ∈ gs then ((s.grp h).slot z).park.filter fun p => !p.onBar k else ((s.grp h).slot z).park := by
  induction gs with
  | nil => exact fun _ => rfl
  | cons g gs ih =>
    intro s
    rw [List.foldl_cons, ih]
    by_cases hg : h = g
    · subst hg
      simp [State.wakeBoth_park]
    · simp [State.wakeBoth_grp_ne s k status scope hg, hg]

/-- A group that the table does not list is parked nowhere. -/
theorem State.park_eq_none_of_not_listed {s : State} {h : Nat} (hlist : h ∉ s.groups.map Prod.fst) (z : Bool) :
    ((s.grp h).slot z).park = none := by
  have hgrp : s.grp h = {} := by
    rcases tgetD_mem s.groups h {} with hdefault | hmem
    · exact hdefault
    · exact absurd (List.mem_map_of_mem hmem) hlist
  rw [hgrp]
  cases z <;> rfl

/-- No slot of the cluster is parked on the barrier after its wake; other parks stay. -/
theorem State.wakeBars_park (s : State) {cl : Nat} (k : Nat) (status : Word) (scope : Scope) {h : Nat} (z : Bool)
    (hcl : clusterOf (coreOf h) = cl) :
    (((s.wakeBars cl k status scope).grp h).slot z).park = ((s.grp h).slot z).park.filter fun p => !p.onBar k := by
  rw [State.wakeBars_eq_foldl, State.foldl_wakeBoth_park]
  split
  · rfl
  · next hlist =>
    have hnone : ((s.grp h).slot z).park = none := State.park_eq_none_of_not_listed (by simpa [hcl] using hlist) z
    rw [hnone]
    rfl

/-! ## The completion of a phase (R139) -/

section Completion

variable (s : State) (cl k : Nat) {y : Barrier}

theorem State.checkBar_setBar_waiting (h : y.arr ≠ y.expa ∨ y.tx ≠ 0) :
    (s.setBar cl k y).checkBar cl k = s.setBar cl k y := by
  rw [State.checkBar, State.setBar_bar, if_neg (by rwa [Classical.not_and_iff_not_or_not])]

theorem State.checkBar_setBar_complete (harr : y.arr = y.expa) (htx : y.tx = 0) :
    (((s.setBar cl k y).checkBar cl k).cluster cl).bar k = y.turn := by
  rw [State.checkBar, State.setBar_bar, if_pos ⟨harr, htx⟩, (State.wakeBars_onlyWoken ..).cluster, State.setBar_bar]

end Completion

/-- Within the range of TX, only the sum 0 leaves no byte out. -/
theorem ofInt32_eq_zero_iff {n : Int} (hlow : -2 ^ 31 ≤ n) (hhigh : n < 2 ^ 31) : BitVec.ofInt 32 n = 0 ↔ n = 0 := by
  have hback : (BitVec.ofInt 32 n).toInt = n := BitVec.toInt_ofInt_eq_self (by omega) hlow hhigh
  refine ⟨fun h => ?_, fun h => by rw [h]; rfl⟩
  rw [← hback, h]
  rfl

/-! ## The six words (R140) -/

section Handle

variable {i : Instr} {s : State} {c : Cursor} {a : BitVec 7} {f : Cursor → State → Nat → Nat → State}

/-- A barrier word whose handle names no barrier raises BARBUD. -/
theorem exec_barrier_refused (he : exec i s = word i s fun c s => s.withBar c a (f c s)) (hi : i.combines = false)
    (hbar : s.barNo (s.wg (s.grp c.grp).wg) ((s.grp c.grp).sc c.slotB a.toNat).toNat = none) (h : Ready s c i) :
    exec i s = .next ((s.noted c i).raiseE c Code.BARBUD 0 0 0 []) := by
  rw [exec_of_not_combines he hi h, State.withBar_none hbar, noted_of_not_combines s c hi]

/-- A barrier word does its own effect on the barrier that its handle names. -/
theorem exec_barrier_named {k : Nat} (he : exec i s = word i s fun c s => s.withBar c a (f c s)) (hi : i.combines = false)
    (hbar : s.barNo (s.wg (s.grp c.grp).wg) ((s.grp c.grp).sc c.slotB a.toNat).toNat = some k) (h : Ready s c i) :
    exec i s = .next (f c s (clusterOf (coreOf c.grp)) k) := by
  rw [exec_of_not_combines he hi h, State.withBar_some hbar]

end Handle

section Words

variable {s : State} {c : Cursor} {d a b : BitVec 7} {k : Nat}
  (hbar : s.barNo (s.wg (s.grp c.grp).wg) ((s.grp c.grp).sc c.slotB a.toNat).toNat = some k)

include hbar

theorem exec_bararv (h : Ready s c (.bararv d a)) :
    exec (.bararv d a) s = .next ((s.posting c.grp [waitRes c (sreg d.toNat) 1 s.nextId]).queueing c opBar
      (.arrive (clusterOf (coreOf c.grp)) k false) [] 0) := by
  rw [exec_barrier_named (by rfl) rfl hbar h]
  rfl

theorem exec_baraw (h : Ready s c (.baraw d a)) :
    exec (.baraw d a) s = .next (((s.posting c.grp [waitRes c (sreg d.toNat) 1 s.nextId]).queueing c opBar
      (.arrive (clusterOf (coreOf c.grp)) k true) [] 0).parking c (.barrier k) (.baraw d a) 1 s.nextId) := by
  rw [exec_barrier_named (by rfl) rfl hbar h]
  rfl

theorem exec_barwt_waiting (h : Ready s c (.barwt d a b))
    (hph : ((s.cluster (clusterOf (coreOf c.grp))).bar k).ph = ((s.grp c.grp).sc c.slotB b.toNat).getLsbD 0) :
    exec (.barwt d a b) s = .next ((s.drawn.posting c.grp [waitRes c (sreg d.toNat) 1 s.nextId]).parking c (.barrier k)
      (.barwt d a b) 0 s.nextId) := by
  rw [exec_barrier_named (by rfl) rfl hbar h, if_pos ((phase_eq_iff ..).2 hph)]
  rfl

theorem exec_barwt_turned (h : Ready s c (.barwt d a b))
    (hph : ((s.cluster (clusterOf (coreOf c.grp))).bar k).ph ≠ ((s.grp c.grp).sc c.slotB b.toNat).getLsbD 0) :
    let x := (s.cluster (clusterOf (coreOf c.grp))).bar k
    exec (.barwt d a b) s = .next ((s.posting c.grp [scaRes c d.toNat x.status]).acquireAt c.grp (x.last.getD .core)) := by
  rw [exec_barrier_named (by rfl) rfl hbar h, if_neg (mt (phase_eq_iff ..).1 hph)]
  rfl

theorem exec_barinit_refused (h : Ready s c (.barinit a b))
    (hn : (s.grp c.grp).sc c.slotB b.toNat = 0 ∨ 1024 < ((s.grp c.grp).sc c.slotB b.toNat).toNat) :
    exec (.barinit a b) s = .next (s.raiseE c Code.BAROVF 0 0 0 []) := by
  rw [exec_barrier_named (by rfl) rfl hbar h]
  exact congrArg _ (if_pos (hn.imp_left (congrArg BitVec.toNat)))

theorem exec_barinit (h : Ready s c (.barinit a b)) (hzero : (s.grp c.grp).sc c.slotB b.toNat ≠ 0)
    (hmax : ((s.grp c.grp).sc c.slotB b.toNat).toNat ≤ 1024) :
    let cl := clusterOf (coreOf c.grp)
    let y : Barrier := { expa := ((s.grp c.grp).sc c.slotB b.toNat).toNat, holder := ((s.cluster cl).bar k).holder }
    exec (.barinit a b) s = .next ((s.setBar cl k y).wakeBars cl k 4 .core) := by
  have hn : ¬(((s.grp c.grp).sc c.slotB b.toNat).toNat = 0 ∨ 1024 < ((s.grp c.grp).sc c.slotB b.toNat).toNat) :=
    not_or.2 ⟨fun h0 => hzero (BitVec.eq_of_toNat_eq h0), Nat.not_lt.2 hmax⟩
  rw [exec_barrier_named (by rfl) rfl hbar h, if_neg hn]

theorem exec_barst (h : Ready s c (.barst d a)) :
    let x := (s.cluster (clusterOf (coreOf c.grp))).bar k
    exec (.barst d a) s = .next (s.posting c.grp [scaRes c d.toNat x.low, scaRes c (d.toNat + 1) x.tx]) := by
  intro x
  have hlow : (x.tx ++ x.low : BitVec 64).setWidth 32 = x.low := BitVec.setWidth_append_eq_right
  have hhigh : ((x.tx ++ x.low : BitVec 64) >>> 32).setWidth 32 = x.tx := by
    rw [BitVec.setWidth_ushiftRight_eq_extractLsb, BitVec.extractLsb'_append_eq_left]
  rw [exec_barrier_named (by rfl) rfl hbar h, State.postSP, hlow, hhigh]
  rfl

theorem exec_barexp_refused (h : Ready s c (.barexp a b)) :
    let sum := ((s.cluster (clusterOf (coreOf c.grp))).bar k).tx.toInt + ((s.grp c.grp).sc c.slotB b.toNat).toInt
    sum < -2 ^ 31 ∨ 2 ^ 31 ≤ sum →
      exec (.barexp a b) s = .next (s.raiseE c Code.BAROVF 0 0 0 []) := by
  intro sum hout
  have hsum : sum < -2147483648 ∨ 2147483647 < sum := by omega
  rw [exec_barrier_named (by rfl) rfl hbar h, if_pos hsum, State.trapE]

theorem exec_barexp (h : Ready s c (.barexp a b)) :
    let cl := clusterOf (coreOf c.grp)
    let x := (s.cluster cl).bar k
    let sum := x.tx.toInt + ((s.grp c.grp).sc c.slotB b.toNat).toInt
    sum < 2 ^ 31 → -2 ^ 31 ≤ sum →
      exec (.barexp a b) s = .next ((s.setBar cl k { x with tx := BitVec.ofInt 32 sum }).checkBar cl k) := by
  intro cl x sum hhigh hlow
  have hsum : ¬(sum < -2147483648 ∨ 2147483647 < sum) := by omega
  rw [exec_barrier_named (by rfl) rfl hbar h, if_neg hsum]

end Words

/-- Settles O28: a handle's barrier by its range; the refused handle in each of the six words; each word by its own
equation, BARINIT by what its wake changes and BAREXP by whether the phase completes. -/
theorem barriersOfWorkGroups : Obligations.BarriersOfWorkGroups := by
  refine ⟨fun s c d a b => ?_, fun s c d a b k => ?_⟩
  · intro g w h cl held hcore
    have hheld (j : Nat) : s.barHeld w.ctx (clusterOf w.core) j = true ↔ held j := by
      rw [hcore]
      exact State.barHeld_iff ..
    refine ⟨State.barNo_own, fun hlow hhigh => ⟨fun hj => ?_, fun hj => ?_⟩, State.barNo_above, fun hnone => ?_⟩
    · rw [State.barNo_cluster hlow hhigh, if_pos ((hheld _).2 hj)]
    · rw [State.barNo_cluster hlow hhigh, if_neg (mt (hheld _).1 hj)]
    · simp only [List.forall_mem_cons, List.not_mem_nil, false_imp_iff, implies_true, and_true]
      refine ⟨?_, ?_, ?_, ?_, ?_, ?_⟩ <;> exact exec_barrier_refused (by rfl) rfl hnone
  · intro g cl x v wait status low sum hbar
    have hnoted (i : Instr) (hi : i.combines = false) : s.noted c i = s := noted_of_not_combines s c hi
    refine ⟨fun h => ?bararv, fun h => ?baraw, fun h => ?barwt, fun h => ?barinit, fun h => ?barst, fun h => ?barexp⟩
    case bararv => rw [hnoted _ rfl, exec_bararv hbar h]; rfl
    case baraw => rw [hnoted _ rfl, exec_baraw hbar h]; rfl
    case barwt =>
      dsimp only
      rw [hnoted _ rfl]
      refine ⟨exec_barwt_waiting hbar h, fun hph => (exec_barwt_turned hbar h hph).trans ?_⟩
      rw [Barrier.status_eq]
      rfl
    case barinit =>
      refine ⟨fun hn => ?_, fun hzero hmax => ⟨_, exec_barinit hbar h hzero hmax, ?_⟩⟩
      · rw [hnoted _ rfl]
        exact exec_barinit_refused hbar h hn
      · have hwoken := State.wakeBars_onlyWoken (s.setBar cl k { expa := v.toNat, holder := x.holder }) cl k 4 .core
        refine ⟨?_, fun j hj => ?_, hwoken.mem, fun g z p hcl hpark hon => ?_⟩
        · exact (congrArg (Cluster.bar · k) (hwoken.cluster cl)).trans (State.setBar_bar ..)
        · exact (congrArg (Cluster.bar · j) (hwoken.cluster cl)).trans (State.setBar_bar_ne _ _ _ _ hj)
        · refine (State.wakeBars_park _ k 4 .core z hcl).trans ?_
          exact (congrArg (Option.filter _) hpark).trans (by simp [hon])
    case barst =>
      rw [Gives, hnoted _ rfl, exec_barst hbar h, Barrier.low_eq]
      rfl
    case barexp =>
      dsimp only
      rw [hnoted _ rfl]
      refine ⟨exec_barexp_refused hbar h, fun hlow hhigh => ⟨fun hwait => ?_, fun harr hsum => ?_⟩⟩
      · exact (exec_barexp hbar h hhigh hlow).trans (congrArg _ (State.checkBar_setBar_waiting _ _ _
          (hwait.imp_right (mt (ofInt32_eq_zero_iff hlow hhigh).1))))
      · have htx : BitVec.ofInt 32 sum = 0 := (ofInt32_eq_zero_iff hlow hhigh).2 hsum
        refine ⟨_, exec_barexp hbar h hhigh hlow, ?_⟩
        refine (State.checkBar_setBar_complete s cl k (y := { x with tx := BitVec.ofInt 32 sum }) harr htx).trans ?_
        rw [htx]
        rfl

end Sys2Proof.Machine
end

section
/-! Proofs: the words on pinned windows (R234, R235), and SPAWN, SPAWNR, JDEC, QSTAT and FRAME (R276). -/

namespace Sys2Proof.Machine

/-! ## Scalar pairs -/

/-- A scalar pair written as its two halves is the results of its two registers. -/
theorem State.postSP_append (s : State) (c : Cursor) (n : Nat) (hi lo : Word) :
    s.postSP c n (hi ++ lo : BitVec 64) = s.posting c.grp [scaRes c n lo, scaRes c (n + 1) hi] := by
  have hlow : (hi ++ lo : BitVec 64).setWidth 32 = lo := BitVec.setWidth_append_eq_right
  have hhigh : ((hi ++ lo : BitVec 64) >>> 32).setWidth 32 = hi := by
    rw [BitVec.setWidth_ushiftRight_eq_extractLsb, BitVec.extractLsb'_append_eq_left]
  rw [State.postSP, hlow, hhigh]
  rfl

/-! ## Where PIN may place a window (R234) -/

theorem canonical_iff (va : Nat) : canonical va = true ↔ va / 2 ^ 56 = 0 ∨ va / 2 ^ 56 = 255 := by
  simp only [canonical, Bool.or_eq_true, beq_iff_eq, Nat.reducePow]

/-- Start and length of a window lie on blocks of 256 KiB, and the length is legal. -/
def PinAligned (start len : Nat) : Prop :=
  start % 2 ^ 18 = 0 ∧ len % 2 ^ 18 = 0 ∧ 0 < len ∧ len ≤ 384 * 2 ^ 20

/-- `n` is the lowest free number of the context's windows, and the window overlaps none of them and fits the package. -/
def State.PinFits (s : State) (ctx start len n : Nat) : Prop :=
  n < 64 ∧ tget (s.ctx ctx).pins n = none ∧ (∀ j < n, tget (s.ctx ctx).pins j ≠ none) ∧
    (∀ p ∈ (s.ctx ctx).pins, start + len ≤ p.2.start ∨ p.2.start + p.2.len ≤ start) ∧
    s.pinnedAll + len ≤ 384 * 2 ^ 20

theorem Ctx.freePin_eq_some_iff (x : Ctx) (n : Nat) :
    x.freePin = some n ↔ n < 64 ∧ tget x.pins n = none ∧ ∀ j < n, tget x.pins j ≠ none := by
  simp only [Ctx.freePin, List.find?_range_eq_some, List.mem_range, Option.isNone_iff_eq_none, Bool.not_eq_true',
    Option.isNone_eq_false_iff, Option.isSome_iff_ne_none]
  exact and_left_comm

theorem not_pinAligned_iff (start len : Nat) :
    ¬PinAligned start len ↔ start % 262144 ≠ 0 ∨ len % 262144 ≠ 0 ∨ len = 0 ∨ pinMax < len := by
  unfold PinAligned pinMax
  omega

/-- A window that has a number is placed where it overlaps none of the context's and the package has bytes left. -/
theorem State.pinBlocked_eq_false_iff (s : State) (ctx start len : Nat) :
    (((s.ctx ctx).pins.any fun p => decide (p.2.start < start + len) && decide (start < p.2.start + p.2.len)) ||
        decide (pinMax < s.pinnedAll + len)) = false ↔
      (∀ p ∈ (s.ctx ctx).pins, start + len ≤ p.2.start ∨ p.2.start + p.2.len ≤ start) ∧
        s.pinnedAll + len ≤ 384 * 2 ^ 20 := by
  simp only [Bool.or_eq_false_iff, List.any_eq_false, Bool.and_eq_true, decide_eq_true_eq, decide_eq_false_iff_not,
    Classical.not_and_iff_not_or_not, Nat.not_lt]
  exact Iff.rfl

section Windows

variable {s : State} {ctx start len : Nat}

theorem State.pinWindow_of_not_canonical (h : ¬(start / 2 ^ 56 = 0 ∨ start / 2 ^ 56 = 255)) :
    s.pinWindow ctx start len = .error Code.NCADDR := by
  have hcan : canonical start = false := Bool.eq_false_iff.2 (mt (canonical_iff start).1 h)
  simp only [State.pinWindow, hcan, Bool.not_false, if_true]

theorem State.pinWindow_of_not_aligned (hcan : start / 2 ^ 56 = 0 ∨ start / 2 ^ 56 = 255) (hbad : ¬PinAligned start len) :
    s.pinWindow ctx start len = .error Code.CMAINT := by
  rw [State.pinWindow, (canonical_iff start).2 hcan]
  exact if_pos ((not_pinAligned_iff ..).1 hbad)

/-- The window has no number, clashes with another, or is too much for the package. -/
theorem State.pinWindow_of_not_fits (hcan : start / 2 ^ 56 = 0 ∨ start / 2 ^ 56 = 255) (hal : PinAligned start len)
    (hno : ∀ n, ¬s.PinFits ctx start len n) : s.pinWindow ctx start len = .error Code.PINFULL := by
  rw [State.pinWindow, (canonical_iff start).2 hcan]
  refine (if_neg (mt (not_pinAligned_iff ..).2 (Classical.not_not.2 hal))).trans ?_
  cases hfree : (s.ctx ctx).freePin with
  | none => rfl
  | some n =>
    obtain ⟨hlt, hnone, hlow⟩ := (Ctx.freePin_eq_some_iff ..).1 hfree
    refine if_pos (eq_true_of_ne_false fun hplaced => ?_)
    obtain ⟨hdisj, hsum⟩ := (State.pinBlocked_eq_false_iff ..).1 hplaced
    exact hno n ⟨hlt, hnone, hlow, hdisj, hsum⟩

theorem State.pinWindow_of_fits {n : Nat} (hcan : start / 2 ^ 56 = 0 ∨ start / 2 ^ 56 = 255) (hal : PinAligned start len)
    (hfit : s.PinFits ctx start len n) : s.pinWindow ctx start len = .ok n := by
  obtain ⟨hlt, hnone, hlow, hdisj, hsum⟩ := hfit
  have hfree : (s.ctx ctx).freePin = some n := (Ctx.freePin_eq_some_iff ..).2 ⟨hlt, hnone, hlow⟩
  rw [State.pinWindow, (canonical_iff start).2 hcan]
  refine (if_neg (mt (not_pinAligned_iff ..).2 (Classical.not_not.2 hal))).trans ?_
  simp only [hfree]
  exact if_neg (Bool.eq_false_iff.1 ((State.pinBlocked_eq_false_iff ..).2 ⟨hdisj, hsum⟩))

end Windows

/-! ## PIN, UNPIN, PTOUCH and PSTAT (R234) -/

theorem PinWin.status_eq (w : PinWin) :
    w.status =
      BitVec.ofNat 32 (2 ^ 31 + (if w.touched then 2 ^ 30 else 0) + w.fade % 256 * 2 ^ 22 + w.len / 2 ^ 18) := by
  simp only [PinWin.status, toNat_mul_eq_ite, Nat.reducePow]

section WindowWords

variable {s : State} {c : Cursor} {d a b : BitVec 7}

/-- PIN of a refused window raises its cause. -/
theorem exec_pin_refused {k : Cause} (h : Ready s c (.pin d a b)) (hw : s.pinWindow (s.ctxOf c.grp)
      ((s.grp c.grp).sp c.slotB a.toNat).toNat ((s.grp c.grp).sc c.slotB b.toNat).toNat = .error k) :
    exec (.pin d a b) s = .next (s.pinFault c k ((s.grp c.grp).sp c.slotB a.toNat).toNat) := by
  rw [exec_of_not_combines (by rfl) rfl h]
  simp only [hw]

/-- PIN of a window that gets number `n` adds it, and gives the number and the context's blocks. -/
theorem exec_pin_placed {n : Nat} (h : Ready s c (.pin d a b)) (hw : s.pinWindow (s.ctxOf c.grp)
      ((s.grp c.grp).sp c.slotB a.toNat).toNat ((s.grp c.grp).sc c.slotB b.toNat).toNat = .ok n) :
    let x := s.ctx (s.ctxOf c.grp)
    let w : PinWin :=
      { start := ((s.grp c.grp).sp c.slotB a.toNat).toNat, len := ((s.grp c.grp).sc c.slotB b.toNat).toNat }
    let y : Ctx := { x with pins := tset x.pins n w }
    exec (.pin d a b) s = .next ((s.setCtx (s.ctxOf c.grp) y).posting c.grp
      [scaRes c d.toNat (BitVec.ofNat 32 n), scaRes c (d.toNat + 1) (BitVec.ofNat 32 (y.pinned / 2 ^ 18))]) := by
  rw [exec_of_not_combines (by rfl) rfl h]
  simp only [hw, State.postSP_append, Nat.reducePow]

theorem exec_unpin (h : Ready s c (.unpin a)) :
    let x := s.ctx (s.ctxOf c.grp)
    exec (.unpin a) s = .next (s.setCtx (s.ctxOf c.grp)
      { x with pins := tdel x.pins ((s.grp c.grp).sc c.slotB a.toNat).toNat }) :=
  exec_of_not_combines (by rfl) rfl h

theorem exec_ptouch (h : Ready s c (.ptouch a)) : exec (.ptouch a) s =
    .next (s.modPin (s.ctxOf c.grp) ((s.grp c.grp).sc c.slotB a.toNat).toNat PinWin.touch) :=
  exec_of_not_combines (by rfl) rfl h

theorem State.modPin_none {ctx k : Nat} (f : PinWin → PinWin) (hk : tget (s.ctx ctx).pins k = none) :
    s.modPin ctx k f = s := by
  simp only [State.modPin, hk]

theorem State.modPin_some {ctx k : Nat} {w : PinWin} (f : PinWin → PinWin) (hk : tget (s.ctx ctx).pins k = some w) :
    s.modPin ctx k f = s.setCtx ctx { s.ctx ctx with pins := tset (s.ctx ctx).pins k (f w) } := by
  simp only [State.modPin, hk]

theorem pstat_gives_zero (hk : tget (s.ctx (s.ctxOf c.grp)).pins ((s.grp c.grp).sc c.slotB a.toNat).toNat = none)
    (h : Ready s c (.pstat d a)) :
    Gives (.pstat d a) s c [scaRes c d.toNat 0,
      scaRes c (d.toNat + 1) (BitVec.ofNat 32 ((s.ctx (s.ctxOf c.grp)).pinned / 2 ^ 18))] := by
  rw [Gives, noted_of_not_combines s c rfl, exec_of_not_combines (by rfl) rfl h]
  simp only [hk, State.postSP_append, Nat.reducePow]

theorem pstat_gives_status {w : PinWin}
    (hk : tget (s.ctx (s.ctxOf c.grp)).pins ((s.grp c.grp).sc c.slotB a.toNat).toNat = some w) (h : Ready s c (.pstat d a)) :
    Gives (.pstat d a) s c [scaRes c d.toNat w.status,
      scaRes c (d.toNat + 1) (BitVec.ofNat 32 ((s.ctx (s.ctxOf c.grp)).pinned / 2 ^ 18))] := by
  rw [Gives, noted_of_not_combines s c rfl, exec_of_not_combines (by rfl) rfl h]
  simp only [hk, State.postSP_append, Nat.reducePow]

end WindowWords

/-! ## What a touch of pinned windows leaves as it was (R233) -/

section Touched

variable {s t : State}

theorem OnlyPins.core (h : OnlyPins s t) (k : Nat) : t.core k = s.core k :=
  (congrArg (State.core · k) h.1).trans rfl

theorem OnlyPins.ctxOf (h : OnlyPins s t) (g : Nat) : t.ctxOf g = s.ctxOf g :=
  (congrArg (State.ctxOf · g) h.1).trans rfl

theorem OnlyPins.levelOf (h : OnlyPins s t) (ctx p : Nat) : t.levelOf ctx p = s.levelOf ctx p :=
  (congrArg (fun x : Ctx => min p x.maxp) (h.2 ctx)).trans rfl

end Touched

/-! ## SPAWN, SPAWNR and JDEC (R276) -/

theorem Core.room_iff (x : Core) (l : Nat) :
    x.room l = true ↔ (x.deque l).length + tgetD x.reserved l 0 < dequeMax := decide_eq_true_iff

/-- The deque entry that a word reserves, and its entry of the issue queue. -/
theorem State.enqueuePantry_eq (s : State) (c : Cursor) (l : Nat) (body : EntryBody) :
    s.enqueuePantry c l body =
      (s.setCore (coreOf c.grp) ((s.core (coreOf c.grp)).reserve l)).queueing c 0x1E body [] 0 := rfl

/-- After touches alone, the deque entry is reserved beside those that there were. -/
theorem State.enqueuePantry_of_onlyPins {s t : State} (h : OnlyPins s t) (c : Cursor) (l : Nat) (body : EntryBody) :
    t.enqueuePantry c l body =
      (t.setCore (coreOf c.grp) ((s.core (coreOf c.grp)).reserve l)).queueing c 0x1E body [] 0 := by
  rw [State.enqueuePantry_eq, h.core]

section RecordWords

variable {i : Instr} {s : State} {c : Cursor} {a : BitVec 7} {lvOf : Nat → Nat}
  {f : Cursor → State → Nat → Nat → Nat → State}

/-- A ready word on a record: a read that fails raises its cause; one that is made touches windows alone; then the level's deque has no
room, which raises SPAWNQ, or the word's own effect `f` on the record follows. -/
theorem exec_record_word (he : exec i s = word i s fun c s => s.withRecord c a lvOf (f c)) (hi : i.combines = false)
    (h : Ready s c i) :
    let va := ((s.grp c.grp).sp c.slotB a.toNat).toNat
    let room (l : Nat) : Prop :=
      ((s.core (coreOf c.grp)).deque l).length + tgetD (s.core (coreOf c.grp)).reserved l 0 < dequeMax
    (∀ e, s.readAt c.grp va 64 64 = .error e → exec i s = .next (s.raiseRead c 0x1E e)) ∧
      ∀ bs, s.readAt c.grp va 64 64 = .ok bs →
        let u := s.seenAt c.grp va 64
        let l := min (lvOf (leNat bs)) (s.ctx (s.ctxOf c.grp)).maxp
        OnlyPins s u ∧ (¬room l → exec i s = .next (u.raiseE c 0x3C 0 0 0 [])) ∧
          (room l → ∀ {t}, f c u va (leNat bs) l = t → exec i s = .next t) := by
  have hrun := exec_of_not_combines he hi h
  refine ⟨fun e hread => ?_, fun bs hread => ?_⟩
  · rw [hrun, State.withRecord]
    simp only [hread]
    rfl
  · have hpins := State.seenAt_pins s c.grp ((s.grp c.grp).sp c.slotB a.toNat).toNat 64
    rw [State.withRecord] at hrun
    simp only [hread, hpins.core, hpins.ctxOf, hpins.levelOf, Core.room_iff] at hrun
    exact ⟨hpins, fun hfull => hrun.trans (congrArg _ (if_neg hfull)),
      fun hroom _ ht => hrun.trans (congrArg _ ((if_pos hroom).trans ht))⟩

end RecordWords

/-- The read of the kernel header at `code`, and what follows on its bytes: the step that SPAWN and SPAWNR share. -/
def State.withHeader (s : State) (c : Cursor) (code : Nat) (f : State → Nat → State) : State :=
  match s.readAt c.grp code 64 1 with
  | .error k => s.raiseRead c opPantry k
  | .ok bs => f (s.seenAt c.grp code 64) (leNat bs)

section HeaderWords

variable {s : State} {c : Cursor} {a : BitVec 7} {code : Nat} {f : State → Nat → State}

theorem State.withHeader_error {e : Cause × Nat} (hread : s.readAt c.grp code 64 1 = .error e) :
    s.withHeader c code f = s.raiseRead c 0x1E e := by
  simp only [State.withHeader, hread]
  rfl

theorem State.withHeader_ok {bs : List Byte} (hread : s.readAt c.grp code 64 1 = .ok bs) :
    s.withHeader c code f = f (s.seenAt c.grp code 64) (leNat bs) := by
  simp only [State.withHeader, hread]

/-- SPAWN on a record `v` whose level has room: its checks, its header's, its extents'. -/
def State.spawnRecord (s : State) (c : Cursor) (v l : Nat) : State :=
  if (recordBad v).isSome then s.raiseE c Code.ILLFLD 0 0 0 []
  else s.withHeader c (recordOf v).code.toNat fun u hdr =>
    if (headerBad hdr).isSome then u.raiseE c Code.ILLFLD 0 0 0 []
    else if (recordOf v).overflows (headerOf hdr) then u.raiseE c Code.WIDOVF 0 0 0 []
    else u.enqueuePantry c l (.spawn { recordOf v with ctx := u.ctxOf c.grp, prio := l, lch := false })

theorem exec_spawn_eq : exec (.spawn a) s =
    word (.spawn a) s fun c s => s.withRecord c a (fun v => (recordOf v).prio) fun s _ v l => s.spawnRecord c v l := rfl

/-- SPAWNR on the launch record `v` at `va` whose level has room: its header's place, and the checks of R268. -/
def State.spawnLaunch (s : State) (c : Cursor) (va v l : Nat) : State :=
  if launchCode v % 64 ≠ 0 then s.raiseE c Code.ILLFLD 0 0 0 []
  else s.withHeader c (launchCode v) fun u hdr =>
    if (launchBad v hdr).isSome then u.raiseE c Code.ILLFLD 0 0 0 []
    else u.enqueuePantry c l (.spawn (launchRange (u.ctxOf c.grp) va v hdr l))

theorem exec_spawnr_eq : exec (.spawnr a) s =
    word (.spawnr a) s fun c s => s.withRecord c a launchPrio fun s va v l => s.spawnLaunch c va v l := rfl

theorem exec_jdec_eq : exec (.jdec a) s =
    word (.jdec a) s fun c s => s.withRecord c a (fun v => (recordOf v).prio) fun s va _ l =>
      s.enqueuePantry c l (.jdec va l) := rfl

end HeaderWords

section RecordCases

variable {s u : State} {c : Cursor} {v l : Nat} {hb : List Byte}

theorem State.spawnRecord_bad (hbad : recordBad v ≠ none) : u.spawnRecord c v l = u.raiseE c Code.ILLFLD 0 0 0 [] :=
  if_pos (Option.isSome_iff_ne_none.2 hbad)

theorem State.spawnRecord_unreadable {e : Cause × Nat} (hok : recordBad v = none)
    (hread : u.readAt c.grp (recordOf v).code.toNat 64 1 = .error e) : u.spawnRecord c v l = u.raiseRead c 0x1E e := by
  simp only [State.spawnRecord, hok, State.withHeader_error hread]
  rfl

section Header

variable (hok : recordBad v = none) (hread : u.readAt c.grp (recordOf v).code.toNat 64 1 = .ok hb)

include hok hread

theorem State.spawnRecord_badHeader (hbad : headerBad (leNat hb) ≠ none) :
    u.spawnRecord c v l = (u.seenAt c.grp (recordOf v).code.toNat 64).raiseE c Code.ILLFLD 0 0 0 [] := by
  simp only [State.spawnRecord, hok, State.withHeader_ok hread]
  exact if_pos (Option.isSome_iff_ne_none.2 hbad)

theorem State.spawnRecord_overflows (hhdr : headerBad (leNat hb) = none)
    (hover : (recordOf v).overflows (headerOf (leNat hb)) = true) :
    u.spawnRecord c v l = (u.seenAt c.grp (recordOf v).code.toNat 64).raiseE c Code.WIDOVF 0 0 0 [] := by
  simp only [State.spawnRecord, hok, State.withHeader_ok hread, hhdr]
  exact if_pos hover

theorem State.spawnRecord_queued (hu : OnlyPins s u) (hhdr : headerBad (leNat hb) = none)
    (hfits : (recordOf v).overflows (headerOf (leNat hb)) = false) :
    u.spawnRecord c v l =
      ((u.seenAt c.grp (recordOf v).code.toNat 64).setCore (coreOf c.grp) ((s.core (coreOf c.grp)).reserve l)).queueing c
        0x1E (.spawn { recordOf v with ctx := s.ctxOf c.grp, prio := l, lch := false }) [] 0 := by
  have hseen := hu.trans (State.seenAt_pins u c.grp (recordOf v).code.toNat 64)
  simp only [State.spawnRecord, hok, State.withHeader_ok hread, hhdr, hfits, hseen.ctxOf]
  exact State.enqueuePantry_of_onlyPins hseen ..

end Header

end RecordCases

section LaunchCases

variable {s u : State} {c : Cursor} {va v l : Nat} {hb : List Byte}

theorem State.spawnLaunch_misplaced (hbad : launchCode v % 64 ≠ 0) :
    u.spawnLaunch c va v l = u.raiseE c Code.ILLFLD 0 0 0 [] := if_pos hbad

theorem State.spawnLaunch_unreadable {e : Cause × Nat} (hok : launchCode v % 64 = 0)
    (hread : u.readAt c.grp (launchCode v) 64 1 = .error e) : u.spawnLaunch c va v l = u.raiseRead c 0x1E e := by
  rw [State.spawnLaunch, if_neg (Classical.not_not.2 hok), State.withHeader_error hread]

section Header

variable (hok : launchCode v % 64 = 0) (hread : u.readAt c.grp (launchCode v) 64 1 = .ok hb)

include hok hread

theorem State.spawnLaunch_bad (hbad : launchBad v (leNat hb) ≠ none) :
    u.spawnLaunch c va v l = (u.seenAt c.grp (launchCode v) 64).raiseE c Code.ILLFLD 0 0 0 [] := by
  rw [State.spawnLaunch, if_neg (Classical.not_not.2 hok), State.withHeader_ok hread]
  exact if_pos (Option.isSome_iff_ne_none.2 hbad)

theorem State.spawnLaunch_queued (hu : OnlyPins s u) (hlaunch : launchBad v (leNat hb) = none) :
    u.spawnLaunch c va v l =
      ((u.seenAt c.grp (launchCode v) 64).setCore (coreOf c.grp) ((s.core (coreOf c.grp)).reserve l)).queueing c 0x1E
        (.spawn (launchRange (s.ctxOf c.grp) va v (leNat hb) l)) [] 0 := by
  have hseen := hu.trans (State.seenAt_pins u c.grp (launchCode v) 64)
  rw [State.spawnLaunch, if_neg (Classical.not_not.2 hok), State.withHeader_ok hread]
  simp only [hlaunch, hseen.ctxOf]
  exact State.enqueuePantry_of_onlyPins hseen ..

end Header

end LaunchCases

/-! ## QSTAT and FRAME (R276) -/

section Queries

variable {s : State} {c : Cursor} {d a : BitVec 7}

theorem qstat_gives_zeros (hlv : 3 < ((s.grp c.grp).sc c.slotB a.toNat).toNat) (h : Ready s c (.qstat d a)) :
    Gives (.qstat d a) s c [scaRes c d.toNat 0, scaRes c (d.toNat + 1) 0] := by
  rw [Gives, noted_of_not_combines s c rfl, exec_of_not_combines (by rfl) rfl h]
  exact congrArg _ ((if_pos hlv).trans (State.postSP_append s c d.toNat 0 0))

theorem qstat_gives (hlv : ((s.grp c.grp).sc c.slotB a.toNat).toNat ≤ 3) (h : Ready s c (.qstat d a)) :
    let q := (s.core (coreOf c.grp)).deque ((s.grp c.grp).sc c.slotB a.toNat).toNat
    Gives (.qstat d a) s c [scaRes c d.toNat (BitVec.ofNat 32 q.length),
      scaRes c (d.toNat + 1) (BitVec.ofNat 32 (min (2 ^ 32 - 1) (q.map fun r => r.wcnt).sum))] := by
  intro q
  rw [Gives, noted_of_not_combines s c rfl, exec_of_not_combines (by rfl) rfl h]
  exact congrArg _ ((if_neg (Nat.not_lt.2 hlv)).trans (State.postSP_append ..))

theorem frame_gives (h : Ready s c (.frame d a)) :
    Gives (.frame d a) s c
      (scaPairRes c d.toNat ((s.wg (s.grp c.grp).wg).item ((s.grp c.grp).sc c.slotB a.toNat).toNat)) := by
  rw [Gives, noted_of_not_combines s c rfl, exec_of_not_combines (by rfl) rfl h]
  rfl

end Queries

/-- Settles O33: PIN by the checks of its window, the other window words by their own equations; SPAWN, SPAWNR and JDEC by
`exec_record_word` and the branches that follow on a record; the reads of a header touch windows alone, so that the deque entry is
reserved beside those that there were. -/
theorem pinningAndSchedulingWords : Obligations.PinningAndSchedulingWords := by
  refine ⟨fun s c d a b => ?_, fun s c d a => ?_⟩
  · intro g ctx x start len k bytes aligned fits
    have hnoted (i : Instr) (hi : i.combines = false) : s.noted c i = s := noted_of_not_combines s c hi
    refine ⟨fun h => ?pin, fun h => ?unpin, fun h => ?ptouch, fun h => ?pstat⟩
    case pin =>
      dsimp only
      rw [hnoted _ rfl]
      refine ⟨fun hcan => ?_, fun hcan => ⟨fun hbad => ?_, fun hal hno => ?_, fun n hal hfit => ?_⟩⟩
      · exact exec_pin_refused h (State.pinWindow_of_not_canonical hcan)
      · exact exec_pin_refused h (State.pinWindow_of_not_aligned hcan hbad)
      · exact exec_pin_refused h (State.pinWindow_of_not_fits hcan hal hno)
      · exact exec_pin_placed h (State.pinWindow_of_fits hcan hal hfit)
    case unpin =>
      rw [hnoted _ rfl]
      exact exec_unpin h
    case ptouch =>
      dsimp only
      rw [hnoted _ rfl]
      refine ⟨fun hk => ?_, fun w hk => ?_⟩
      · rw [exec_ptouch h, State.modPin_none _ hk]
      · rw [exec_ptouch h, State.modPin_some _ hk]
        rfl
    case pstat =>
      refine ⟨fun hk => pstat_gives_zero hk h, fun w hk => ?_⟩
      rw [← PinWin.status_eq]
      exact pstat_gives_status hk h
  · intro g core ctx va w lv queued room reads
    have hnoted (i : Instr) (hi : i.combines = false) : s.noted c i = s := noted_of_not_combines s c hi
    refine ⟨fun h => ?spawn, fun h => ?spawnr, fun h => ?jdec, fun h => ?qstat, fun h => ?frame⟩
    case spawn =>
      dsimp only
      rw [hnoted _ rfl]
      obtain ⟨herr, hok⟩ := exec_record_word exec_spawn_eq rfl h
      refine ⟨herr, fun bs hread => ?_⟩
      obtain ⟨hpins, hfull, hrun⟩ := hok bs hread
      exact ⟨hpins, hfull, fun hroom => ⟨fun hbad => hrun hroom (State.spawnRecord_bad hbad),
        fun hrec e he => hrun hroom (State.spawnRecord_unreadable hrec he),
        fun hrec hb hhb => ⟨fun hbad => hrun hroom (State.spawnRecord_badHeader hrec hhb hbad),
          fun hhdr hover => hrun hroom (State.spawnRecord_overflows hrec hhb hhdr hover),
          fun hhdr hfits => hrun hroom (State.spawnRecord_queued hrec hhb hpins hhdr hfits)⟩⟩⟩
    case spawnr =>
      dsimp only
      rw [hnoted _ rfl]
      obtain ⟨herr, hok⟩ := exec_record_word exec_spawnr_eq rfl h
      refine ⟨herr, fun bs hread => ?_⟩
      obtain ⟨hpins, hfull, hrun⟩ := hok bs hread
      exact ⟨hpins, hfull, fun hroom => ⟨fun hbad => hrun hroom (State.spawnLaunch_misplaced hbad),
        fun hcode e he => hrun hroom (State.spawnLaunch_unreadable hcode he),
        fun hcode hb hhb => ⟨fun hbad => hrun hroom (State.spawnLaunch_bad hcode hhb hbad),
          fun hlaunch => hrun hroom (State.spawnLaunch_queued hcode hhb hpins hlaunch)⟩⟩⟩
    case jdec =>
      dsimp only
      rw [hnoted _ rfl]
      obtain ⟨herr, hok⟩ := exec_record_word exec_jdec_eq rfl h
      refine ⟨herr, fun bs hread => ?_⟩
      obtain ⟨hpins, hfull, hrun⟩ := hok bs hread
      exact ⟨hpins, hfull, fun hroom => hrun hroom (State.enqueuePantry_of_onlyPins hpins ..)⟩
    case qstat => exact ⟨fun hlv => qstat_gives_zeros hlv h, fun hlv => qstat_gives hlv h⟩
    case frame => exact frame_gives h

end Sys2Proof.Machine
end
